-- ==== Sys2Proof/Word.lean ====
section
/-! DEFINITION. The words of the LN-TW16: registers, lanes, line images, and the shared status codes (Table 0.4)
with the order in which the device reports them (R16). -/
namespace Sys2Proof

/-- A byte; byte 0 of a multi-byte value holds bits [7:0] (R7). -/
abbrev Byte := BitVec 8
/-- A control-space register, a vector lane, an FP32 value. -/
abbrev W32 := BitVec 32
/-- A scalar register, a program counter, a 64-bit register. -/
abbrev W64 := BitVec 64
/-- The 128 bytes of one line, byte k in bits [8k+7:8k] (R7, R24). -/
abbrev LineImg := BitVec 1024
/-- One bit per byte of a line. -/
abbrev LineMask := BitVec 128

/-- The shared status codes of Table 0.4 (R14). -/
inductive Status where
  | ok | delayed
  | refusedQueueFull | refusedRateLimit | refusedPinQuota | refusedNoCredit | heldBySuspended
  | errDecode | errGated | errSecurity
  | errUncorrectable | errPoison | errPartnerDead | errTimeout
  | abortPartitionReset | abortSquashed
  | busyUpdating | busyCalibrating | busyResetting | busyOwned
deriving DecidableEq, Repr

/-- The 8-bit code of a status (Table 0.4). -/
def Status.code : Status → Byte
  | .ok => 0x00 | .delayed => 0x01
  | .refusedQueueFull => 0x10 | .refusedRateLimit => 0x11 | .refusedPinQuota => 0x12
  | .refusedNoCredit => 0x13 | .heldBySuspended => 0x14
  | .errDecode => 0x20 | .errGated => 0x21 | .errSecurity => 0x22
  | .errUncorrectable => 0x30 | .errPoison => 0x31 | .errPartnerDead => 0x32 | .errTimeout => 0x33
  | .abortPartitionReset => 0x40 | .abortSquashed => 0x41
  | .busyUpdating => 0x50 | .busyCalibrating => 0x51 | .busyResetting => 0x52 | .busyOwned => 0x53

/-- The place of a status in the order of R16; the least rank is the one reported. -/
def Status.rank : Status → Nat
  | .errSecurity => 0 | .errDecode => 1 | .errGated => 2 | .abortPartitionReset => 3 | .abortSquashed => 4
  | .busyResetting => 5 | .busyUpdating => 6 | .busyCalibrating => 7 | .busyOwned => 8
  | .refusedQueueFull => 9 | .refusedRateLimit => 10 | .refusedPinQuota => 11 | .refusedNoCredit => 12
  | .heldBySuspended => 13
  | .errPartnerDead => 14 | .errTimeout => 15 | .errPoison => 16 | .errUncorrectable => 17
  | .delayed => 18 | .ok => 19

/-- The status reported when two conditions apply at once: the one that stands first under R16. -/
def Status.first (a b : Status) : Status := if b.rank < a.rank then b else a

/-- R15: a code from 0x10 upward means that the operation did not take effect. -/
def Status.failed (s : Status) : Bool := s != .ok && s != .delayed

/-- A status of 0x20 or above, the bound that R191, R225 and Table 3.5 name. -/
def Status.isError (s : Status) : Bool :=
  !(s == .ok || s == .delayed || s == .refusedQueueFull || s == .refusedRateLimit || s == .refusedPinQuota
    || s == .refusedNoCredit || s == .heldBySuspended)

end Sys2Proof
end

