-- ==== Sys2Proof/Syntax.lean ====
section
/-! DEFINITION. The commands the module takes: operand types and the one inductive `Instr`. -/
namespace Sys2Proof

/-- Dies 0 to 15 (R19). -/
abbrev Die := Fin 16
/-- Module-wide core slots, die·2,304 + core (R19). -/
abbrev Slot := Fin 36864
/-- Module-wide cluster numbers, die·36 + cluster (R19). -/
abbrev Cluster := Fin 576
/-- A channel, and the cache slice beside it (R289, R235). -/
abbrev Chan := Fin 64
/-- Edge ports of a die (R20). -/
abbrev Port := Fin 4
/-- Fabric port indices (R324). -/
abbrev FPort := Fin 31
/-- Partitions (R387). -/
abbrev Part := Fin 32
/-- Queue numbers 64·p + q (R368). -/
abbrev Queue := Fin 2048
/-- Caching agents: dies 0 to 15 and the companion, 16 (R264). -/
abbrev Agent := Fin 17
/-- Device numbers (R33). -/
abbrev DevNo := BitVec 18

/-- The requesters of control-space accesses (R9). -/
inductive Requester where
  | driver
  | steward
  | dieManager (die : Die)
deriving DecidableEq, Repr

/-- A thread group of a core (R61). -/
structure GRef where
  slot : Slot
  group : Fin 8
deriving DecidableEq, Repr

/-- The fields of a Format R or Format I word but for `major` and `func`, which the constructor gives
(Table 4.2): `lo` is `imm32` in Format I, and `b`, `c`, `bs` and res0 in Format R. -/
structure IW where
  pred : BitVec 4
  d : BitVec 6
  a : BitVec 6
  ty : BitVec 3
  lo : W32
deriving DecidableEq, Repr

/-- The fields of a branch or loop word (Table 4.3): `mid` is bits [52:32]. -/
structure BW where
  pred : BitVec 4
  mid : BitVec 21
  off : W32
deriving DecidableEq, Repr

/-- The four ALU majors of Table 4.6. -/
inductive AluForm where
  | salu | salui | valu | valui
deriving DecidableEq, Repr

/-- The two MUL majors of Table 4.6. -/
inductive MulForm where
  | smul | vmul
deriving DecidableEq, Repr

/-- The compare majors with a predicate destination (R104). -/
inductive CmpForm where
  | scmp | scmpi | vcmp | vcmpi
deriving DecidableEq, Repr

/-- The FP32 arithmetic majors (Table 6.1). -/
inductive FpForm where
  | vfp | vfpi
deriving DecidableEq, Repr

/-- A block barrier of a core's block, or a cluster barrier of the block-cluster in a slot of a cluster (R68). -/
inductive BarRef where
  | block (slot : Slot)
  | cluster (cl : Cluster) (slot : Fin 64)
deriving DecidableEq, Repr

/-- The rim blocks that stand behind crossing FIFOs (Table 2.2). -/
inductive RimBlock where
  | channel (n : Chan)
  | linkUnit (port : Port) (unit : Fin 2)
  | clusters
deriving DecidableEq, Repr

/-- A link unit of an edge port (R323). -/
structure LinkUnit where
  die : Die
  port : Port
  unit : Fin 2
deriving DecidableEq, Repr

/-- One line's data with the words that carry the poison mark (R306). -/
structure LineVal where
  img : LineImg
  psn : BitVec 16
deriving DecidableEq, Repr

/-- The answer of an endpoint outside the module: the companion (R367), with an error mark. -/
structure ExtAns where
  failed : Bool
  img : LineImg
deriving DecidableEq, Repr

/-- A read that reaches a home slice: a request of the array by number, or one of the companion. -/
inductive HomeRead where
  | req (rid : Nat)
  | companion (addr : Nat) (bytes : Fin 129)
deriving DecidableEq, Repr

/-- A write that reaches a home slice: a request of the array by number, or one of the companion. -/
inductive HomeWrite where
  | req (rid : Nat)
  | companion (line : Nat) (mask : LineMask) (img : LineImg)
deriving DecidableEq, Repr

/-- A write to a 64-bit register: the whole of it, or one half (R8, R9). -/
inductive WideAcc where
  | full (v : W64)
  | low (v : W32)
  | high (v : W32)
deriving DecidableEq, Repr

/-- Why a die link is permanently faulty (R327). -/
inductive LinkFault where
  | untrained | lockLost | replays
deriving DecidableEq, Repr

/-- The identity frame of a neighbour (Table 12.6). -/
structure Ident where
  moduleId : W64
  device : DevNo
  devValid : Bool
  port : BitVec 5
  narrow : Bool
  steppingB0 : Bool
  version : BitVec 4
  failed : Bool
deriving DecidableEq, Repr

/-- The message types of Table 12.5. -/
inductive TType where
  | rd | wr | red | atom | rdata | ack | adata
deriving DecidableEq, Repr

/-- One entry of a transport ATOM: byte offset in the line, and its operands in bytes 8 to 23 (Table 12.5). -/
structure AtomEntry where
  off : Byte
  op0 : W64
  op1 : W64
deriving DecidableEq, Repr

/-- A transport message: the header of Table 12.4 and the payload its type carries (Table 12.5).
`wellFormed` is false when the type, address or control is one the device cannot accept; `tag` follows an encrypted payload, and
`tagOk` says that it verifies. -/
structure TMsg where
  typ : TType
  dst : DevNo
  src : DevNo
  status : Status
  hops : BitVec 5
  failed : Bool
  urg : Bool
  enc : Bool
  addr : BitVec 46
  entry : BitVec 11
  port : BitVec 5
  kslot : BitVec 5
  epoch : BitVec 16
  func : BitVec 4
  ty : BitVec 4
  words : W32
  mask : LineMask
  img : LineImg
  entries : List AtomEntry
  results : List W64
  tagOk : Bool
  wellFormed : Bool
  tag : BitVec 128 := 0
deriving DecidableEq, Repr

/-- A link frame as it arrives: its sequence number, whether its CRC holds, how many of this end's frames it newly
acknowledges, whether it asks for a replay, the credits it returns for requests and for answers, the symbols that the FEC
corrected and the codewords that it could not correct since the frame before (R330, R331), and its messages (Table 12.2). -/
structure FrameIn where
  seq : Nat
  crcOk : Bool
  acked : Nat
  nak : Bool
  credReq : Nat
  credAns : Nat
  fecCorr : Nat
  fecUncorr : Nat
  msgs : List TMsg
deriving DecidableEq, Repr

/-- An entry of the receive table `SEC_RX` (Table 17.12). -/
structure RxEntry where
  kslot : BitVec 5
  valid : Bool
  partition : BitVec 5
  epoch : BitVec 16
deriving DecidableEq, Repr

/-- The bytes of control space that a read asks for: their offset within a die and their number (R8). -/
structure ReadAt where
  off : Nat
  size : Nat
deriving DecidableEq, Repr

/-- What a datagram of a Slate request brings beside its type and its body (Table 17.8): the request's number and credential, the
datagram's index and their number, and the signature over its header and its part of the body. -/
structure SlateHdr where
  seq : W64
  cred : Byte
  chunk : BitVec 16
  chunks : BitVec 16
  sig : BitVec 512
deriving DecidableEq, Repr

/-- Datagrams of a Slate message whose body has n bytes: each holds up to 1,136 of them (R489). -/
def slateChunks (n : Nat) : Nat := max 1 ((n + 1135) / 1136)

/-- The commands of the module: one constructor for each row of the opcode table, in its order. -/
inductive Instr where
  /-- CONTROL_WRITE. R8, R10: a control-space write of `size` bytes at `off` of a die's control space. -/
  | controlWrite (who : Requester) (die : Die) (off : Nat) (size : Nat) (data : W64)
  /-- LOW_HALF_READ. R9: a 4-byte read; of a low half, it latches the high half. -/
  | lowHalfRead (who : Requester) (die : Die) (off : ReadAt)
  /-- HOME_INTERLEAVE_WRITE. R28, R288. -/
  | homeInterleaveWrite (who : Requester) (die : Die) (v : W32)
  /-- UNDERVOLTAGE. R41, R434. -/
  | undervoltage (die : Die)
  /-- RIM_CLOCK_GATE_REQUEST. R45. -/
  | rimClockGateRequest (die : Die) (blk : RimBlock)
  /-- CROSSING_DRAINED. R45. -/
  | crossingDrained (die : Die) (blk : RimBlock)
  /-- RIM_CLOCK_GATE_TIMEOUT. R45. -/
  | rimClockGateTimeout (die : Die) (blk : RimBlock)
  /-- LAUNCH. R55, R62, R399: the next descriptor of queue q, a launch, begins. -/
  | launch (q : Queue)
  /-- SLOT_FREE. R59, R60, R400: the slot of the cluster with that number, in the order of R58. -/
  | slotFree (cl : Cluster) (slot : Fin 64)
  /-- ADD. R101, Table 4.6. -/
  | add (g : GRef) (f : AluForm) (w : IW)
  /-- SUB. R101, Table 4.6. -/
  | sub (g : GRef) (f : AluForm) (w : IW)
  /-- MIN. R101, Table 4.6. -/
  | min (g : GRef) (f : AluForm) (w : IW)
  /-- MAX. R101, Table 4.6. -/
  | max (g : GRef) (f : AluForm) (w : IW)
  /-- ABS. R101, Table 4.6. -/
  | abs (g : GRef) (f : AluForm) (w : IW)
  /-- NEG. R101, Table 4.6. -/
  | neg (g : GRef) (f : AluForm) (w : IW)
  /-- AND. R101, Table 4.6. -/
  | and (g : GRef) (f : AluForm) (w : IW)
  /-- OR. R101, Table 4.6. -/
  | or (g : GRef) (f : AluForm) (w : IW)
  /-- XOR. R101, Table 4.6. -/
  | xor (g : GRef) (f : AluForm) (w : IW)
  /-- ANDN. R101, Table 4.6. -/
  | andn (g : GRef) (f : AluForm) (w : IW)
  /-- NOT. R101, Table 4.6. -/
  | not (g : GRef) (f : AluForm) (w : IW)
  /-- SHL. R101, Table 4.6. -/
  | shl (g : GRef) (f : AluForm) (w : IW)
  /-- SHR. R101, Table 4.6. -/
  | shr (g : GRef) (f : AluForm) (w : IW)
  /-- POPC. R101, Table 4.6. -/
  | popc (g : GRef) (f : AluForm) (w : IW)
  /-- CLZ. R101, Table 4.6. -/
  | clz (g : GRef) (f : AluForm) (w : IW)
  /-- CTZ. R101, Table 4.6. -/
  | ctz (g : GRef) (f : AluForm) (w : IW)
  /-- MOV. R101, Table 4.6. -/
  | mov (g : GRef) (f : AluForm) (w : IW)
  /-- SEL. R101, Table 4.6. -/
  | sel (g : GRef) (f : AluForm) (w : IW)
  /-- MUL. R101, Table 4.6. -/
  | mul (g : GRef) (f : MulForm) (w : IW)
  /-- MULH. R101, Table 4.6. -/
  | mulh (g : GRef) (f : MulForm) (w : IW)
  /-- MAD. R101, Table 4.6. -/
  | mad (g : GRef) (f : MulForm) (w : IW)
  /-- DIV. R102, Table 4.6. -/
  | div (g : GRef) (f : MulForm) (w : IW)
  /-- REM. R102, Table 4.6. -/
  | rem (g : GRef) (f : MulForm) (w : IW)
  /-- MOVI. R103, Table 4.7. -/
  | movi (g : GRef) (w : IW)
  /-- MOVHI. R103, Table 4.7. -/
  | movhi (g : GRef) (w : IW)
  /-- VMOVI. R103, Table 4.7. -/
  | vmovi (g : GRef) (w : IW)
  /-- VBCAST. R103, Table 4.7. -/
  | vbcast (g : GRef) (w : IW)
  /-- VLANE. R103, Table 4.7. -/
  | vlane (g : GRef) (w : IW)
  /-- VLANEID. R103, Table 4.7. -/
  | vlaneid (g : GRef) (w : IW)
  /-- CMP. R104, R105, Table 4.8. -/
  | cmp (g : GRef) (f : CmpForm) (cond : BitVec 6) (w : IW)
  /-- SETC. R104, Table 4.8. -/
  | setc (g : GRef) (cond : BitVec 6) (w : IW)
  /-- PAND. R106, Table 4.9. -/
  | pand (g : GRef) (w : IW)
  /-- POR. R106, Table 4.9. -/
  | por (g : GRef) (w : IW)
  /-- PXOR. R106, Table 4.9. -/
  | pxor (g : GRef) (w : IW)
  /-- PANDN. R106, Table 4.9. -/
  | pandn (g : GRef) (w : IW)
  /-- PNOT. R106, Table 4.9. -/
  | pnot (g : GRef) (w : IW)
  /-- PMOV. R106, Table 4.9. -/
  | pmov (g : GRef) (w : IW)
  /-- PSET. R106, Table 4.9. -/
  | pset (g : GRef) (w : IW)
  /-- PGET. R106, Table 4.9. -/
  | pget (g : GRef) (w : IW)
  /-- PPOP. R106, Table 4.9. -/
  | ppop (g : GRef) (w : IW)
  /-- PFIRST. R106, Table 4.9. -/
  | pfirst (g : GRef) (w : IW)
  /-- BR. R107, R108. -/
  | br (g : GRef) (w : BW)
  /-- BR_IND. R107, R108. -/
  | brInd (g : GRef) (w : BW)
  /-- LOOP. R109. -/
  | loop (g : GRef) (w : BW)
  /-- NOP. R112. -/
  | nop (g : GRef) (w : IW)
  /-- EXIT. R72, R112. -/
  | exit (g : GRef) (w : IW)
  /-- BAR_BLOCK. R68. -/
  | barBlock (g : GRef) (w : IW)
  /-- BAR_CLUSTER. R68. -/
  | barCluster (g : GRef) (w : IW)
  /-- BARRIER_COMPLETE. R69, R70. -/
  | barrierComplete (b : BarRef)
  /-- BARRIER_TIMEOUT. R73, R75. -/
  | barrierTimeout (b : BarRef)
  /-- BRK. R115. -/
  | brk (g : GRef) (w : IW)
  /-- RDSR. R113, R114. -/
  | rdsr (g : GRef) (w : IW)
  /-- FETCH. R111: `ext` is the answer of an endpoint outside the module, where the address maps to one. -/
  | fetch (g : GRef) (ext : Option ExtAns)
  /-- LAUNCH_HALT. R80: for launch number l. -/
  | launchHalt (l : Nat)
  /-- FADD. R158, R159, Table 6.6. -/
  | fadd (g : GRef) (f : FpForm) (w : IW)
  /-- FSUB. R158, R159, Table 6.6. -/
  | fsub (g : GRef) (f : FpForm) (w : IW)
  /-- FMUL. R158, R159, Table 6.6. -/
  | fmul (g : GRef) (f : FpForm) (w : IW)
  /-- FFMA. R158, R159, Table 6.6. -/
  | ffma (g : GRef) (f : FpForm) (w : IW)
  /-- FFMS. R158, R159, Table 6.6. -/
  | ffms (g : GRef) (f : FpForm) (w : IW)
  /-- FNMA. R158, R159, Table 6.6. -/
  | fnma (g : GRef) (f : FpForm) (w : IW)
  /-- FMIN. R158, R159, Table 6.6. -/
  | fmin (g : GRef) (f : FpForm) (w : IW)
  /-- FMAX. R158, R159, Table 6.6. -/
  | fmax (g : GRef) (f : FpForm) (w : IW)
  /-- FABS. R158, R159, Table 6.6. -/
  | fabs (g : GRef) (f : FpForm) (w : IW)
  /-- FNEG. R158, R159, Table 6.6. -/
  | fneg (g : GRef) (f : FpForm) (w : IW)
  /-- FSCALE. R158, R159, Table 6.6. -/
  | fscale (g : GRef) (f : FpForm) (w : IW)
  /-- FRCP. R160, Table 6.7. -/
  | frcp (g : GRef) (w : IW)
  /-- FRSQRT. R160, Table 6.7. -/
  | frsqrt (g : GRef) (w : IW)
  /-- FSQRT. R160, Table 6.7. -/
  | fsqrt (g : GRef) (w : IW)
  /-- FEXP2. R160, Table 6.7. -/
  | fexp2 (g : GRef) (w : IW)
  /-- FLOG2. R160, Table 6.7. -/
  | flog2 (g : GRef) (w : IW)
  /-- FSINPI. R160, Table 6.7. -/
  | fsinpi (g : GRef) (w : IW)
  /-- FCOSPI. R160, Table 6.7. -/
  | fcospi (g : GRef) (w : IW)
  /-- FTANH. R160, Table 6.7. -/
  | ftanh (g : GRef) (w : IW)
  /-- FRADD. R161, Table 6.8. -/
  | fradd (g : GRef) (w : IW)
  /-- FRMAX. R161, Table 6.8. -/
  | frmax (g : GRef) (w : IW)
  /-- FRMIN. R161, Table 6.8. -/
  | frmin (g : GRef) (w : IW)
  /-- IRADD. R161, Table 6.8. -/
  | iradd (g : GRef) (w : IW)
  /-- IRMAX. R161, Table 6.8. -/
  | irmax (g : GRef) (w : IW)
  /-- IRMIN. R161, Table 6.8. -/
  | irmin (g : GRef) (w : IW)
  /-- CVT. R162, Table 6.10. -/
  | cvt (g : GRef) (func : BitVec 6) (w : IW)
  /-- BSCALE. R163. -/
  | bscale (g : GRef) (func : BitVec 6) (w : IW)
  /-- BCVT. R164. -/
  | bcvt (g : GRef) (func : BitVec 6) (w : IW)
  /-- SHFL. R165, Table 6.12. -/
  | shfl (g : GRef) (w : IW)
  /-- ROT. R165, Table 6.12. -/
  | rot (g : GRef) (w : IW)
  /-- QBSHUF. R165, Table 6.12. -/
  | qbshuf (g : GRef) (w : IW)
  /-- SHFL_XOR. R165, Table 6.12. -/
  | shflXor (g : GRef) (w : IW)
  /-- ROTI. R165, Table 6.12. -/
  | roti (g : GRef) (w : IW)
  /-- LANEB. R165, Table 6.12. -/
  | laneb (g : GRef) (w : IW)
  /-- INSB. R165, Table 6.12. -/
  | insb (g : GRef) (w : IW)
  /-- MMA. R122, R140 to R149. -/
  | mma (g : GRef) (func : BitVec 6) (w : IW)
  /-- MMA_SP. R122, R146, R147. -/
  | mmaSp (g : GRef) (func : BitVec 6) (w : IW)
  /-- MATRIX_TILE_WRITE. R153: the oldest matrix result of the core in flight is written. -/
  | matrixTileWrite (slot : Slot)
  /-- TZERO. R150, Table 6.4. -/
  | tzero (g : GRef) (w : IW)
  /-- TLD_V. R150, Table 6.4. -/
  | tldV (g : GRef) (w : IW)
  /-- TST_V. R150, Table 6.4. -/
  | tstV (g : GRef) (w : IW)
  /-- TLD_S. R150, Table 6.4. -/
  | tldS (g : GRef) (w : IW)
  /-- TST_S. R150, R530. -/
  | tstS (g : GRef) (w : IW)
  /-- LD_S. R168 to R177, Table 7.3. -/
  | ldS (g : GRef) (func : BitVec 6) (w : IW)
  /-- LD_V. R168 to R177, Table 7.3. -/
  | ldV (g : GRef) (func : BitVec 6) (w : IW)
  /-- LD_G. R168 to R177, Table 7.3. -/
  | ldG (g : GRef) (func : BitVec 6) (w : IW)
  /-- ST_S. R168 to R177, Table 7.3. -/
  | stS (g : GRef) (func : BitVec 6) (w : IW)
  /-- ST_V. R168 to R177, Table 7.3. -/
  | stV (g : GRef) (func : BitVec 6) (w : IW)
  /-- ST_G. R168 to R177, Table 7.3. -/
  | stG (g : GRef) (func : BitVec 6) (w : IW)
  /-- PF_L1. R179. -/
  | pfL1 (g : GRef) (w : IW)
  /-- PF_SLICE. R179. -/
  | pfSlice (g : GRef) (w : IW)
  /-- ATOM. R180, R181, R184. -/
  | atom (g : GRef) (func : BitVec 6) (w : IW)
  /-- RED. R182, R184, R186. -/
  | red (g : GRef) (func : BitVec 6) (w : IW)
  /-- LDR. R187. -/
  | ldr (g : GRef) (func : BitVec 6) (w : IW)
  /-- STC. R187. -/
  | stc (g : GRef) (func : BitVec 6) (w : IW)
  /-- FENCE. R190, R215. -/
  | fence (g : GRef) (w : IW)
  /-- FENCE_C. R190, R215. -/
  | fenceC (g : GRef) (w : IW)
  /-- ACQ. R190, R215. -/
  | acq (g : GRef) (w : IW)
  /-- REL. R190, R215. -/
  | rel (g : GRef) (w : IW)
  /-- FENCE_COMPLETE. R215, R216, R228. -/
  | fenceComplete (g : GRef)
  /-- TM_SUBMIT. R194, R197 to R199. -/
  | tmSubmit (g : GRef) (w : IW)
  /-- TM_WAIT. R194, R197 to R199. -/
  | tmWait (g : GRef) (w : IW)
  /-- TM_TEST. R194, R197 to R199. -/
  | tmTest (g : GRef) (w : IW)
  /-- TM_CHUNK. R196, R198, R200. -/
  | tmChunk (cl : Cluster) (ext : Option ExtAns)
  /-- STORE_BUFFER_SEND. R206, R211, R225. -/
  | storeBufferSend (g : GRef)
  /-- LOAD_ANSWER. R191: request number rid. -/
  | loadAnswer (rid : Nat) (ext : Option ExtAns)
  /-- STORE_ACK. R192: request number rid. -/
  | storeAck (rid : Nat) (ext : Option ExtAns)
  /-- REQUEST_TIMEOUT. R224. -/
  | requestTimeout (rid : Nat)
  /-- TINT_READ. R243. -/
  | tintRead (rid : Nat)
  /-- PLAIN_READ. R239. -/
  | plainRead (r : HomeRead)
  /-- WRITE. R529, R208, R210. -/
  | write (r : HomeWrite)
  /-- REDUCE_STORE. R249 to R251. -/
  | reduceStore (rid : Nat)
  /-- ATOM_REQUEST. R185. -/
  | atomRequest (rid : Nat)
  /-- LDR_REQUEST. R187, R189. -/
  | ldrRequest (rid : Nat)
  /-- STC_REQUEST. R187, R189. -/
  | stcRequest (rid : Nat)
  /-- LEASE_EXPIRY. R189. -/
  | leaseExpiry (line : Nat)
  /-- MEMORY_DATA. R253: the oldest answer of the channel reaches the slice. -/
  | memoryData (die : Die) (ch : Chan)
  /-- CHANNEL_REQUEST. R307: the channel serves its oldest request. -/
  | channelRequest (die : Die) (ch : Chan)
  /-- PREFETCH. R255 to R257, R260: the cache packet next in queue q begins. -/
  | prefetch (q : Queue)
  /-- FLUSH. R255 to R257, R260: the cache packet next in queue q begins. -/
  | flush (q : Queue)
  /-- INVALIDATE. R255 to R257, R260: the cache packet next in queue q begins. -/
  | invalidate (q : Queue)
  /-- PIN. R255 to R257, R260: the cache packet next in queue q begins. -/
  | pin (q : Queue)
  /-- UNPIN. R255 to R257, R260: the cache packet next in queue q begins. -/
  | unpin (q : Queue)
  /-- RANGE_LINE_ACTION. R257, Table 9.6: the slice's next line action. -/
  | rangeLineAction (die : Die) (ch : Chan)
  /-- RANGE_REPORT. R258. -/
  | rangeReport (q : Queue)
  /-- SLICE_CTRL_WRITE. R245, R263. -/
  | sliceCtrlWrite (who : Requester) (die : Die) (ch : Chan) (v : W32)
  /-- TINT_CHANGE_DONE. R245. -/
  | tintChangeDone (die : Die) (ch : Chan)
  /-- SLICE_PIN_QUOTA_WRITE. R263. -/
  | slicePinQuotaWrite (who : Requester) (die : Die) (ch : Chan) (p : Part) (v : W32)
  /-- SLICE_CNT_CLEAR. R262. -/
  | sliceCntClear (who : Requester) (die : Die) (ch : Chan) (v : W32)
  /-- RDS. R275. -/
  | rds (a : Agent) (line : Nat)
  /-- RDOWN. R275. -/
  | rdown (line : Nat)
  /-- UPG. R275. -/
  | upg (line : Nat)
  /-- PUTF. R275, R276. -/
  | putf (e : Die) (line : Nat)
  /-- PUTS. R275, R276. -/
  | puts (line : Nat)
  /-- PUTE. R275, R276. -/
  | pute (line : Nat)
  /-- PUTM. R275, R276. -/
  | putm (line : Nat) (img : LineImg)
  /-- PUTO. R275, R276. -/
  | puto (line : Nat) (img : LineImg)
  /-- INV. R272, R274: `written` is what the companion has written silently into an E copy. -/
  | inv (a : Agent) (line : Nat) (written : Option LineImg)
  /-- FWDRD. R272. -/
  | fwdrd (e : Die) (line : Nat) (r : Die)
  /-- SNPRD. R274. -/
  | snprd (line : Nat) (written : Option LineImg)
  /-- INVACK. R276. -/
  | invack (a : Agent) (line : Nat)
  /-- INVDATA. R276. -/
  | invdata (line : Nat) (img : LineImg)
  /-- SNPACK. R276. -/
  | snpack (line : Nat)
  /-- SNPDATA. R276. -/
  | snpdata (line : Nat) (img : LineImg)
  /-- SNPDATAO. R276. -/
  | snpdatao (line : Nat) (img : LineImg)
  /-- FWDDONE. R276. -/
  | fwddone (e : Die) (line : Nat)
  /-- PUTACK. R272, R280, R281. -/
  | putack (a : Agent) (line : Nat)
  /-- RETRY. R272, R280, R281. -/
  | retry (a : Agent) (line : Nat)
  /-- CREDIT. R272, R280, R281. -/
  | credit (a : Agent) (line : Nat)
  /-- GRANTE. R275. -/
  | grante (line : Nat)
  /-- DATAF. R272. -/
  | dataf (e : Die) (line : Nat) (v : LineVal)
  /-- DATAS. R275. -/
  | datas (line : Nat) (v : LineVal)
  /-- DATAE. R275. -/
  | datae (line : Nat) (v : LineVal)
  /-- DATAPSN. R272. -/
  | datapsn (a : Agent) (line : Nat)
  /-- HOME_AMBER_REQ_WRITE. R282. -/
  | homeAmberReqWrite (who : Requester) (die : Die) (x : WideAcc)
  /-- AMBER_TRANSITION_DONE. R282. -/
  | amberTransitionDone (die : Die) (ch : Chan)
  /-- PROBE_TIMEOUT. R284, R286. -/
  | probeTimeout (line : Nat) (a : Agent)
  /-- HOME_CNT_CLEAR. R287. -/
  | homeCntClear (who : Requester) (die : Die) (v : W32)
  /-- PROBE_LOG_CLEAR. R287. -/
  | probeLogClear (who : Requester) (die : Die) (v : W32)
  /-- TRAINING. R294 to R296: the descriptor read and the wires that failed. -/
  | training (die : Die) (ch : Chan) (desc : BitVec 512) (failed : List (Fin 328))
  /-- TRAINING_COMPLETE. R294, R297. -/
  | trainingComplete (die : Die) (ch : Chan) (tuned : Bool)
  /-- RECAL_NOW. R299, R319. -/
  | recalNow (who : Requester) (die : Die) (ch : Chan) (v : W32)
  /-- RECAL_INTERVAL_EXPIRY. R299. -/
  | recalIntervalExpiry (die : Die) (ch : Chan)
  /-- RECAL_WIRE. R298, R300. -/
  | recalWire (die : Die) (ch : Chan) (margin : Bool)
  /-- REFRESH. R302. -/
  | refresh (die : Die) (ch : Chan)
  /-- OFFLINE_REQ. R319. -/
  | offlineReq (who : Requester) (die : Die) (ch : Chan) (v : W32)
  /-- ONLINE_REQ. R319. -/
  | onlineReq (who : Requester) (die : Die) (ch : Chan) (v : W32)
  /-- ICT_RUN. R318, R319. -/
  | ictRun (who : Requester) (die : Die) (ch : Chan) (v : W32)
  /-- ICT_DONE. R318. -/
  | ictDone (die : Die) (ch : Chan) (failed : List (Fin 328))
  /-- GO. R314. -/
  | go (who : Requester) (die : Die) (ch : Chan) (v : W32)
  /-- STOP. R317. -/
  | stop (who : Requester) (die : Die) (ch : Chan) (v : W32)
  /-- SCRUB_LINE. R315, R316. -/
  | scrubLine (die : Die) (ch : Chan)
  /-- RAW_READ. R312, R313. -/
  | rawRead (who : Requester) (die : Die) (ch : Chan) (v : W32)
  /-- RAW_WRITE. R312, R313. -/
  | rawWrite (who : Requester) (die : Die) (ch : Chan) (v : W32)
  /-- MC_CNT_CLEAR. R320. -/
  | mcCntClear (who : Requester) (die : Die) (ch : Chan) (v : W32)
  /-- CE_TABLE_CLEAR. R309. -/
  | ceTableClear (who : Requester) (die : Die) (v : W32)
  /-- FRAME. R325, R331. -/
  | frame (u : LinkUnit) (x : FrameIn)
  /-- DIE_LINK_TRAINED. R326. -/
  | dieLinkTrained (die : Die) (port : Port)
  /-- DIE_LINK_FAULT. R327. -/
  | dieLinkFault (die : Die) (port : Port) (why : LinkFault)
  /-- FAILED_DEGRADED. R328, R329: for cause 2, the slice that stops. -/
  | failedDegraded (die : Die) (cause : Fin 8) (unit : Chan)
  /-- PORT_ACTIVE. R332, R335: the lanes of the unit that failed to train, and the partner's identity frame. -/
  | portActive (fp : FPort) (failed : BitVec 16) (ident : Ident)
  /-- IDENTITY_FRAME. R337. -/
  | identityFrame (fp : FPort) (ident : Ident)
  /-- PARTNER_LOSS. R350. -/
  | partnerLoss (fp : FPort)
  /-- QUIESCE_NOTICE. R353. -/
  | quiesceNotice (fp : FPort)
  /-- LANE_MARGIN_LOW. R351. -/
  | laneMarginLow (die : Die) (port : Port) (lane : Fin 56) (height : Byte) (width : Byte)
  /-- RD. R334, R343. -/
  | rd (fp : FPort) (x : TMsg)
  /-- WR. R334, R343. -/
  | wr (fp : FPort) (x : TMsg)
  /-- TRANSPORT_RED. R334, R343. -/
  | transportRed (fp : FPort) (x : TMsg)
  /-- TRANSPORT_ATOM. R334, R343. -/
  | transportAtom (fp : FPort) (x : TMsg)
  /-- RDATA. R334, R343. -/
  | rdata (fp : FPort) (x : TMsg)
  /-- ACK. R334, R343. -/
  | ack (fp : FPort) (x : TMsg)
  /-- ADATA. R334, R343. -/
  | adata (fp : FPort) (x : TMsg)
  /-- TRANSIT_TIMEOUT. R340: the i-th waiting transit message. -/
  | transitTimeout (i : Nat)
  /-- DEAD_PARTNER_TIMEOUT. R347. -/
  | deadPartnerTimeout (fp : FPort) (dev : DevNo)
  /-- DEAD_MAP_PROPAGATION. R348. -/
  | deadMapPropagation (dev : DevNo)
  /-- FAB_DEAD_MAP_WRITE. R349, R356. -/
  | fabDeadMapWrite (who : Requester) (die : Die) (k : Fin 8192) (v : W32)
  /-- ROUTE_LOAD_ACTIVE. R338, R342. -/
  | routeLoadActive
  /-- LU_ENABLE. R352, Table 12.8. -/
  | luEnable (who : Requester) (u : LinkUnit)
  /-- LU_DISABLE. R352, Table 12.8. -/
  | luDisable (who : Requester) (u : LinkUnit)
  /-- LU_QUIESCE. R352, Table 12.8. -/
  | luQuiesce (who : Requester) (u : LinkUnit)
  /-- QUIESCED. R353. -/
  | quiesced (fp : FPort)
  /-- LU_RESUME. R352, Table 12.8. -/
  | luResume (who : Requester) (u : LinkUnit)
  /-- LU_RETRAIN. R352, Table 12.8. -/
  | luRetrain (who : Requester) (u : LinkUnit)
  /-- LR_ROLE_WRITE. R357. -/
  | lrRoleWrite (who : Requester) (die : Die) (port : Port) (v : W32)
  /-- LU_CREDIT_RES_WRITE. R346. -/
  | luCreditResWrite (who : Requester) (fp : FPort) (p : Part) (v : W32)
  /-- EP_CNT_CLEAR. R358. -/
  | epCntClear (who : Requester) (die : Die) (port : Port) (v : W32)
  /-- VILPIN_TRAINED. R269, R361, R362. -/
  | vilpinTrained (rev2 : Bool)
  /-- VILPIN_LOSS. R362. -/
  | vilpinLoss
  /-- DOORBELL. R371. -/
  | doorbell (q : Queue) (tail : W32)
  /-- Q_CQ_HEAD_WRITE. R370. -/
  | qCqHeadWrite (q : Queue) (v : W32)
  /-- Q_CFG_WRITE. R375, R385. -/
  | qCfgWrite (q : Queue) (v : W32)
  /-- Q_IRQ_ADDR_WRITE. R373. -/
  | qIrqAddrWrite (q : Queue) (x : WideAcc)
  /-- COPY. R377. -/
  | copy (q : Queue)
  /-- FENCE_DESCRIPTOR. R378. -/
  | fenceDescriptor (q : Queue)
  /-- POWER_HINT. R379, R432. -/
  | powerHint (q : Queue)
  /-- ACQUIRE. R381. -/
  | acquire (q : Queue)
  /-- RELEASE. R381. -/
  | release (q : Queue)
  /-- SET. R381. -/
  | set (q : Queue)
  /-- ACQUIRE_TIMEOUT. R382. -/
  | acquireTimeout (q : Queue)
  /-- COMPLETION_RECORD. R373, R374, R383. -/
  | completionRecord (q : Queue)
  /-- PART_CREATE. R392, Table 14.3. -/
  | partCreate (who : Requester) (p : Part)
  /-- PART_ACTIVATE. R392, Table 14.3. -/
  | partActivate (who : Requester) (p : Part)
  /-- PART_RESET. R392, Table 14.3. -/
  | partReset (who : Requester) (p : Part)
  /-- PART_REMOVE. R392, Table 14.3. -/
  | partRemove (who : Requester) (p : Part)
  /-- RESET_STEP4_TIMEOUT. R414. -/
  | resetStep4Timeout (p : Part)
  /-- PART_PREEMPT. R408. -/
  | partPreempt (who : Requester) (p : Part) (q : Fin 64)
  /-- SAVE_COMPLETE. R409. -/
  | saveComplete (l : Nat)
  /-- PART_RESUME. R412. -/
  | partResume (who : Requester) (p : Part) (q : Fin 64)
  /-- RESTORE_COMPLETE. R412. -/
  | restoreComplete (l : Nat)
  /-- PART_FREEZE. R420. -/
  | partFreeze (who : Requester) (p : Part)
  /-- FREEZE_COMPLETE. R420. -/
  | freezeComplete (p : Part)
  /-- PART_THAW. R421. -/
  | partThaw (who : Requester) (p : Part)
  /-- CLUSTER_OWNER_WRITE. R388. -/
  | clusterOwnerWrite (who : Requester) (cl : Cluster) (v : W32)
  /-- GRANULE_OWNER_WRITE. R388. -/
  | granuleOwnerWrite (who : Requester) (gr : Fin 3072) (v : W32)
  /-- PART_CFG_WRITE. R393, R394, R418. -/
  | partCfgWrite (who : Requester) (p : Part) (v : W32)
  /-- PART_RATE_WRITE. R402. -/
  | partRateWrite (who : Requester) (p : Part) (v : W32)
  /-- TOKEN_REFILL. R402. -/
  | tokenRefill
  /-- PART_TLB_INV. R397. -/
  | partTlbInv (who : Requester) (p : Part) (v : W32)
  /-- PART_NOTIFY_ADDR_WRITE. R528. -/
  | partNotifyAddrWrite (who : Requester) (p : Part) (x : WideAcc)
  /-- VCORE_TARGET_WRITE. R423. -/
  | vcoreTargetWrite (who : Requester) (die : Die) (v : W32)
  /-- PWR_CAP_WRITE. R427. -/
  | pwrCapWrite (who : Requester) (v : W32)
  /-- CAP_LOOP. R428, R429, R441, R442: the measurements of the period. -/
  | capLoop (mw : W32) (volt : BitVec 16) (inA outA inB outB : Byte)
  /-- HINT_EXPIRY. R430. -/
  | hintExpiry (p : Part)
  /-- DROOP_TRIP. R433. -/
  | droopTrip (die : Die) (cl : Fin 36)
  /-- CLAMP_RELEASE. R433. -/
  | clampRelease (die : Die)
  /-- DIE_LOOP_PERIOD. R435 to R437, R301 to R303, R439: byte i is sensor i in degrees C. -/
  | dieLoopPeriod (die : Die) (temps : BitVec 104)
  /-- GATE. R439. -/
  | gate (who : Requester) (die : Die) (cl : BitVec 6)
  /-- WAKE_CLUSTER. R439. -/
  | wakeCluster (who : Requester) (die : Die) (cl : BitVec 6)
  /-- DROOP_CFG_WRITE. R444. -/
  | droopCfgWrite (who : Requester) (die : Die) (v : W32)
  /-- THERM_CFG_WRITE. R444. -/
  | thermCfgWrite (who : Requester) (die : Die) (v : W32)
  /-- STEWARD_WARM_RESET. R434. -/
  | stewardWarmReset
  /-- CLK_CTRL_SRC_WRITE. R449, R464. -/
  | clkCtrlSrcWrite (who : Requester) (die : Die) (v : W32)
  /-- LOOP_A_LOCK_LOSS. R450. -/
  | loopALockLoss (die : Die)
  /-- LOOP_B_LOCK_LOSS. R450. -/
  | loopBLockLoss (die : Die) (n : Port)
  /-- CLK_EN_WRITE. R451. -/
  | clkEnWrite (who : Requester) (die : Die) (v : W32)
  /-- TIMER_SNAPSHOT. R452. -/
  | timerSnapshot (who : Requester) (v : W32)
  /-- POWER_ON_RESET. R447, R453, R493, R524: the straps, CRED_CLR_N low and WARM_RST_N low as PWR_GOOD rises. -/
  | powerOnReset (strap : Byte) (credClrLow : Bool) (warmLow : Bool)
  /-- PWR_GOOD_FALL. R521. -/
  | pwrGoodFall
  /-- RST_CMD_WARM_RESET. R454, R456. -/
  | rstCmdWarmReset (who : Requester)
  /-- WARM_RST_N. R524. -/
  | warmRstN
  /-- CORE_RESET. R457. -/
  | coreReset (who : Requester) (die : Die) (v : W32)
  /-- CORE_RESET_DRAIN_TIMEOUT. R226, R457. -/
  | coreResetDrainTimeout (die : Die)
  /-- STANDBY. R458. -/
  | standby (who : Requester)
  /-- STANDBY_COMPLETE. R458. -/
  | standbyComplete
  /-- WAKE. R459. -/
  | wake (who : Requester)
  /-- STRAP_DELAY_EXPIRY. R460. -/
  | strapDelayExpiry
  /-- CRYSTAL_CHECK. R460, R463: the counts over 1,000 SOSC periods, and whether loop A locks within 1 ms. -/
  | crystalCheck (die : Die) (countA : Nat) (countB : Nat) (locks : Bool)
  /-- STEWARD_BOOT. R471. -/
  | stewardBoot
  /-- DIE_JOIN. R460, R471. -/
  | dieJoin (die : Die)
  /-- STAGE_BOUND_EXPIRY. R461, R463. -/
  | stageBoundExpiry
  /-- MODULE_READY. R460. -/
  | moduleReady
  /-- ATTEST. R476. -/
  | attest (h : SlateHdr) (part : Option Part) (nonce : BitVec 256)
  /-- IDENTITY. R469, R490. -/
  | identity (h : SlateHdr)
  /-- TELEMETRY. R490. -/
  | telemetry (h : SlateHdr)
  /-- ROUTE_LOAD. R338, R492. -/
  | routeLoad (h : SlateHdr) (dev : DevNo) (members : List (BitVec 31)) (groups : List (BitVec 31))
  /-- DEAD_CLEAR. R349. -/
  | deadClear (h : SlateHdr) (dev : DevNo)
  /-- RX_UPDATE. R481, R487. -/
  | rxUpdate (h : SlateHdr) (es : List (Fin 64 × RxEntry))
  /-- SET_ADDR. R489. -/
  | setAddr (h : SlateHdr) (module : BitVec 128) (manager : BitVec 128)
  /-- WARM_RESET. R453, R492. -/
  | warmReset (h : SlateHdr)
  /-- FW_STAGE. R472. -/
  | fwStage (h : SlateHdr) (chunk : List Byte) (last : Bool)
  /-- FW_ACTIVATE. R472. -/
  | fwActivate (h : SlateHdr)
  /-- FW_CONFIRM. R472. -/
  | fwConfirm (h : SlateHdr)
  /-- KEY_LOAD. R483 to R485, Table 17.6. -/
  | keyLoad (h : SlateHdr) (body : List Byte)
  /-- EPOCH_RETIRE. R483, R487. -/
  | epochRetire (h : SlateHdr) (p : Part) (epoch : BitVec 16)
  /-- CRED_SET. R490, R492. -/
  | credSet (h : SlateHdr) (i : Fin 8) (key : BitVec 256) (roles : BitVec 6)
  /-- SLATE_CHUNK_TIMEOUT. R489. -/
  | slateChunkTimeout (seq : W64)
  /-- READ_BOOT_STATE. R493, Table 17.11. -/
  | readBootState
  /-- READ_MODULE_IDENTIFIER. R493, Table 17.11. -/
  | readModuleIdentifier
  /-- READ_HIGHEST_DIE_TEMPERATURE. R493, Table 17.11. -/
  | readHighestDieTemperature
  /-- READ_STANDBY_STATE. R493, Table 17.11. -/
  | readStandbyState
  /-- ENROLL. R493. -/
  | enroll (key : BitVec 256)
  /-- SEAL. R477. -/
  | seal (who : Requester) (v : W32)
  /-- MEAS_EXTEND. R474, R494. -/
  | measExtend (who : Requester) (v : W32)
  /-- SEC_KSLOT_EPOCH_WRITE. R482. -/
  | secKslotEpochWrite (who : Requester) (p : Part) (v : W32)
  /-- DBG_ATTACH_ARM. R496. -/
  | dbgAttachArm (who : Requester) (p : Part) (v : W32)
  /-- DBG_ATTACH_NOW. R496. -/
  | dbgAttachNow (who : Requester) (p : Part) (v : W32)
  /-- DBG_DETACH. R496. -/
  | dbgDetach (who : Requester) (p : Part) (v : W32)
  /-- DBG_HALT. R497. -/
  | dbgHalt (who : Requester) (die : Die)
  /-- DBG_STEP. R497. -/
  | dbgStep (who : Requester) (die : Die)
  /-- DBG_RESUME. R497. -/
  | dbgResume (who : Requester) (die : Die)
  /-- DBG_READ. R497. -/
  | dbgRead (who : Requester) (die : Die)
  /-- DBG_WRITE. R497. -/
  | dbgWrite (who : Requester) (die : Die)
  /-- DBG_END. R497. -/
  | dbgEnd (who : Requester) (die : Die)
  /-- SELF_TEST. R501. -/
  | selfTest (who : Requester) (die : Die) (v : W32)
  /-- SELF_TEST_END. R501, R503. -/
  | selfTestEnd (die : Die) (failed : W64)
  /-- SLICE_TEST. R502. -/
  | sliceTest (who : Requester) (die : Die) (v : W32)
  /-- SLICE_TEST_END. R502, R503. -/
  | sliceTestEnd (die : Die) (failed : Bool)
  /-- DBG_CNT_CFG_WRITE. R505. -/
  | dbgCntCfgWrite (who : Requester) (die : Die) (k : Fin 16) (v : W32)
  /-- CSUP_CORE_FAULT_CLEAR. R84. -/
  | csupCoreFaultClear (who : Requester) (cl : Cluster) (x : WideAcc)
  /-- DM_FLT_CONSUMED_WRITE. R507. -/
  | dmFltConsumedWrite (who : Requester) (die : Die) (v : W32)
  /-- FATAL_CLEAR. R507. -/
  | fatalClear (who : Requester) (die : Die) (v : W32)
  /-- DM_IRQ_ADDR_WRITE. R509. -/
  | dmIrqAddrWrite (who : Requester) (x : WideAcc)
  /-- DM_IRQ_PAUSE_EXPIRY. R509: `taken` says that the companion took the write. -/
  | dmIrqPauseExpiry (taken : Bool)
  /-- ILLEGAL_OPCODE. R96. -/
  | illegalOpcode (g : GRef) (word : W64)
  /-- VCORE_RAMP_DONE. R423. -/
  | vcoreRampDone (die : Die)
deriving DecidableEq, Repr

end Sys2Proof
end

