-- ==== Sys2Proof/Decode.lean ====
section
/-! DEFINITION. The table of commands gives no row any bits (opcode_table.json), so no word of the table spells a command.
The 64-bit words that thread groups fetch (R93 to R96, Tables 4.2 to 4.4) do spell commands: the ones by which a group
issues them. They are decoded here, and encoded. -/
namespace Sys2Proof

/-- The command that a word of the table spells: none, since no row of the table has bits. -/
def decodeTableWord (_nbits _w : Nat) : Option Instr := none

/-! ### The opcode map -/

/-- The major opcodes that Table 4.4 assigns. -/
def assignedMajor (mj : Nat) : Bool :=
  [0x01, 0x08, 0x09, 0x0A, 0x0B, 0x0C, 0x0D, 0x0E, 0x10, 0x11, 0x12, 0x13, 0x14, 0x15, 0x18, 0x20, 0x21, 0x22, 0x23,
   0x24, 0x25, 0x26, 0x27, 0x28, 0x30, 0x31, 0x32, 0x40, 0x41, 0x42, 0x48, 0x49, 0x4A, 0x4B, 0x4C, 0x4D, 0x4E, 0x50,
   0x51, 0x52, 0x53, 0x54, 0x58].contains mj

/-- The functions that a major opcode defines (Tables 4.6 to 4.10, 6.1 to 6.12, 7.1 to 7.7). -/
def assignedFunc (mj f : Nat) : Bool :=
  let alu := [0, 1, 2, 3, 8, 9, 0xA, 0xB, 0x10, 0x11].contains f
  match mj with
  | 0x01 => decide (f < 6)
  | 0x09 | 0x11 => alu
  | 0x08 | 0x10 => alu || [4, 5, 0xC, 0x14, 0x15, 0x16, 0x18, 0x1A].contains f
  | 0x0A => decide (f < 5)
  | 0x12 => decide (f < 3)
  | 0x0B | 0x0C | 0x0D => decide (f < 6)
  | 0x13 | 0x14 => decide (f < 8)
  | 0x0E => decide (f < 2)
  | 0x15 => decide (f < 4)
  | 0x18 => decide (f < 6) || (decide (8 ≤ f) && decide (f < 12))
  | 0x20 => decide (f < 11)
  | 0x21 => [0, 1, 2, 6, 7, 10].contains f
  | 0x22 => decide (f < 8)
  | 0x23 => [0, 1, 2, 8, 9, 10].contains f
  | 0x24 => decide (f < 8) || (decide (0x10 ≤ f) && decide (f < 0x18)) || (decide (0x20 ≤ f) && decide (f < 0x24))
  | 0x25 | 0x26 => decide (f < 6)
  | 0x27 => decide (f < 3)
  | 0x28 => decide (f < 4)
  | 0x30 => decide (f < 6) || (decide (8 ≤ f) && decide (f < 16))
  | 0x31 => decide (f < 6)
  | 0x32 => decide (f < 5)
  | 0x4E => decide (f < 2)
  | 0x50 => decide (f < 8)
  | 0x51 => decide (f < 6) || f == 8
  | 0x52 | 0x53 => f == 0
  | 0x54 => decide (f < 4)
  | 0x58 => decide (f < 3)
  | _ => true

/-! ### Fields of a word (Tables 4.2 and 4.3) -/

/-- Bits [63:57] and [40:35]. -/
def wordMajor (w : W64) : Nat := (w.extractLsb' 57 7).toNat
def wordFunc (w : W64) : BitVec 6 := w.extractLsb' 35 6
/-- The fields of Format R and Format I. -/
def wordIW (w : W64) : IW :=
  ⟨w.extractLsb' 53 4, w.extractLsb' 47 6, w.extractLsb' 41 6, w.extractLsb' 32 3, w.extractLsb' 0 32⟩
/-- The fields of the branch and loop formats. -/
def wordBW (w : W64) : BW := ⟨w.extractLsb' 53 4, w.extractLsb' 32 21, w.extractLsb' 0 32⟩

/-- The word names no instruction: its major, or its function under that major, is not defined (R95, R96). -/
def wordUnassigned (w : W64) : Bool := !(assignedMajor (wordMajor w) && assignedFunc (wordMajor w) (wordFunc w).toNat)

/-- A word of Format R or I. -/
def packIW (mj : BitVec 7) (f : BitVec 6) (x : IW) : W64 := mj ++ x.pred ++ x.d ++ x.a ++ f ++ x.ty ++ x.lo
/-- A word of a branch or loop format. -/
def packBW (mj : BitVec 7) (x : BW) : W64 := mj ++ x.pred ++ x.mid ++ x.off

/-! ### Decoding -/

/-- The instruction of a function (Table 4.6). -/
def aluInstr (g : GRef) (k : AluForm) (x : IW) : Nat → Option Instr
  | 0 => some (.add g k x)
  | 1 => some (.sub g k x)
  | 2 => some (.min g k x)
  | 3 => some (.max g k x)
  | 4 => some (.abs g k x)
  | 5 => some (.neg g k x)
  | 8 => some (.and g k x)
  | 9 => some (.or g k x)
  | 10 => some (.xor g k x)
  | 11 => some (.andn g k x)
  | 12 => some (.not g k x)
  | 16 => some (.shl g k x)
  | 17 => some (.shr g k x)
  | 20 => some (.popc g k x)
  | 21 => some (.clz g k x)
  | 22 => some (.ctz g k x)
  | 24 => some (.mov g k x)
  | 26 => some (.sel g k x)
  | _ => none
/-- The instruction of a function (Table 4.6). -/
def mulInstr (g : GRef) (k : MulForm) (x : IW) : Nat → Option Instr
  | 0 => some (.mul g k x)
  | 1 => some (.mulh g k x)
  | 2 => some (.mad g k x)
  | 3 => some (.div g k x)
  | 4 => some (.rem g k x)
  | _ => none
/-- The instruction of a function (Table 6.6). -/
def fpInstr (g : GRef) (k : FpForm) (x : IW) : Nat → Option Instr
  | 0 => some (.fadd g k x)
  | 1 => some (.fsub g k x)
  | 2 => some (.fmul g k x)
  | 3 => some (.ffma g k x)
  | 4 => some (.ffms g k x)
  | 5 => some (.fnma g k x)
  | 6 => some (.fmin g k x)
  | 7 => some (.fmax g k x)
  | 8 => some (.fabs g k x)
  | 9 => some (.fneg g k x)
  | 10 => some (.fscale g k x)
  | _ => none
/-- The instruction of a function (Table 4.10). -/
def sysInstr (g : GRef) (x : IW) : Nat → Option Instr
  | 0 => some (.nop g x)
  | 1 => some (.exit g x)
  | 2 => some (.barBlock g x)
  | 3 => some (.barCluster g x)
  | 4 => some (.brk g x)
  | 5 => some (.rdsr g x)
  | _ => none
/-- The instruction of a function (Table 4.7). -/
def smovInstr (g : GRef) (x : IW) : Nat → Option Instr
  | 0 => some (.movi g x)
  | 1 => some (.movhi g x)
  | _ => none
/-- The instruction of a function (Table 4.7). -/
def vmovInstr (g : GRef) (x : IW) : Nat → Option Instr
  | 0 => some (.vmovi g x)
  | 1 => some (.vbcast g x)
  | 2 => some (.vlane g x)
  | 3 => some (.vlaneid g x)
  | _ => none
/-- The instruction of a function (Table 4.9). -/
def predInstr (g : GRef) (x : IW) : Nat → Option Instr
  | 0 => some (.pand g x)
  | 1 => some (.por g x)
  | 2 => some (.pxor g x)
  | 3 => some (.pandn g x)
  | 4 => some (.pnot g x)
  | 5 => some (.pmov g x)
  | 8 => some (.pset g x)
  | 9 => some (.pget g x)
  | 10 => some (.ppop g x)
  | 11 => some (.pfirst g x)
  | _ => none
/-- The instruction of a function (Table 6.7). -/
def vtransInstr (g : GRef) (x : IW) : Nat → Option Instr
  | 0 => some (.frcp g x)
  | 1 => some (.frsqrt g x)
  | 2 => some (.fsqrt g x)
  | 3 => some (.fexp2 g x)
  | 4 => some (.flog2 g x)
  | 5 => some (.fsinpi g x)
  | 6 => some (.fcospi g x)
  | 7 => some (.ftanh g x)
  | _ => none
/-- The instruction of a function (Table 6.8). -/
def vredInstr (g : GRef) (x : IW) : Nat → Option Instr
  | 0 => some (.fradd g x)
  | 1 => some (.frmax g x)
  | 2 => some (.frmin g x)
  | 8 => some (.iradd g x)
  | 9 => some (.irmax g x)
  | 10 => some (.irmin g x)
  | _ => none
/-- The instruction of a function (Table 6.12). -/
def permInstr (g : GRef) (x : IW) : Nat → Option Instr
  | 0 => some (.shfl g x)
  | 1 => some (.rot g x)
  | 2 => some (.qbshuf g x)
  | _ => none
/-- The instruction of a function (Table 6.12). -/
def permiInstr (g : GRef) (x : IW) : Nat → Option Instr
  | 0 => some (.shflXor g x)
  | 1 => some (.roti g x)
  | 2 => some (.laneb g x)
  | 3 => some (.insb g x)
  | _ => none
/-- The instruction of a function (Table 6.4). -/
def tileInstr (g : GRef) (x : IW) : Nat → Option Instr
  | 0 => some (.tzero g x)
  | 1 => some (.tldV g x)
  | 2 => some (.tstV g x)
  | 3 => some (.tldS g x)
  | 4 => some (.tstS g x)
  | _ => none
/-- The instruction of a function (R183). -/
def pfInstr (g : GRef) (x : IW) : Nat → Option Instr
  | 0 => some (.pfL1 g x)
  | 1 => some (.pfSlice g x)
  | _ => none
/-- The instruction of a function (Table 7.6). -/
def fencesInstr (g : GRef) (x : IW) : Nat → Option Instr
  | 0 => some (.fence g x)
  | 1 => some (.fenceC g x)
  | 2 => some (.acq g x)
  | 3 => some (.rel g x)
  | _ => none
/-- The instruction of a function (Table 7.7). -/
def moverInstr (g : GRef) (x : IW) : Nat → Option Instr
  | 0 => some (.tmSubmit g x)
  | 1 => some (.tmWait g x)
  | 2 => some (.tmTest g x)
  | _ => none

/-- The command by which a group issues a word, or none where the word's major opcode or function is not defined: the group
then raises ILLEGAL_OPCODE (R95, R96). -/
def groupInstr (g : GRef) (w : W64) : Option Instr :=
  let x := wordIW w
  let f := wordFunc w
  if wordUnassigned w then none
  else match wordMajor w with
  | 0x01 => sysInstr g x f.toNat
  | 0x08 => aluInstr g .salu x f.toNat
  | 0x09 => aluInstr g .salui x f.toNat
  | 0x0A => mulInstr g .smul x f.toNat
  | 0x0B => some (.cmp g .scmp f x)
  | 0x0C => some (.cmp g .scmpi f x)
  | 0x0D => some (.setc g f x)
  | 0x0E => smovInstr g x f.toNat
  | 0x10 => aluInstr g .valu x f.toNat
  | 0x11 => aluInstr g .valui x f.toNat
  | 0x12 => mulInstr g .vmul x f.toNat
  | 0x13 => some (.cmp g .vcmp f x)
  | 0x14 => some (.cmp g .vcmpi f x)
  | 0x15 => vmovInstr g x f.toNat
  | 0x18 => predInstr g x f.toNat
  | 0x20 => fpInstr g .vfp x f.toNat
  | 0x21 => fpInstr g .vfpi x f.toNat
  | 0x22 => vtransInstr g x f.toNat
  | 0x23 => vredInstr g x f.toNat
  | 0x24 => some (.cvt g f x)
  | 0x25 => some (.bscale g f x)
  | 0x26 => some (.bcvt g f x)
  | 0x27 => permInstr g x f.toNat
  | 0x28 => permiInstr g x f.toNat
  | 0x30 => some (.mma g f x)
  | 0x31 => some (.mmaSp g f x)
  | 0x32 => tileInstr g x f.toNat
  | 0x40 => some (.br g (wordBW w))
  | 0x41 => some (.brInd g (wordBW w))
  | 0x42 => some (.loop g (wordBW w))
  | 0x48 => some (.ldS g f x)
  | 0x49 => some (.ldV g f x)
  | 0x4A => some (.ldG g f x)
  | 0x4B => some (.stS g f x)
  | 0x4C => some (.stV g f x)
  | 0x4D => some (.stG g f x)
  | 0x4E => pfInstr g x f.toNat
  | 0x50 => some (.atom g f x)
  | 0x51 => some (.red g f x)
  | 0x52 => some (.ldr g f x)
  | 0x53 => some (.stc g f x)
  | 0x54 => fencesInstr g x f.toNat
  | 0x58 => moverInstr g x f.toNat
  | _ => none

/-! ### Encoding -/

/-- A word of Format R or I, where Table 4.4 and the function tables define it. -/
def spell (mj : BitVec 7) (f : BitVec 6) (x : IW) : Option W64 :=
  if assignedMajor mj.toNat && assignedFunc mj.toNat f.toNat then some (packIW mj f x) else none
/-- The major opcodes of the forms. -/
def AluForm.major : AluForm → BitVec 7
  | .salu => 0x08 | .salui => 0x09 | .valu => 0x10 | .valui => 0x11
def MulForm.major : MulForm → BitVec 7
  | .smul => 0x0A | .vmul => 0x12
def FpForm.major : FpForm → BitVec 7
  | .vfp => 0x20 | .vfpi => 0x21
def CmpForm.major : CmpForm → BitVec 7
  | .scmp => 0x0B | .scmpi => 0x0C | .vcmp => 0x13 | .vcmpi => 0x14

/-- The group that issues a command and the word it issues; none for a command that is no instruction of a group, and for a
form that the manual does not define. -/
def groupWord : Instr → Option (GRef × W64)
  | .add g k x => (spell k.major 0 x).map fun w => (g, w)
  | .sub g k x => (spell k.major 1 x).map fun w => (g, w)
  | .min g k x => (spell k.major 2 x).map fun w => (g, w)
  | .max g k x => (spell k.major 3 x).map fun w => (g, w)
  | .abs g k x => (spell k.major 4 x).map fun w => (g, w)
  | .neg g k x => (spell k.major 5 x).map fun w => (g, w)
  | .and g k x => (spell k.major 8 x).map fun w => (g, w)
  | .or g k x => (spell k.major 9 x).map fun w => (g, w)
  | .xor g k x => (spell k.major 10 x).map fun w => (g, w)
  | .andn g k x => (spell k.major 11 x).map fun w => (g, w)
  | .not g k x => (spell k.major 12 x).map fun w => (g, w)
  | .shl g k x => (spell k.major 16 x).map fun w => (g, w)
  | .shr g k x => (spell k.major 17 x).map fun w => (g, w)
  | .popc g k x => (spell k.major 20 x).map fun w => (g, w)
  | .clz g k x => (spell k.major 21 x).map fun w => (g, w)
  | .ctz g k x => (spell k.major 22 x).map fun w => (g, w)
  | .mov g k x => (spell k.major 24 x).map fun w => (g, w)
  | .sel g k x => (spell k.major 26 x).map fun w => (g, w)
  | .mul g k x => (spell k.major 0 x).map fun w => (g, w)
  | .mulh g k x => (spell k.major 1 x).map fun w => (g, w)
  | .mad g k x => (spell k.major 2 x).map fun w => (g, w)
  | .div g k x => (spell k.major 3 x).map fun w => (g, w)
  | .rem g k x => (spell k.major 4 x).map fun w => (g, w)
  | .fadd g k x => (spell k.major 0 x).map fun w => (g, w)
  | .fsub g k x => (spell k.major 1 x).map fun w => (g, w)
  | .fmul g k x => (spell k.major 2 x).map fun w => (g, w)
  | .ffma g k x => (spell k.major 3 x).map fun w => (g, w)
  | .ffms g k x => (spell k.major 4 x).map fun w => (g, w)
  | .fnma g k x => (spell k.major 5 x).map fun w => (g, w)
  | .fmin g k x => (spell k.major 6 x).map fun w => (g, w)
  | .fmax g k x => (spell k.major 7 x).map fun w => (g, w)
  | .fabs g k x => (spell k.major 8 x).map fun w => (g, w)
  | .fneg g k x => (spell k.major 9 x).map fun w => (g, w)
  | .fscale g k x => (spell k.major 10 x).map fun w => (g, w)
  | .cmp g k f x => (spell k.major f x).map fun w => (g, w)
  | .setc g f x => (spell 0x0D f x).map fun w => (g, w)
  | .nop g x => (spell 0x01 0 x).map fun w => (g, w)
  | .exit g x => (spell 0x01 1 x).map fun w => (g, w)
  | .barBlock g x => (spell 0x01 2 x).map fun w => (g, w)
  | .barCluster g x => (spell 0x01 3 x).map fun w => (g, w)
  | .brk g x => (spell 0x01 4 x).map fun w => (g, w)
  | .rdsr g x => (spell 0x01 5 x).map fun w => (g, w)
  | .movi g x => (spell 0x0E 0 x).map fun w => (g, w)
  | .movhi g x => (spell 0x0E 1 x).map fun w => (g, w)
  | .vmovi g x => (spell 0x15 0 x).map fun w => (g, w)
  | .vbcast g x => (spell 0x15 1 x).map fun w => (g, w)
  | .vlane g x => (spell 0x15 2 x).map fun w => (g, w)
  | .vlaneid g x => (spell 0x15 3 x).map fun w => (g, w)
  | .pand g x => (spell 0x18 0 x).map fun w => (g, w)
  | .por g x => (spell 0x18 1 x).map fun w => (g, w)
  | .pxor g x => (spell 0x18 2 x).map fun w => (g, w)
  | .pandn g x => (spell 0x18 3 x).map fun w => (g, w)
  | .pnot g x => (spell 0x18 4 x).map fun w => (g, w)
  | .pmov g x => (spell 0x18 5 x).map fun w => (g, w)
  | .pset g x => (spell 0x18 8 x).map fun w => (g, w)
  | .pget g x => (spell 0x18 9 x).map fun w => (g, w)
  | .ppop g x => (spell 0x18 10 x).map fun w => (g, w)
  | .pfirst g x => (spell 0x18 11 x).map fun w => (g, w)
  | .frcp g x => (spell 0x22 0 x).map fun w => (g, w)
  | .frsqrt g x => (spell 0x22 1 x).map fun w => (g, w)
  | .fsqrt g x => (spell 0x22 2 x).map fun w => (g, w)
  | .fexp2 g x => (spell 0x22 3 x).map fun w => (g, w)
  | .flog2 g x => (spell 0x22 4 x).map fun w => (g, w)
  | .fsinpi g x => (spell 0x22 5 x).map fun w => (g, w)
  | .fcospi g x => (spell 0x22 6 x).map fun w => (g, w)
  | .ftanh g x => (spell 0x22 7 x).map fun w => (g, w)
  | .fradd g x => (spell 0x23 0 x).map fun w => (g, w)
  | .frmax g x => (spell 0x23 1 x).map fun w => (g, w)
  | .frmin g x => (spell 0x23 2 x).map fun w => (g, w)
  | .iradd g x => (spell 0x23 8 x).map fun w => (g, w)
  | .irmax g x => (spell 0x23 9 x).map fun w => (g, w)
  | .irmin g x => (spell 0x23 10 x).map fun w => (g, w)
  | .shfl g x => (spell 0x27 0 x).map fun w => (g, w)
  | .rot g x => (spell 0x27 1 x).map fun w => (g, w)
  | .qbshuf g x => (spell 0x27 2 x).map fun w => (g, w)
  | .shflXor g x => (spell 0x28 0 x).map fun w => (g, w)
  | .roti g x => (spell 0x28 1 x).map fun w => (g, w)
  | .laneb g x => (spell 0x28 2 x).map fun w => (g, w)
  | .insb g x => (spell 0x28 3 x).map fun w => (g, w)
  | .tzero g x => (spell 0x32 0 x).map fun w => (g, w)
  | .tldV g x => (spell 0x32 1 x).map fun w => (g, w)
  | .tstV g x => (spell 0x32 2 x).map fun w => (g, w)
  | .tldS g x => (spell 0x32 3 x).map fun w => (g, w)
  | .tstS g x => (spell 0x32 4 x).map fun w => (g, w)
  | .pfL1 g x => (spell 0x4E 0 x).map fun w => (g, w)
  | .pfSlice g x => (spell 0x4E 1 x).map fun w => (g, w)
  | .fence g x => (spell 0x54 0 x).map fun w => (g, w)
  | .fenceC g x => (spell 0x54 1 x).map fun w => (g, w)
  | .acq g x => (spell 0x54 2 x).map fun w => (g, w)
  | .rel g x => (spell 0x54 3 x).map fun w => (g, w)
  | .tmSubmit g x => (spell 0x58 0 x).map fun w => (g, w)
  | .tmWait g x => (spell 0x58 1 x).map fun w => (g, w)
  | .tmTest g x => (spell 0x58 2 x).map fun w => (g, w)
  | .cvt g f x => (spell 0x24 f x).map fun w => (g, w)
  | .bscale g f x => (spell 0x25 f x).map fun w => (g, w)
  | .bcvt g f x => (spell 0x26 f x).map fun w => (g, w)
  | .mma g f x => (spell 0x30 f x).map fun w => (g, w)
  | .mmaSp g f x => (spell 0x31 f x).map fun w => (g, w)
  | .ldS g f x => (spell 0x48 f x).map fun w => (g, w)
  | .ldV g f x => (spell 0x49 f x).map fun w => (g, w)
  | .ldG g f x => (spell 0x4A f x).map fun w => (g, w)
  | .stS g f x => (spell 0x4B f x).map fun w => (g, w)
  | .stV g f x => (spell 0x4C f x).map fun w => (g, w)
  | .stG g f x => (spell 0x4D f x).map fun w => (g, w)
  | .atom g f x => (spell 0x50 f x).map fun w => (g, w)
  | .red g f x => (spell 0x51 f x).map fun w => (g, w)
  | .ldr g f x => (spell 0x52 f x).map fun w => (g, w)
  | .stc g f x => (spell 0x53 f x).map fun w => (g, w)
  | .br g x => some (g, packBW 0x40 x)
  | .brInd g x => some (g, packBW 0x41 x)
  | .loop g x => some (g, packBW 0x42 x)
  | _ => none

end Sys2Proof
end

