-- ==== Sys2Proof/Config.lean ====
section
/-! DEFINITION. What one module fixes and the manual does not state: the values below have no body, so that nothing
can be proved of them. Each has its row in notes/assumptions. -/
namespace Sys2Proof.Config

/-- The columns of the word code as a module was built with them: "This manual does not list their values" (R304). -/
opaque colChoice : Nat → BitVec 16
/-- The unpublished approximation of VTRANS function `func` (R160), as far as it keeps to the bounds of Table 6.7. -/
opaque vtrans : Nat → W32 → W32
/-- An upset of stored bits: a word of a scratchpad, of a first-level cache line, of a home way or of a tint way, with an error
that the code of that array corrects or one that it does not (`hard`); or one of the 80 bits of a word of stacked memory. -/
inductive Upset where
  | spad (slot word : Nat) (hard : Bool)
  | l1 (slot line word : Nat) (hard : Bool)
  | way (line word : Nat) (hard : Bool)
  | tint (die line word : Nat) (hard : Bool)
  | mem (line word bit : Nat)
deriving DecidableEq, Repr

/-- The upsets in the n-th tick that the module idles: the manual says what an upset leads to (R232, R241, R305), and not when
one happens. -/
opaque upsets : Nat → List Upset
/-- A fresh value the manual leaves open, for the n-th draw. -/
opaque freeValue : Nat → W64
/-- SHA-512 (R467 to R475), a named outside algorithm. -/
opaque sha512 : List Byte → BitVec 512
/-- Ed25519: public key, message, signature (R469, R470, R490). -/
opaque ed25519Verify : BitVec 256 → List Byte → BitVec 512 → Bool
/-- Ed25519 signature by the key pair of a 256-bit seed (R467). -/
opaque ed25519Sign : BitVec 256 → List Byte → BitVec 512
/-- Ed25519 public key of a seed (R467). -/
opaque ed25519Public : BitVec 256 → BitVec 256
/-- X25519 of a scalar and a point (R467, R484). -/
opaque x25519 : BitVec 256 → BitVec 256 → BitVec 256
/-- The X25519 base point. -/
opaque x25519Base : BitVec 256
/-- AES-256-GCM opening: key, IV, additional data, ciphertext, tag (R480, R484). -/
opaque gcmOpen : BitVec 256 → BitVec 96 → List Byte → List Byte → BitVec 128 → Option (List Byte)
/-- AES-256-GCM sealing: key, IV, additional data, plaintext; the ciphertext and the 16-byte tag (R480). -/
opaque gcmSeal : BitVec 256 → List Byte → List Byte → List Byte → List Byte
/-- AES-256-XTS of one 128-byte line under a 512-bit key and a tweak (R478). -/
opaque xtsEncrypt : BitVec 512 → BitVec 128 → LineImg → LineImg
/-- The inverse direction of `xtsEncrypt` (R478). -/
opaque xtsDecrypt : BitVec 512 → BitVec 128 → LineImg → LineImg
/-- Fuse words of a die's identity block at an offset (Table 17.1, type fuse). -/
opaque idFuse : Nat → Nat → W32
/-- The stepping of a die: false A1, true B0 (R1, Table 17.1). -/
opaque steppingB0 : Nat → Bool
/-- The fused LDI capability bits of a die-link unit (Table 12.11, `LU_CAP_LOCAL`). -/
opaque ldiFuse : Nat → Nat → Byte
/-- The LDI minor version of a die-link unit is 2 on stepping B0, and 1 on A1 (Table 12.2). -/
def ldiMinor2 (die _port : Nat) : Bool := steppingB0 die
/-- The LDI capability bits of a die-link unit: those of Table 12.2, fast replay in version 1.2 only. -/
def ldiCaps (die port : Nat) : Byte := ldiFuse die port &&& (if ldiMinor2 die port then 7 else 5)
/-- The 256-bit unique secret of die 0 (R467). -/
opaque secret : BitVec 256
/-- Boot ROM version and the key, revocation and minimum-version fuses, as measured into MEAS0 (R474). -/
opaque romFuseImage : List Byte
/-- The four fused firmware public-key digests (R470). -/
opaque keyDigest : Nat → BitVec 256
/-- The revocation fuse of each digest (R470). -/
opaque keyRevoked : Nat → Bool
/-- What flash bank A (false) or B (true) holds as the module comes to its user: the manual gives no image (R471). -/
opaque flashBank : Bool → List Byte
/-- The fused minimum security version (R470). -/
opaque svnFuses : Nat
/-- The parts of the image set that bytes of flash spell, whose arrangement the manual does not give (R470): for the steward
and for the die manager the header and the body, and the public keys of the key block by number. -/
opaque imageParts : List Byte → Option ((List Byte × List Byte) × (List Byte × List Byte) × (Nat → BitVec 256))
/-- The identity certificate in flash (R469), 128 bytes. -/
opaque certificate : BitVec 1024
/-- The layout of a freeze image and of a save area is internal to the device (R408, R420): its bytes. -/
opaque internalByte : Nat → Byte

/-- The poison pattern P (R305). -/
def poisonP : BitVec 16 := 0x5AA5

/-- The syndrome of an error in bit k of a word's 80 bits under a set of columns: a data bit's column, or a check bit itself
(R304). -/
def oneBit (c : Nat → BitVec 16) (k : Nat) : BitVec 16 := if k < 64 then c k else 1#16 <<< (k - 64)

/-- The code corrects every error of one or two bits (R304): their syndromes are not zero and differ. -/
def corrects (c : Nat → BitVec 16) : Bool :=
  let s := oneBit c
  (List.range 80).all fun i => s i != 0 && (List.range i).all fun j => s i != s j && (List.range 80).all fun k =>
    s i ^^^ s j != s k && (List.range k).all fun l => s i ^^^ s j != s k ^^^ s l || (i == k && j == l)

/-- The code detects every error of three bits (R304): its syndrome is not zero and no syndrome of one or two bits. -/
def detects (c : Nat → BitVec 16) : Bool :=
  let s := oneBit c
  (List.range 80).all fun i => (List.range i).all fun j => (List.range j).all fun k =>
    let e := s i ^^^ s j ^^^ s k
    e != 0 && (List.range 80).all fun l => e != s l && (List.range l).all fun n => e != s l ^^^ s n

/-- The syndromes of the poisoned class, P and P xor the syndrome of any one bit, are no syndromes of one or two bits (R305). -/
def poisonApart (c : Nat → BitVec 16) : Bool :=
  let s := oneBit c
  let apart (p : BitVec 16) : Bool :=
    p != 0 && (List.range 80).all fun l => p != s l && (List.range l).all fun n => p != s l ^^^ s n
  apart poisonP && (List.range 80).all fun k => apart (poisonP ^^^ s k)

/-- The properties of R304 and R305. -/
def goodColumns (c : Nat → BitVec 16) : Bool := corrects c && detects c && poisonApart c

/-- Columns that have the properties: a shortened extended BCH code of distance 6. -/
def sampleCols : List Nat :=
  [0x472, 0x6a2, 0x6d9, 0x8fc, 0xb7e, 0xd17, 0xf26, 0xf79, 0x12a8, 0x1356, 0x13fc, 0x17e3, 0x195f, 0x1b58, 0x1bc2, 0x1c53] ++
  [0x1e80, 0x1ef7, 0x1fe8, 0x203a, 0x2347, 0x238e, 0x2527, 0x26d4, 0x2732, 0x299f, 0x2a74, 0x2f81, 0x3308, 0x3753, 0x3a32, 0x3a94] ++
  [0x3d55, 0x3df6, 0x81d9, 0x83ff, 0x869a, 0x8af6, 0x8c88, 0x8d70, 0x8f8b, 0x90ef, 0x9211, 0x921e, 0x92f5, 0x9349, 0x9554, 0x976f] ++
  [0x99e5, 0x9c25, 0x9d41, 0x9f10, 0xa1ca, 0xa1e4, 0xa2fa, 0xa920, 0xa9d6, 0xab50, 0xad6f, 0xae7d, 0xb129, 0xb480, 0xb786, 0xb953]

/-- A column of `sampleCols`. -/
def sampleCol (i : Nat) : BitVec 16 := BitVec.ofNat 16 (sampleCols.getD i 0)

/-- Column i of the word code, the value of `MC_ECC_COL` i: the module's own columns, which have the properties of R304 and
R305; nothing else is known of them (log 7). -/
def eccCol (i : Nat) : BitVec 16 := if goodColumns colChoice then colChoice i else sampleCol i

end Sys2Proof.Config
end

