-- ==== Sys2Proof/Machine/Fp.lean ====
section
/-! DEFINITION. Number formats and arithmetic (05_number_formats.md): exact dyadic values, the element formats of
Table 5.1, the rounding modes of Table 5.2, conversions (R133 to R136) and the FP32 operations of chapters 5 and 6. -/
namespace Sys2Proof.Machine

/-- A floating-point datum: a NaN, an infinity, or the number ±m·2^e; zeros keep their sign. -/
inductive FVal where
  | nan
  | inf (neg : Bool)
  | fin (neg : Bool) (m : Nat) (e : Int)
deriving DecidableEq, Repr

/-- What the top exponent codes of a format stand for (Table 5.1). -/
inductive Special where
  | ieee | e4m3 | none
deriving DecidableEq, Repr

/-- An element format of Table 5.1. -/
inductive Fmt where
  | fp32 | bf16 | fp16 | e5m2 | e4m3 | e3m2 | e2m3 | e2m1 | int8
deriving DecidableEq, Repr

/-- Width in bits. -/
def Fmt.bits : Fmt → Nat
  | .fp32 => 32 | .bf16 => 16 | .fp16 => 16 | .e5m2 => 8 | .e4m3 => 8 | .e3m2 => 6 | .e2m3 => 6 | .e2m1 => 4 | .int8 => 8
/-- Mantissa bits. -/
def Fmt.man : Fmt → Nat
  | .fp32 => 23 | .bf16 => 7 | .fp16 => 10 | .e5m2 => 2 | .e4m3 => 3 | .e3m2 => 2 | .e2m3 => 3 | .e2m1 => 1 | .int8 => 7
/-- Exponent bias. -/
def Fmt.bias : Fmt → Int
  | .fp32 => 127 | .bf16 => 127 | .fp16 => 15 | .e5m2 => 15 | .e4m3 => 7 | .e3m2 => 3 | .e2m3 => 1 | .e2m1 => 1 | .int8 => 0
/-- Infinities and NaNs (R118). -/
def Fmt.special : Fmt → Special
  | .fp32 => .ieee | .bf16 => .ieee | .fp16 => .ieee | .e5m2 => .ieee | .e4m3 => .e4m3
  | .e3m2 => .none | .e2m3 => .none | .e2m1 => .none | .int8 => .none
/-- The code of the largest finite magnitude. -/
def Fmt.maxCode : Fmt → Nat
  | .fp32 => 0x7F7FFFFF | .bf16 => 0x7F7F | .fp16 => 0x7BFF | .e5m2 => 0x7B | .e4m3 => 0x7E
  | .e3m2 => 0x1F | .e2m3 => 0x1F | .e2m1 => 0x7 | .int8 => 127
/-- The magnitude code of infinity, in the formats that have one. -/
def Fmt.infCode : Fmt → Nat
  | .fp32 => 0x7F800000 | .bf16 => 0x7F80 | .fp16 => 0x7C00 | .e5m2 => 0x7C | f => f.maxCode
/-- The canonical NaN of R119; formats without NaN map it to +0 (R134). -/
def Fmt.nanCode : Fmt → Nat
  | .fp32 => 0x7FC00000 | .bf16 => 0x7FC0 | .fp16 => 0x7E00 | .e5m2 => 0x7E | .e4m3 => 0x7F | _ => 0
/-- The exponent of the largest normal binade (R136, step 3). -/
def Fmt.emax : Fmt → Int
  | .e4m3 => 8 | .e5m2 => 15 | .e3m2 => 4 | .e2m3 => 2 | .e2m1 => 2 | .int8 => 0 | .fp32 => 127 | .bf16 => 127 | .fp16 => 15
/-- The exponent of the finest grid: the smallest subnormal. -/
def Fmt.grid (f : Fmt) : Int := if f = .int8 then -6 else 1 - f.bias - f.man

/-- The value of a code (Table 5.1, R120); bits above the format's width are ignored. -/
def Fmt.decode (f : Fmt) (x : Nat) : FVal :=
  let x := x % 2 ^ f.bits
  if f = .int8 then
    if x < 128 then .fin false x (-6) else .fin true (256 - x) (-6)
  else
    let neg := x / 2 ^ (f.bits - 1) = 1
    let mag := x % 2 ^ (f.bits - 1)
    let ex := mag / 2 ^ f.man
    let mn := mag % 2 ^ f.man
    if f.special = .ieee ∧ mag ≥ f.infCode then (if mag = f.infCode then .inf neg else .nan)
    else if f.special = .e4m3 ∧ mag = 0x7F then .nan
    else if ex = 0 then .fin neg mn f.grid
    else .fin neg (2 ^ f.man + mn) (f.grid + (ex - 1))

/-- The rounding modes of Table 5.2; stochastic rounding carries its 32-bit word (R128). -/
inductive Rounding where
  | rn | rz | rs (w : Nat)
deriving DecidableEq, Repr

/-- The rounding of m·2^e to a whole number of units 2^q (Table 5.2, R128). -/
def roundUnits (r : Rounding) (m : Nat) (e q : Int) : Nat :=
  if q ≤ e then m * 2 ^ (e - q).toNat
  else
    let sh := (q - e).toNat
    let n := m / 2 ^ sh
    let rem := m % 2 ^ sh
    match r with
    | .rz => n
    | .rn => if 2 * rem > 2 ^ sh ∨ (2 * rem = 2 ^ sh ∧ n % 2 = 1) then n + 1 else n
    | .rs w => if rem * 2 ^ 32 / 2 ^ sh + w ≥ 2 ^ 32 then n + 1 else n

/-- The magnitude code of m·2^e in a format whose exponent is unbounded above: the units of the place where the
value stands, plus the place. Codes beyond `maxCode` are beyond range. -/
def Fmt.magCode (f : Fmt) (r : Rounding) (m : Nat) (e : Int) : Nat :=
  if m = 0 then 0
  else if f = .int8 then roundUnits r m e (-6)
  else
    let q := max f.grid (Int.ofNat m.log2 + e - f.man)
    (q - f.grid).toNat * 2 ^ f.man + roundUnits r m e q

/-- A sign and a magnitude code as a code of the format. -/
def Fmt.withSign (f : Fmt) (neg : Bool) (mag : Nat) : Nat :=
  if f = .int8 then (if neg ∧ mag ≠ 0 then 256 - mag else mag)
  else mag + (if neg then 2 ^ (f.bits - 1) else 0)

/-- Conversion to a format under a rounding mode, with or without .SAT (R133, Table 5.3). -/
def Fmt.encode (f : Fmt) (r : Rounding) (sat : Bool) : FVal → Nat
  | .nan => f.nanCode
  | .inf neg =>
    if sat then f.withSign neg f.maxCode
    else match f.special with
      | .ieee => f.withSign neg f.infCode
      | .e4m3 => f.nanCode
      | .none => f.withSign neg f.maxCode
  | .fin neg m e =>
    if f.magCode .rn m e > f.maxCode then
      if sat ∨ r = .rz then f.withSign neg f.maxCode
      else match f.special with
        | .ieee => f.withSign neg f.infCode
        | .e4m3 => f.nanCode
        | .none => f.withSign neg f.maxCode
    else f.withSign neg (min (f.magCode r m e) f.maxCode)

/-- The value of an FP32 word. -/
def f32 (x : W32) : FVal := Fmt.fp32.decode x.toNat
/-- The FP32 word nearest to a value, ties to even. -/
def toF32 (v : FVal) : W32 := BitVec.ofNat 32 (Fmt.fp32.encode .rn false v)

/-- The exact negation of a number; the sign of an infinity or a zero flips too. -/
def FVal.neg : FVal → FVal
  | .nan => .nan
  | .inf s => .inf (!s)
  | .fin s m e => .fin (!s) m e

/-- The exact product; an infinity times a zero is invalid (R121). -/
def FVal.mul : FVal → FVal → FVal
  | .nan, _ => .nan
  | _, .nan => .nan
  | .inf s, .inf t => .inf (s != t)
  | .inf s, .fin t m _ => if m = 0 then .nan else .inf (s != t)
  | .fin s m _, .inf t => if m = 0 then .nan else .inf (s != t)
  | .fin s m e, .fin t n d => .fin (s != t) (m * n) (e + d)

/-- A signed integer from a sign and a magnitude. -/
def signed (neg : Bool) (m : Nat) : Int := if neg then -(m : Int) else m

/-- The exact sum of two dyadic numbers z·2^e, at the lower of their exponents. -/
def dyAdd (a b : Int × Int) : Int × Int :=
  let e := min a.2 b.2
  (a.1 * 2 ^ (a.2 - e).toNat + b.1 * 2 ^ (b.2 - e).toNat, e)

/-- The exact sum with the zero-sign rule of R121: a zero sum is −0 only when both addends are negative zeros. -/
def FVal.add : FVal → FVal → FVal
  | .nan, _ => .nan
  | _, .nan => .nan
  | .inf s, .inf t => if s = t then .inf s else .nan
  | .inf s, .fin _ _ _ => .inf s
  | .fin _ _ _, .inf t => .inf t
  | .fin s m e, .fin t n d =>
    let z := dyAdd (signed s m, e) (signed t n, d)
    if z.1 = 0 then .fin (s && t && m == 0 && n == 0) 0 0
    else .fin (z.1 < 0) z.1.natAbs z.2

/-- The order of two numbers as signed dyadics: whether `a < b`. -/
def FVal.lt : FVal → FVal → Bool
  | .nan, _ => false
  | _, .nan => false
  | .inf s, .inf t => s && !t
  | .inf s, .fin _ _ _ => s
  | .fin _ _ _, .inf t => !t
  | .fin s m e, .fin t n d => (dyAdd (signed s m, e) (-signed t n, d)).1 < 0

/-- Equality as numbers: −0 equals +0, and a NaN equals nothing (R105). -/
def FVal.eqv : FVal → FVal → Bool
  | .nan, _ => false
  | _, .nan => false
  | a, b => !a.lt b && !b.lt a

/-- The sign bit of a datum. -/
def FVal.isNeg : FVal → Bool
  | .nan => false
  | .inf s => s
  | .fin s _ _ => s

/-- FMIN: −0 orders below +0; a single NaN gives the other operand (R159). -/
def FVal.fmin (a b : FVal) : FVal :=
  if a = .nan then b else if b = .nan then a
  else if a.lt b then a else if b.lt a then b else if a.isNeg then a else b

/-- FMAX, by the same rules (R159). -/
def FVal.fmax (a b : FVal) : FVal :=
  if a = .nan then b else if b = .nan then a
  else if a.lt b then b else if b.lt a then a else if a.isNeg then b else a

def fAdd (a b : W32) : W32 := toF32 ((f32 a).add (f32 b))
def fSub (a b : W32) : W32 := toF32 ((f32 a).add (f32 b).neg)
def fMul (a b : W32) : W32 := toF32 ((f32 a).mul (f32 b))
/-- a × b + c, one rounding. -/
def fFma (a b c : W32) : W32 := toF32 (((f32 a).mul (f32 b)).add (f32 c))
/-- a × b − c, one rounding. -/
def fFms (a b c : W32) : W32 := toF32 (((f32 a).mul (f32 b)).add (f32 c).neg)
/-- c − a × b, one rounding. -/
def fNma (a b c : W32) : W32 := toF32 ((f32 c).add ((f32 a).mul (f32 b)).neg)
def fMin (a b : W32) : W32 := toF32 ((f32 a).fmin (f32 b))
def fMax (a b : W32) : W32 := toF32 ((f32 a).fmax (f32 b))
def fAbs (a : W32) : W32 := if f32 a = .nan then 0x7FC00000 else a &&& 0x7FFFFFFF
def fNeg (a : W32) : W32 := if f32 a = .nan then 0x7FC00000 else a ^^^ 0x80000000
/-- a × 2ⁿ with n the S32 value of b (R159). -/
def fScale (a b : W32) : W32 :=
  match f32 a with
  | .fin s m e => toF32 (.fin s m (e + b.toInt))
  | v => toF32 v

/-- The conditions of Table 4.8 on FP32 (R105). -/
def fCmp (cond : Nat) (a b : FVal) : Bool :=
  let un := a == .nan || b == .nan
  match cond with
  | 0 => a.eqv b
  | 1 => un || !a.eqv b
  | 2 => a.lt b
  | 3 => !un && !b.lt a
  | 4 => b.lt a
  | 5 => !un && !a.lt b
  | 6 => !un
  | _ => un

/-- The rounding of a magnitude to a whole number, for the integer conversions (R135). -/
def toWhole (r : Rounding) (m : Nat) (e : Int) : Nat := roundUnits r m e 0

/-- F32 to S32 (R135). -/
def cvtS32 (r : Rounding) : FVal → W32
  | .nan => 0
  | .inf s => if s then 0x80000000 else 0x7FFFFFFF
  | .fin s m e =>
    let z := signed s (toWhole r m e)
    if z > 0x7FFFFFFF then 0x7FFFFFFF else if z < -0x80000000 then 0x80000000 else BitVec.ofInt 32 z

/-- F32 to U32 (R135): a negative result gives 0. -/
def cvtU32 (r : Rounding) : FVal → W32
  | .nan => 0
  | .inf s => if s then 0 else 0xFFFFFFFF
  | .fin s m e =>
    let z := signed s (toWhole r m e)
    if z > 0xFFFFFFFF then 0xFFFFFFFF else if z < 0 then 0 else BitVec.ofInt 32 z

/-- An integer to FP32 under a rounding mode (R135). -/
def cvtFromInt (r : Rounding) (z : Int) : W32 :=
  BitVec.ofNat 32 (Fmt.fp32.encode r false (.fin (z < 0) z.natAbs 0))

/-- The exponent of the binade of a non-zero number. -/
def binade (m : Nat) (e : Int) : Int := Int.ofNat m.log2 + e

/-- The scale code of R136, steps 1 to 3; `none` when every element is +0 whatever it was. -/
def blockScale (f : Fmt) (xs : List FVal) : Nat × Bool :=
  if xs.any (fun v => match v with | .fin _ _ _ => false | _ => true) then (0xFF, true)
  else
    let es := xs.filterMap (fun v => match v with | .fin _ m e => if m = 0 then none else some (binade m e) | _ => none)
    match es with
    | [] => (0, true)
    | x :: rest =>
      let top := rest.foldl max x
      let e := max (-127) (min 127 (top - f.emax))
      ((e + 127).toNat, false)

/-- One element of a block conversion (R136, step 4). -/
def blockElem (f : Fmt) (r : Rounding) (scale : Nat) : FVal → Nat
  | .fin s m e => f.encode r true (.fin s m (e - ((scale : Int) - 127)))
  | _ => 0

/-- One result of a matrix instruction (R122, R124): the terms of each block with the exponents of its two scales
(none where a scale is 0xFF), and C. -/
def matrixSum (c : FVal) (blocks : List (Option Int × List (FVal × FVal))) : FVal :=
  let prods := blocks.flatMap (fun b => b.2)
  if c == .nan || blocks.any (fun b => b.1.isNone) || prods.any (fun p => p.1 == .nan || p.2 == .nan) then .nan
  else
    let ps := blocks.flatMap (fun b => b.2.map (fun p => match p.1.mul p.2 with
      | .fin s m e => .fin s m (e + b.1.getD 0)
      | v => v))
    if ps.any (· == .nan) then .nan
    else
      let all := c :: ps
      let pos := all.any (· == .inf false)
      let neg := all.any (· == .inf true)
      if pos && neg then .nan
      else if pos then .inf false
      else if neg then .inf true
      else
        let z := all.foldl (fun acc v => match v with | .fin s m e => dyAdd acc (signed s m, e) | _ => acc) ((0 : Int), (0 : Int))
        if z.1 = 0 then
          .fin (all.all (fun v => match v with | .fin s m _ => s && m == 0 | _ => false)) 0 0
        else .fin (z.1 < 0) z.1.natAbs z.2

/-- One advance of the stochastic generator (R129). -/
def rngAdvance (x : W64) : W64 :=
  let x := x ^^^ (x <<< 13)
  let x := x ^^^ (x >>> 7)
  x ^^^ (x <<< 17)

/-- `n` advances, with the states they give, in order (R131). -/
def rngDraws : Nat → W64 → List W64 × W64
  | 0, x => ([], x)
  | n + 1, x =>
    let y := rngAdvance x
    let r := rngDraws n y
    (y :: r.1, r.2)

/-- The word of a lane among sixteen draws (R131). -/
def rngWord (draws : List W64) (lane : Nat) : W32 :=
  let x := draws.getD (lane / 2) 0
  if lane % 2 = 0 then x.setWidth 32 else (x >>> 32).setWidth 32

/-- The rounding mode a 2-bit `rnd` names, with the lane's word; code 3 is refused before (R127). -/
def roundingOf (rnd : Nat) (w : W32) : Rounding :=
  match rnd with
  | 0 => .rn
  | 1 => .rz
  | _ => .rs w.toNat

/-- The generator's value when a core is prepared (R130). -/
def rngSeed (seed : W64) (slot : Nat) : W64 :=
  let x := seed ^^^ BitVec.ofNat 64 (slot * 0x9E3779B97F4A7C15)
  if x = 0 then 1 else x

end Sys2Proof.Machine
end

