-- ==== Sys2Proof/Machine/Trans.lean ====
section
/-! DEFINITION. The transcendental approximations of VTRANS (R160, Table 6.7): the special values, and the bounds within which
the unpublished approximation is free. The exact value is enclosed between two dyadic numbers, by fixed-point arithmetic. -/
namespace Sys2Proof.Machine

/-- The special values of Table 6.7, where the result is fixed; other inputs take the unpublished approximation. -/
def vtransSpecial (func : Nat) (a : FVal) : Option FVal :=
  match func, a with
  | _, .nan => some .nan
  | 0, .inf s => some (.fin s 0 0)
  | 0, .fin s 0 _ => some (.inf s)
  | 1, .inf s => some (if s then .nan else .fin false 0 0)
  | 1, .fin s 0 _ => some (.inf s)
  | 1, .fin true _ _ => some .nan
  | 2, .inf s => some (if s then .nan else .inf false)
  | 2, .fin s 0 _ => some (.fin s 0 0)
  | 2, .fin true _ _ => some .nan
  | 3, .inf s => some (if s then .fin false 0 0 else .inf false)
  | 3, .fin s m e =>
    if m = 0 then some (.fin false 1 0)
    else if !(FVal.lt (.fin s m e) (.fin false 128 0)) then some (.inf false) else none
  | 4, .inf s => some (if s then .nan else .inf false)
  | 4, .fin _ 0 _ => some (.inf true)
  | 4, .fin true _ _ => some .nan
  | 4, .fin false m e => if FVal.eqv (.fin false m e) (.fin false 1 0) then some (.fin false 0 0) else none
  | 5, .inf _ => some .nan
  | 5, .fin s m e =>
    if e ≥ 0 ∨ m % 2 ^ e.natAbs = 0 then some (.fin s 0 0) else none
  | 6, .inf _ => some .nan
  | 6, .fin _ m e =>
    if m ≠ 0 ∧ e < 0 ∧ 2 * m % 2 ^ e.natAbs = 0 ∧ 2 * m / 2 ^ e.natAbs % 2 = 1 then some (.fin false 0 0) else none
  | 7, .inf s => some (.fin s 1 0)
  | 7, .fin s 0 _ => some (.fin s 0 0)
  | _, _ => none

/-! ### Enclosures of the exact values -/

/-- A number known to lie between lo·2^e and hi·2^e. -/
structure Encl where
  lo : Int
  hi : Int
  e : Int
deriving DecidableEq, Repr

/-- The fixed-point one: values have 100 fraction bits. -/
def fxOne : Nat := 2 ^ 100
/-- ln 2, rounded down to 120 fraction bits. -/
def fxLn2 : Nat := 921350637599661305226344307672478454
/-- π, rounded down to 120 fraction bits. -/
def fxPi : Nat := 4175892906503776358826876457663557747
/-- What rounding and the terms left out can add up to, with room to spare. -/
def fxSlack : Nat := 2 ^ 12

/-- The integer square root, from its bits. -/
def isqrt (n : Nat) : Nat :=
  (List.range 200).foldl (fun r k => let t := r + 2 ^ (199 - k); if t * t ≤ n then t else r) 0

/-- An enclosure of fixed-point bounds, kept within limits that the function cannot pass. -/
def fxEncl (x least most : Nat) : Nat × Nat := (max least (x - fxSlack), min most (x + fxSlack))

/-- 2^x for a fixed-point x in [0, 1): the exponential series of x·ln 2. -/
def exp2Frac (x : Nat) : Nat × Nat :=
  let y := x * fxLn2 / 2 ^ 120
  let r := (List.range 32).foldl (fun (a : Nat × Nat) k =>
    let t := a.2 * y / fxOne / (k + 1)
    (a.1 + t, t)) (fxOne, fxOne)
  fxEncl r.1 fxOne (2 * fxOne)

/-- sin(π·n/d) for n/d in [0, 1/2]: the alternating series. -/
def sinFrac (n d : Nat) : Nat × Nat :=
  if 2 * n = d then (fxOne, fxOne)
  else
    let u := n * fxPi / d / 2 ^ 20
    let q := u * u / fxOne
    let r := (List.range 24).foldl (fun (a : Int × Nat) k =>
      let t := a.2 * q / fxOne / ((2 * k + 2) * (2 * k + 3))
      (a.1 + signed (k % 2 == 0) t, t)) ((u : Int), u)
    fxEncl r.1.toNat 0 fxOne

/-- log₂ of m/2^l in [1, 2): twice the inverse hyperbolic tangent of (y − 1)/(y + 1), over ln 2. -/
def log2Frac (m l : Nat) : Nat × Nat :=
  if m = 2 ^ l then (0, 0)
  else
    let z := (m - 2 ^ l) * fxOne / (m + 2 ^ l)
    let q := z * z / fxOne
    let r := (List.range 40).foldl (fun (a : Nat × Nat) k =>
      let t := a.2 * q / fxOne
      (a.1 + t / (2 * k + 3), t)) (z, z)
    fxEncl (2 * r.1 * 2 ^ 120 / fxLn2) 0 fxOne

/-- A number and its quotient by a power of two, as whole part and fraction. -/
def splitAt (s : Bool) (m : Nat) (e : Int) : Int × Nat × Nat :=
  if e ≥ 0 then (signed s (m * 2 ^ e.toNat), 0, 1)
  else
    let d := 2 ^ e.natAbs
    if s && m % d != 0 then (-((m / d : Nat) : Int) - 1, d - m % d, d) else (signed s (m / d : Nat), m % d, d)

/-- 1/a. -/
def enclRcp (s : Bool) (m : Nat) (e : Int) : Encl :=
  let q : Nat := 2 ^ 200 / m
  let up : Nat := if 2 ^ 200 % m = 0 then q else q + 1
  if s then ⟨-(up : Int), -(q : Int), -e - 200⟩ else ⟨q, up, -e - 200⟩

/-- √(n·2^e) for an even e, of n and of a number below n + 1 where `more` says that n is rounded down. -/
def enclSqrt (n : Nat) (more : Bool) (e : Int) : Encl :=
  let r := isqrt n
  ⟨r, if r * r = n && !more then r else r + 1, e / 2⟩

/-- 2^a. -/
def enclExp2 (s : Bool) (m : Nat) (e : Int) : Encl :=
  let x := splitAt s m e
  if x.1 < -300 then ⟨0, 1, -300⟩
  else if x.2.1 = 0 then ⟨1, 1, x.1⟩
  else
    let r := exp2Frac (x.2.1 * fxOne / x.2.2)
    ⟨r.1, r.2, x.1 - 100⟩

/-- log₂ a. -/
def enclLog2 (m : Nat) (e : Int) : Encl :=
  let r := log2Frac m m.log2
  let n := (e + m.log2) * fxOne
  ⟨n + r.1, n + r.2, -100⟩

/-- sin(π·a), or cos(π·a) as sin(π·(a + 1/2)); the argument is reduced exactly. -/
def enclSinpi (cos s : Bool) (m : Nat) (e : Int) : Encl :=
  let d := 2 ^ (e.natAbs + 1)
  let w := if e ≥ 0 then m * 2 ^ e.toNat * d else 2 * m
  let w := if cos then w + d / 2 else w
  let t := w % (2 * d)
  let neg := (if cos then false else s) != decide (t ≥ d)
  let t := t % d
  let t := if 2 * t > d then d - t else t
  let r := sinFrac t d
  if neg then ⟨-(r.2 : Int), -(r.1 : Int), -100⟩ else ⟨r.1, r.2, -100⟩

/-- tanh a, from 2^(−2a/ln 2). -/
def enclTanh (s : Bool) (m : Nat) (e : Int) : Encl :=
  let r : Nat × Nat :=
    if Int.ofNat m.log2 + e ≥ 7 then (fxOne - 1, fxOne)
    else
      let x := if e + 101 ≥ 0 then m * 2 ^ (e + 101).toNat else m / 2 ^ (e + 101).natAbs
      let w := x * 2 ^ 120 / fxLn2
      let n := w / fxOne
      let f := w % fxOne
      let q := if f = 0 then fxOne / 2 ^ n else (exp2Frac (fxOne - f)).1 / 2 ^ (n + 1)
      fxEncl ((fxOne - q) * fxOne / (fxOne + q)) 0 fxOne
  if s then ⟨-(r.2 : Int), -(r.1 : Int), -100⟩ else ⟨r.1, r.2, -100⟩

/-- The exact value of a VTRANS function of a finite number that has no special value (Table 6.7). -/
def vtransExact (func : Nat) (s : Bool) (m : Nat) (e : Int) : Encl :=
  match func with
  | 0 => enclRcp s m e
  | 1 => if e % 2 = 0 then enclSqrt (2 ^ 300 / m) (2 ^ 300 % m != 0) (-e - 300)
         else enclSqrt (2 ^ 301 / m) (2 ^ 301 % m != 0) (-e - 301)
  | 2 => if e % 2 = 0 then enclSqrt (m * 2 ^ 200) false (e - 200) else enclSqrt (m * 2 ^ 201) false (e - 201)
  | 3 => enclExp2 s m e
  | 4 => enclLog2 m e
  | 5 => enclSinpi false s m e
  | 6 => enclSinpi true s m e
  | _ => enclTanh s m e

/-! ### The bounds -/

/-- Table 6.7's bound in ulp, and whether 2⁻²³ absolute bounds too. -/
def vtransUlps (func : Nat) : Nat × Bool :=
  match func with
  | 0 | 2 => (1, false)
  | 1 | 3 => (2, false)
  | _ => (2, true)

/-- The order of two dyadic numbers. -/
def dyLe (a b : Int × Int) : Bool := decide ((dyAdd a (-b.1, b.2)).1 ≤ 0)

/-- The largest error allowed for an exact value: an ulp is the step of FP32 at that value (log 105). -/
def vtransBound (func : Nat) (x : Encl) : Int × Int :=
  let u := max (-149) (Int.ofNat (max x.lo.natAbs x.hi.natAbs).log2 + x.e - 23)
  let b : Int × Int := ((vtransUlps func).1, u)
  if (vtransUlps func).2 && dyLe b (1, -23) then (1, -23) else b

/-- A result keeps to the bound of Table 6.7: an infinity stands for 2¹²⁸ of its sign. -/
def vtransWithin (func : Nat) (x : Encl) (r : W32) : Bool :=
  let b := vtransBound func x
  let near (c : Int × Int) : Bool := dyLe (dyAdd (x.hi, x.e) (-b.1, b.2)) c && dyLe c (dyAdd (x.lo, x.e) b)
  match f32 r with
  | .nan => false
  | .inf s => near (signed s 1, 128)
  | .fin s m e => near (signed s m, e)

/-- The FP32 word nearest to an enclosed value. -/
def vtransNear (x : Encl) : W32 := toF32 (.fin (decide (x.lo + x.hi < 0)) (x.lo + x.hi).natAbs (x.e - 1))

/-- VTRANS function `func` (R160): a special value of Table 6.7, the device's own approximation where it keeps to the bound, and
the word nearest to the enclosed value otherwise: nothing else is known of it. -/
def vtransOp (func : Nat) (a : W32) : W32 :=
  match vtransSpecial func (f32 a), f32 a with
  | some v, _ => toF32 v
  | none, .fin s m e =>
    let x := vtransExact func s m e
    let r := Config.vtrans func a
    if vtransWithin func x r then r else vtransNear x
  | none, _ => Config.vtrans func a

end Sys2Proof.Machine
end

