-- ==== Sys2Proof/Machine/Flags.lean ====
section
/-! DEFINITION. The integer, logical and compare functions (Tables 4.5, 4.6, 4.8), vectors of 32 lanes, lane masks and
predicate results: everything an instruction computes from its operand values alone. -/
namespace Sys2Proof.Machine

/-- A vector register: 32 lanes (Table 4.1); lanes a list does not reach read 0. -/
abbrev Vec := List W32

/-- Lane l of a vector. -/
def vget (v : Vec) (l : Nat) : W32 := v.getD l 0
/-- The vector with lane values given by a function. -/
def vmake (f : Nat → W32) : Vec := (List.range 32).map f
/-- The lanes of `m` take the new value; the others keep theirs (R65, R100). -/
def vmerge (m : W32) (old new : Vec) : Vec := vmake fun l => if m.getLsbD l then vget new l else vget old l
/-- A vector with one value in every lane. -/
def vsplat (x : W32) : Vec := vmake fun _ => x
/-- The word with bit l given by a function. -/
def maskOf (f : Nat → Bool) : W32 := (List.range 32).foldl (fun a l => if f l then a ||| (1#32 <<< l) else a) 0
/-- The number of set bits among the low `w` bits. -/
def popcount (w : Nat) (x : W64) : Nat := (List.range w).foldl (fun n i => if x.getLsbD i then n + 1 else n) 0
/-- The lowest set bit, or `w`. -/
def lowestBit (w : Nat) (x : W64) : Nat :=
  (List.range w).foldr (fun i n => if x.getLsbD i then i else n) w
/-- Leading zeros in `w` bits. -/
def leadingZeros (w : Nat) (x : W64) : Nat :=
  (List.range w).foldl (fun n i => if x.getLsbD i then w - 1 - i else n) w

/-- Width in bits of a type code (Table 4.5). -/
def tyWidth (t : Nat) : Nat := if t = 2 ∨ t = 3 ∨ t = 5 then 64 else 32
/-- Signed type codes. -/
def tySigned (t : Nat) : Bool := t == 1 || t == 3
/-- Type codes of the classes U, S and B of Table 4.6. -/
def tyU (t : Nat) : Bool := t == 0 || t == 2
def tyS (t : Nat) : Bool := t == 1 || t == 3
def tyB (t : Nat) : Bool := t == 4 || t == 5

/-- A value as a number of its type. -/
def tyInt (t : Nat) (x : W64) : Int :=
  if tyWidth t = 32 then (if tySigned t then (x.setWidth 32).toInt else ((x.setWidth 32).toNat : Int))
  else (if tySigned t then x.toInt else (x.toNat : Int))

/-- R98: the 64-bit result of a type: sign-extended for .S32, zero-extended for .U32, .B32 and .F32. -/
def extend (t : Nat) (x : W64) : W64 :=
  if tyWidth t = 32 then (if t = 1 then (x.setWidth 32).signExtend 64 else (x.setWidth 32).setWidth 64) else x

/-- R99: an immediate widened to an operand. -/
def immOf (t : Nat) (imm : W32) : W64 := if tyU t || t == 6 then imm.setWidth 64 else imm.signExtend 64

/-- An integer narrowed to 64 bits. -/
def ofI (z : Int) : W64 := BitVec.ofInt 64 z

/-- The integer and logical functions, on operands of which a 32-bit type takes the low 32 bits (Table 4.6). -/
inductive IntOp where
  | add | sub | min | max | abs | neg | and | or | xor | andn | not | shl | shr | popc | clz | ctz | mov
  | mul | mulh | mad | div | rem
deriving DecidableEq, Repr

/-- DIV and REM (R102): quotient and remainder, rounded toward zero. -/
def divRem (t : Nat) (a b : W64) : Int × Int :=
  let w := tyWidth t
  let x := tyInt t a
  let y := tyInt t b
  if y = 0 then (2 ^ w - 1, x)
  else if tySigned t ∧ x = -(2 ^ (w - 1)) ∧ y = -1 then (x, 0)
  else (x.tdiv y, x - y * x.tdiv y)

/-- The result of a function before R98 widens it (R101, R102). -/
def intOp (op : IntOp) (t : Nat) (a b c : W64) : W64 :=
  let w := tyWidth t
  let x := tyInt t a
  let y := tyInt t b
  let sh := b.toNat % w
  match op with
  | .add => a + b
  | .sub => a - b
  | .min => if x ≤ y then a else b
  | .max => if x ≤ y then b else a
  | .abs => ofI x.natAbs
  | .neg => 0 - a
  | .and => a &&& b
  | .or => a ||| b
  | .xor => a ^^^ b
  | .andn => a &&& ~~~b
  | .not => ~~~a
  | .shl => a <<< sh
  | .shr => ofI (x / 2 ^ sh)
  | .popc => BitVec.ofNat 64 (popcount w a)
  | .clz => BitVec.ofNat 64 (leadingZeros w a)
  | .ctz => BitVec.ofNat 64 (lowestBit w a)
  | .mov => a
  | .mul => ofI (x * y)
  | .mulh => ofI (x * y / 2 ^ w)
  | .mad => ofI (x * y) + c
  | .div => ofI (divRem t a b).1
  | .rem => ofI (divRem t a b).2

/-- The types each function takes (Table 4.6). -/
def IntOp.types (op : IntOp) (t : Nat) : Bool :=
  match op with
  | .abs | .neg => tyS t
  | .and | .or | .xor | .andn | .not | .popc | .clz | .ctz => tyB t
  | .mov => tyU t || tyS t || tyB t
  | _ => tyU t || tyS t

/-- Functions of one operand. -/
def IntOp.unary : IntOp → Bool
  | .abs | .neg | .not | .popc | .clz | .ctz | .mov => true
  | _ => false

/-- The integer conditions of Table 4.8. -/
def intCmp (cond t : Nat) (a b : W64) : Bool :=
  let x := tyInt t a
  let y := tyInt t b
  match cond with
  | 0 => x == y
  | 1 => x != y
  | 2 => x < y
  | 3 => x ≤ y
  | 4 => x > y
  | _ => x ≥ y

/-- Whether a branch's condition holds of its predicate (R107). -/
def condHolds (cond : Nat) (p : W32) : Bool :=
  match cond with
  | 0 => p != 0
  | 1 => p == 0xFFFFFFFF
  | _ => p == 0

/-- A reduction across the active lanes of a vector by the fixed tree of R161: l with l + 16, then 8, 4, 2, 1. -/
def treeReduce (f : W32 → W32 → W32) (xs : List (Option W32)) : Nat → List (Option W32)
  | 0 => xs
  | n + 1 =>
    let h := 2 ^ n
    treeReduce f ((List.range h).map fun l =>
      match xs.getD l none, xs.getD (l + h) none with
      | some a, some b => some (f a b)
      | some a, none => some a
      | none, b => b) n

/-- The lanes of a mask, as options, in lane order. -/
def activeLanes (m : W32) (v : Vec) : List (Option W32) :=
  (List.range 32).map fun l => if m.getLsbD l then some (vget v l) else none

/-- The value VRED gives when some lane is active (R161). -/
def reduceLanes (f : W32 → W32 → W32) (m : W32) (v : Vec) : W32 :=
  ((treeReduce f (activeLanes m v) 5).getD 0 none).getD 0

/-- Byte k of a vector's 128-byte image: byte k mod 4 of lane k div 4 (R143). -/
def vecByte (v : Vec) (k : Nat) : Byte := (vget v (k / 4) >>> (8 * (k % 4))).setWidth 8

/-- A word from its four bytes. -/
def word4 (f : Nat → Byte) : W32 :=
  (f 0).setWidth 32 ||| ((f 1).setWidth 32 <<< 8) ||| ((f 2).setWidth 32 <<< 16) ||| ((f 3).setWidth 32 <<< 24)

/-- An accumulator tile: 256 FP32 elements, row-major (R150); elements a list does not reach read +0. -/
abbrev Tile := List W32

/-- Element (i, j) of a tile. -/
def tget (t : Tile) (i j : Nat) : W32 := t.getD (16 * i + j) 0
/-- The tile given by a function of row and column. -/
def tmake (f : Nat → Nat → W32) : Tile := (List.range 256).map fun k => f (k / 16) (k % 16)
/-- Element (i, j) is active under a predicate (R148). -/
def tileActive (p : W32) (i j : Nat) : Bool := p.getLsbD i && p.getLsbD (16 + j)
/-- Whether a predicate leaves any element active. -/
def tileAny (p : W32) : Bool := (p &&& 0xFFFF) != 0 && (p >>> 16) != 0
/-- The new elements where active, the old elsewhere (R148). -/
def tileMerge (p : W32) (old new : Tile) : Tile := tmake fun i j => if tileActive p i j then tget new i j else tget old i j

/-- The operand formats, K and scale blocks of a matrix operation (Table 6.2). -/
def mmaShape (func : Nat) : Option (Fmt × Fmt × Nat × Nat) :=
  match func with
  | 0x00 => some (.e4m3, .e4m3, 64, 0)
  | 0x01 => some (.e4m3, .e5m2, 64, 0)
  | 0x02 => some (.e5m2, .e4m3, 64, 0)
  | 0x03 => some (.e5m2, .e5m2, 64, 0)
  | 0x04 => some (.bf16, .bf16, 32, 0)
  | 0x05 => some (.fp16, .fp16, 32, 0)
  | 0x08 => some (.e4m3, .e4m3, 64, 2)
  | 0x09 => some (.e4m3, .e5m2, 64, 2)
  | 0x0A => some (.e5m2, .e4m3, 64, 2)
  | 0x0B => some (.e5m2, .e5m2, 64, 2)
  | 0x0C => some (.e3m2, .e3m2, 64, 2)
  | 0x0D => some (.e2m3, .e2m3, 64, 2)
  | 0x0E => some (.int8, .int8, 64, 2)
  | 0x0F => some (.e2m1, .e2m1, 128, 4)
  | _ => none

/-- The code at a bit offset of a byte image (R142). -/
def imageCode (img : Nat → Byte) (bitOff w : Nat) : Nat :=
  let b0 := bitOff / 8
  let x := (img b0).toNat + 256 * (img (b0 + 1)).toNat
  x / 2 ^ (bitOff % 8) % 2 ^ w

/-- The scale exponent of block b for row i of A (lane i) or column j of B (lane 16 + j); none for 0xFF (R145). -/
def scaleExp (sc : Vec) (lane b : Nat) : Option Int :=
  let x := vecByte sc (4 * lane + b)
  if x = 0xFF then none else some ((x.toNat : Int) - 127)

/-- Element (i, j) of a dense matrix instruction (R122, R142, R145). -/
def mmaElem (fa fb : Fmt) (k nblk : Nat) (a b : Nat → Byte) (sc : Vec) (c : W32) (i j : Nat) : W32 :=
  let pair := fun kk => (fa.decode (imageCode a ((i * k + kk) * fa.bits) fa.bits),
                         fb.decode (imageCode b ((j * k + kk) * fb.bits) fb.bits))
  let blocks :=
    if nblk = 0 then [(some (0 : Int), (List.range k).map pair)]
    else (List.range nblk).map fun bk =>
      ((match scaleExp sc i bk, scaleExp sc (16 + j) bk with
        | some x, some y => some (x + y)
        | _, _ => none), (List.range 32).map fun q => pair (32 * bk + q))
  toF32 (matrixSum (f32 c) blocks)

/-- Mask bit i·K + k of MMA.SP (R146). -/
def spMask (mk : Vec) (n : Nat) : Bool := (vget mk (n / 32)).getLsbD (n % 32)

/-- The marked positions that take the two stored elements of a group of four: the two lowest (R146, R147). -/
def spPairs (mk : Vec) (k i q : Nat) : List (Nat × Nat) :=
  ((((List.range 4).filter fun x => spMask mk (i * k + 4 * q + x)).take 2).zip [2 * q, 2 * q + 1]).map
    fun xs => (4 * q + xs.1, xs.2)

/-- Element (i, j) of a 2:4-sparse matrix instruction: A stores half the depth (R146, R147). -/
def mmaSpElem (fa fb : Fmt) (k : Nat) (a b : Nat → Byte) (mk : Vec) (c : W32) (i j : Nat) : W32 :=
  let prods := (List.range (k / 4)).flatMap fun q => (spPairs mk k i q).map fun ps =>
    (fa.decode (imageCode a ((i * (k / 2) + ps.2) * fa.bits) fa.bits),
     fb.decode (imageCode b ((j * k + ps.1) * fb.bits) fb.bits))
  toF32 (matrixSum (f32 c) [(some 0, prods)])

/-- Element format codes of CVT, BSCALE and BCVT (R163, Table 6.10). -/
def elemFmt (n : Nat) : Option Fmt :=
  match n with
  | 0 => some .e4m3 | 1 => some .e5m2 | 2 => some .e3m2 | 3 => some .e2m3 | 4 => some .e2m1 | 5 => some .int8
  | _ => none

/-- One lane of CVT (Table 6.10): the old destination, both sources, and the lane's random word. -/
def cvtLane (func rnd part : Nat) (sat : Bool) (w old a b : W32) : W32 :=
  let r := roundingOf rnd w
  let rHi := roundingOf rnd ((w <<< 16) ||| (w >>> 16))
  let half (f : Fmt) := BitVec.ofNat 32 (f.encode r sat (f32 a) + 65536 * f.encode rHi sat (f32 b))
  let bytes (f : Fmt) : W32 :=
    let x := BitVec.ofNat 32 (f.encode r sat (f32 a) + 256 * f.encode rHi sat (f32 b))
    if part = 0 then (old &&& 0xFFFF0000) ||| x else (old &&& 0x0000FFFF) ||| (x <<< 16)
  match func with
  | 0x00 => half .bf16
  | 0x01 => half .fp16
  | 0x10 => toF32 (Fmt.bf16.decode (a.toNat / 2 ^ (16 * part)))
  | 0x11 => toF32 (Fmt.fp16.decode (a.toNat / 2 ^ (16 * part)))
  | 0x20 => cvtS32 r (f32 a)
  | 0x21 => cvtU32 r (f32 a)
  | 0x22 => cvtFromInt r a.toInt
  | 0x23 => cvtFromInt r (a.toNat : Int)
  | _ =>
    if func < 8 then (match elemFmt (func - 2) with
      | some f => bytes f
      | none => old)
    else (match elemFmt (func - 0x12) with
      | some f => toF32 (f.decode (a.toNat / 2 ^ (8 * part)))
      | none => old)

/-- The packed elements of a block conversion as one number, element k at bit k·w (R164, R142). -/
def packElems (f : Fmt) (es : List Nat) : Nat :=
  (es.foldr (fun e acc => acc * 2 ^ f.bits + e % 2 ^ f.bits) 0)

/-- QBSHUF in one lane (Table 6.12). -/
def qbshufLane (v : Vec) (sel : W32) (l : Nat) : W32 :=
  word4 fun m =>
    let s := (sel >>> (8 * m)).setWidth 8
    let q := (s &&& 0xF).toNat
    if s.getLsbD 7 then 0 else vecByte v (4 * (4 * (l / 4) + q / 4) + q % 4)

end Sys2Proof.Machine
end

