-- ==== Sys2Proof/Machine/RegMap.lean ====
section
/-! DEFINITION. The register map of control space: one row for each register or register array of Tables 3.6, 3.7,
9.8, 10.8, 11.9, 11.10, 12.10, 12.11, 13.6 to 13.8, 14.11 to 14.13, 15.4, 15.5, 16.9, 16.10, 17.1, 17.12, 18.5 and
18.6: where it stands, which of its bits are RW, W1C and RW-L (R10), and what it reads after a power-on reset (R13). -/
namespace Sys2Proof.Machine

/-- The blocks of Table 1.4; the host unit's block stands inside edge port 3 of die 0 (R386). -/
inductive Blk where
  | identity | mailbox | clocks | resets | power | channel | slice | home | edgePort | host | laneRole
  | queues | partitions | security | debug | clusterSup
deriving DecidableEq, Repr

/-- How a register's power-on value is found: the table's constant (its low and high words), or a value that
depends on where the register stands or on fuses. -/
inductive Rst where
  | const (v : Nat)
  | idx | die | eccCol | role | port | ldi | queue | fuse | idDie
deriving DecidableEq, Repr

/-- One row of the register map: `addr` is the offset of its first instance in a die's control space, `dims` the
strides and counts of its arrays (outermost first), `wide` a 64-bit register, `die0` one that die 0 alone has;
`rw`, `w1c` and `rwl` are the masks of its bits of those types. -/
structure RegRow where
  name : String
  blk : Blk
  addr : Nat
  dims : List (Nat × Nat)
  wide : Bool
  die0 : Bool
  rw : Nat
  w1c : Nat
  rwl : Nat
  rst : Rst
deriving DecidableEq, Repr

/-! Offsets of the first instance of each register in a die's control space. -/
def Reg.CSUP_ID : Nat := 0x3000000
def Reg.CSUP_STATE : Nat := 0x3000004
def Reg.CSUP_LAUNCH_TAG : Nat := 0x3000008
def Reg.CSUP_CORE_ACTIVE : Nat := 0x3000010
def Reg.CSUP_CORE_FAULT : Nat := 0x3000018
def Reg.CSUP_SHAPE : Nat := 0x3000020
def Reg.CSUP_BAR_TIMEOUT : Nat := 0x3000024
def Reg.CSUP_BC_DONE : Nat := 0x3000028
def Reg.CSUP_FAULT_FIRST : Nat := 0x3000030
def Reg.CSUP_REC_0 : Nat := 0x3001000
def Reg.CSUP_REC_4 : Nat := 0x3001004
def Reg.CSUP_REC_8 : Nat := 0x3001008
def Reg.CSUP_REC_10 : Nat := 0x3001010
def Reg.CSUP_REC_18 : Nat := 0x3001018
def Reg.CSUP_REC_1C : Nat := 0x300101c
def Reg.SLICE_ID : Nat := 0x800000
def Reg.SLICE_CTRL : Nat := 0x800004
def Reg.SLICE_STATUS : Nat := 0x800008
def Reg.SLICE_CNT_CLEAR : Nat := 0x80000c
def Reg.SLICE_HIT_CNT : Nat := 0x800040
def Reg.SLICE_MISS_CNT : Nat := 0x800048
def Reg.SLICE_TINT_HIT_CNT : Nat := 0x800050
def Reg.SLICE_TINT_FILL_CNT : Nat := 0x800058
def Reg.SLICE_WB_CNT : Nat := 0x800060
def Reg.SLICE_RED_CNT : Nat := 0x800068
def Reg.SLICE_MERGE_CNT : Nat := 0x800070
def Reg.SLICE_URG_CNT : Nat := 0x800078
def Reg.SLICE_PIN_REFUSED_CNT : Nat := 0x800080
def Reg.SLICE_ECC_CORR_CNT : Nat := 0x800088
def Reg.SLICE_ECC_UNCORR_CNT : Nat := 0x800090
def Reg.SLICE_ERR_STATUS : Nat := 0x800100
def Reg.SLICE_ERR_ADDR : Nat := 0x800108
def Reg.SLICE_ERR_TIME : Nat := 0x800110
def Reg.SLICE_PIN_QUOTA : Nat := 0x800200
def Reg.SLICE_PIN_USED : Nat := 0x800204
def Reg.HOME_ID : Nat := 0xc00000
def Reg.HOME_INTERLEAVE : Nat := 0xc00004
def Reg.HOME_CTRL : Nat := 0xc00008
def Reg.HOME_CMP_STATUS : Nat := 0xc0000c
def Reg.HOME_AMBER_REQ : Nat := 0xc00010
def Reg.HOME_AMBER_ACTIVE : Nat := 0xc00018
def Reg.HOME_PROBE_LIMIT : Nat := 0xc00020
def Reg.HOME_CNT_CLEAR : Nat := 0xc00024
def Reg.HOME_AGENT_SILENT : Nat := 0xc00028
def Reg.HOME_FWD_CNT : Nat := 0xc00040
def Reg.HOME_INV_CNT : Nat := 0xc00048
def Reg.HOME_SNP_CNT : Nat := 0xc00050
def Reg.HOME_RETRY_CNT : Nat := 0xc00058
def Reg.HOME_CREDIT_CNT : Nat := 0xc00060
def Reg.HOME_TIMEOUT_CNT : Nat := 0xc00068
def Reg.HOME_LATE_CNT : Nat := 0xc00070
def Reg.HOME_LOG_STATUS : Nat := 0xc00080
def Reg.HOME_PROBE_LOG : Nat := 0xc00100
def Reg.HOME_PROBE_LOG_8 : Nat := 0xc00108
def Reg.HOME_PROBE_LOG_C : Nat := 0xc0010c
def Reg.HOME_PROBE_LOG_10 : Nat := 0xc00110
def Reg.HOME_PROBE_LOG_18 : Nat := 0xc00118
def Reg.HOME_PROTO_ERR : Nat := 0xc00200
def Reg.HOME_PROTO_ADDR : Nat := 0xc00208
def Reg.TINT_STATUS : Nat := 0xc01000
def Reg.TINT_FWD_SERVED_CNT : Nat := 0xc01008
def Reg.TINT_PUTF_CNT : Nat := 0xc01010
def Reg.TINT_INV_CNT : Nat := 0xc01018
def Reg.TINT_RETRY_CNT : Nat := 0xc01020
def Reg.TINT_RACE_CNT : Nat := 0xc01028
def Reg.TINT_PROTO_ERR : Nat := 0xc01080
def Reg.TINT_PROTO_ADDR : Nat := 0xc01088
def Reg.MC_ID : Nat := 0x400000
def Reg.MC_STATE : Nat := 0x400004
def Reg.MC_CTRL : Nat := 0x400008
def Reg.MC_RECAL_INTERVAL : Nat := 0x40000c
def Reg.MC_SPARE_MAP : Nat := 0x400010
def Reg.MC_THERMAL : Nat := 0x400020
def Reg.MC_CNT_CLEAR : Nat := 0x400024
def Reg.MC_CORR_CNT : Nat := 0x400040
def Reg.MC_UNCORR_CNT : Nat := 0x400048
def Reg.MC_POISON_READ_CNT : Nat := 0x400050
def Reg.MC_RECAL_CNT : Nat := 0x400058
def Reg.MC_THROTTLE_TIME : Nat := 0x400060
def Reg.MC_UNCORR_STATUS : Nat := 0x400080
def Reg.MC_UNCORR_LOG : Nat := 0x400088
def Reg.MC_UNCORR_TIME : Nat := 0x400090
def Reg.MC_SCRUB_START : Nat := 0x400100
def Reg.MC_SCRUB_END : Nat := 0x400108
def Reg.MC_SCRUB_CTRL : Nat := 0x400110
def Reg.MC_SCRUB_STATUS : Nat := 0x400114
def Reg.MC_SCRUB_WORDS : Nat := 0x400118
def Reg.MC_SCRUB_CORR : Nat := 0x400120
def Reg.MC_SCRUB_RECOV : Nat := 0x400128
def Reg.MC_SCRUB_UNCORR : Nat := 0x400130
def Reg.MC_SCRUB_FIRST : Nat := 0x400138
def Reg.MC_RAW_IDX : Nat := 0x400200
def Reg.MC_RAW_DATA : Nat := 0x400208
def Reg.MC_RAW_CHECK : Nat := 0x400210
def Reg.MC_RAW_CMD : Nat := 0x400214
def Reg.MC_ECC_COL : Nat := 0x400400
def Reg.MC_ECC_POISON : Nat := 0x400500
def Reg.MC_CAP_DESC : Nat := 0x400600
def Reg.MC_ICT_RESULT : Nat := 0x400700
def Reg.MEM_CE_STATUS : Nat := 0x408000
def Reg.MEM_CE_ENTRY : Nat := 0x408100
def Reg.MEM_CE_ENTRY_8 : Nat := 0x408108
def Reg.MEM_CE_ENTRY_C : Nat := 0x40810c
def Reg.MEM_CE_ENTRY_10 : Nat := 0x408110
def Reg.MEM_CE_ENTRY_18 : Nat := 0x408118
def Reg.LR_ROLE : Nat := 0x1100000
def Reg.FAB_DEVICE : Nat := 0x1101000
def Reg.FAB_ROUTE_STATUS : Nat := 0x1101004
def Reg.FAB_MODULE_STATE : Nat := 0x1101008
def Reg.FAB_MODULE_FAIL_TIME : Nat := 0x1101010
def Reg.FAB_DEAD_COUNT : Nat := 0x1101018
def Reg.FAB_MEMBER_ROUTE : Nat := 0x1102000
def Reg.FAB_GROUP_ROUTE : Nat := 0x1103000
def Reg.FAB_DEAD_MAP : Nat := 0x1110000
def Reg.EP_ID : Nat := 0x1000000
def Reg.EP_GROUP_STATE : Nat := 0x1000004
def Reg.EP_CNT_CLEAR : Nat := 0x1000008
def Reg.EP_LANE_FAIL : Nat := 0x1000010
def Reg.EP_MARGIN_LOW : Nat := 0x1000018
def Reg.EP_LANE_MARGIN : Nat := 0x1000100
def Reg.LU_STATE : Nat := 0x1001000
def Reg.LU_CTRL : Nat := 0x1001004
def Reg.LU_CAP_LOCAL : Nat := 0x1001008
def Reg.LU_CAP_FAR : Nat := 0x100100c
def Reg.LU_CAP_AGREED : Nat := 0x1001010
def Reg.LU_FLIT_TX_CNT : Nat := 0x1001040
def Reg.LU_FLIT_RX_CNT : Nat := 0x1001048
def Reg.LU_CRC_ERR_CNT : Nat := 0x1001050
def Reg.LU_REPLAY_CNT : Nat := 0x1001058
def Reg.LU_FEC_CORR_CNT : Nat := 0x1001060
def Reg.LU_FEC_UNCORR_CNT : Nat := 0x1001068
def Reg.LU_DOWN_CNT : Nat := 0x1001070
def Reg.LU_NEIGH_MODULE : Nat := 0x1001100
def Reg.LU_NEIGH_INFO : Nat := 0x1001108
def Reg.LU_NEIGH_TIME : Nat := 0x1001110
def Reg.LU_DISCARD_CNT : Nat := 0x1001118
def Reg.LU_DEAD_CNT : Nat := 0x1001120
def Reg.LU_ENTRIES : Nat := 0x1001200
def Reg.LU_CREDIT_RES : Nat := 0x1001400
def Reg.Q_BASE : Nat := 0x1410000
def Reg.Q_CQ_BASE : Nat := 0x1410008
def Reg.Q_CFG : Nat := 0x1410010
def Reg.Q_DOORBELL : Nat := 0x1410014
def Reg.Q_TAIL : Nat := 0x1410018
def Reg.Q_HEAD : Nat := 0x141001c
def Reg.Q_CQ_TAIL : Nat := 0x1410020
def Reg.Q_CQ_HEAD : Nat := 0x1410024
def Reg.Q_STATUS : Nat := 0x1410028
def Reg.Q_JOB_CNT : Nat := 0x141002c
def Reg.Q_IRQ_ADDR : Nat := 0x1410030
def Reg.Q_IRQ_DATA : Nat := 0x1410038
def Reg.Q_ADMIT_REFUSED_CNT : Nat := 0x141003c
def Reg.Q_SEM_VALUE : Nat := 0x1430000
def Reg.Q_SEM_OWNER : Nat := 0x1430004
def Reg.VL_STATE : Nat := 0x10c1000
def Reg.VL_WIN_BASE : Nat := 0x10c1008
def Reg.VL_OUTSTANDING : Nat := 0x10c1010
def Reg.VL_FLIT_TX_CNT : Nat := 0x10c1040
def Reg.VL_FLIT_RX_CNT : Nat := 0x10c1048
def Reg.VL_CRC_ERR_CNT : Nat := 0x10c1050
def Reg.VL_REPLAY_CNT : Nat := 0x10c1058
def Reg.VL_FEC_CORR_CNT : Nat := 0x10c1060
def Reg.VL_FEC_UNCORR_CNT : Nat := 0x10c1068
def Reg.VL_DOWN_CNT : Nat := 0x10c1070
def Reg.SCHED_QCFG : Nat := 0x1610000
def Reg.SCHED_QSTATE : Nat := 0x1610004
def Reg.SCHED_QSAVE : Nat := 0x1610008
def Reg.PART_STATE : Nat := 0x1800000
def Reg.PART_CMD : Nat := 0x1800004
def Reg.PART_CFG : Nat := 0x1800008
def Reg.PART_RATE : Nat := 0x180000c
def Reg.PART_TOKENS : Nat := 0x1800010
def Reg.PART_TLB_INV : Nat := 0x1800014
def Reg.PART_PT_ROOT : Nat := 0x1800018
def Reg.PART_LOG_BASE : Nat := 0x1800020
def Reg.PART_FREEZE_BASE : Nat := 0x1800028
def Reg.PART_NOTIFY_ADDR : Nat := 0x1800030
def Reg.PART_COUNTS : Nat := 0x1800038
def Reg.PART_ACCT_WAIT : Nat := 0x1800040
def Reg.PART_ACCT_PREEMPT : Nat := 0x1800048
def Reg.PART_EVENT_TIME : Nat := 0x1800050
def Reg.PART_CLUSTER_OWNER : Nat := 0x1900000
def Reg.PART_GRANULE_OWNER : Nat := 0x1a00000
def Reg.PWR_VCORE_TARGET : Nat := 0x200000
def Reg.PWR_VCORE_STATUS : Nat := 0x200004
def Reg.PWR_LIMIT : Nat := 0x200008
def Reg.PWR_DROOP_CFG : Nat := 0x20000c
def Reg.PWR_GATE_CFG : Nat := 0x200010
def Reg.PWR_GATE_IDLE : Nat := 0x200014
def Reg.PWR_GATE_REQ : Nat := 0x200018
def Reg.PWR_GATED : Nat := 0x200020
def Reg.PWR_THERM_CFG : Nat := 0x200028
def Reg.PWR_TEMP : Nat := 0x200040
def Reg.PWR_TEMP_MAX : Nat := 0x200080
def Reg.PWR_DROOP_CNT : Nat := 0x200088
def Reg.PWR_THROTTLE_TIME : Nat := 0x200090
def Reg.PWR_EVENTS : Nat := 0x2000a0
def Reg.PWR_CAP : Nat := 0x201000
def Reg.PWR_CAP_STATUS : Nat := 0x201004
def Reg.PWR_INPUT : Nat := 0x201008
def Reg.PWR_INPUT_VOLT : Nat := 0x20100c
def Reg.PWR_ENERGY_UJ : Nat := 0x201010
def Reg.PWR_COOLANT : Nat := 0x201018
def Reg.PWR_HINT : Nat := 0x201100
def Reg.PWR_HINT_E : Nat := 0x201104
def Reg.CLK_STRAP : Nat := 0x100000
def Reg.CLK_STATUS : Nat := 0x100004
def Reg.CLK_CTRL_SRC : Nat := 0x100008
def Reg.CLK_DOMAIN_STATUS : Nat := 0x10000c
def Reg.CLK_EN : Nat := 0x100010
def Reg.CLK_EN_MC : Nat := 0x100018
def Reg.CLK_EN_LU : Nat := 0x100020
def Reg.CLK_RIM_TIMER : Nat := 0x100040
def Reg.CLK_LOCK_LOSS_CNT : Nat := 0x100048
def Reg.CLK_SNAP_CTRL : Nat := 0x100100
def Reg.CLK_SNAP_VAL : Nat := 0x100108
def Reg.RST_CAUSE : Nat := 0x180000
def Reg.RST_CMD : Nat := 0x180004
def Reg.RST_CORE : Nat := 0x180008
def Reg.RST_WARM_CNT : Nat := 0x180010
def Reg.RST_DISCARD_CNT : Nat := 0x180018
def Reg.BOOT_STATE : Nat := 0x180020
def Reg.BOOT_PRE_US : Nat := 0x180024
def Reg.BOOT_STAGE_TIME : Nat := 0x180040
def Reg.PD_STATE : Nat := 0x180080
def Reg.ID_DIE : Nat := 0x0
def Reg.ID_LOT : Nat := 0x4
def Reg.ID_WAFER : Nat := 0x8
def Reg.ID_MEM_LOT : Nat := 0x100
def Reg.ID_MEM_POS : Nat := 0x104
def Reg.ID_MEM_INFO : Nat := 0x108
def Reg.ID_MEM_RES : Nat := 0x10c
def Reg.SEC_STATUS : Nat := 0x1c00000
def Reg.SEC_SEAL : Nat := 0x1c00004
def Reg.SEC_MODULE_ID : Nat := 0x1c00008
def Reg.SEC_FW_RUN : Nat := 0x1c00010
def Reg.SEC_FW_PENDING : Nat := 0x1c00018
def Reg.SEC_SVN_MIN : Nat := 0x1c00020
def Reg.SEC_ID_PUB : Nat := 0x1c00040
def Reg.SEC_KX_PUB : Nat := 0x1c00060
def Reg.SEC_MEAS_EXTEND : Nat := 0x1c00080
def Reg.SEC_MEAS_DATA : Nat := 0x1c00100
def Reg.SEC_MEAS : Nat := 0x1c00400
def Reg.SEC_GCM_FAIL_CNT : Nat := 0x1c00800
def Reg.SEC_EPOCH_DISCARD_CNT : Nat := 0x1c00808
def Reg.SEC_RX_NOMATCH_CNT : Nat := 0x1c00810
def Reg.SEC_SLATE_REJECT_CNT : Nat := 0x1c00818
def Reg.SEC_KSLOT : Nat := 0x1c01000
def Reg.SEC_KSLOT_4 : Nat := 0x1c01004
def Reg.SEC_KSLOT_8 : Nat := 0x1c01008
def Reg.SEC_RX : Nat := 0x1c02000
def Reg.SEC_RX_4 : Nat := 0x1c02004
def Reg.SEC_PMEAS : Nat := 0x1c03000
def Reg.DM_FLT_WRITTEN : Nat := 0x10000
def Reg.DM_FLT_CONSUMED : Nat := 0x10004
def Reg.DM_FLT_STATUS : Nat := 0x10008
def Reg.DM_PENDING : Nat := 0x10010
def Reg.DM_IRQ_ADDR : Nat := 0x10018
def Reg.DM_IRQ_DATA : Nat := 0x10020
def Reg.DM_FLT_ENTRY : Nat := 0x11000
def Reg.DBG_CORE : Nat := 0x2000000
def Reg.DBG_CMD : Nat := 0x2000004
def Reg.DBG_SEL : Nat := 0x2000008
def Reg.DBG_GROUP_STATE : Nat := 0x200000c
def Reg.DBG_HALT_INFO : Nat := 0x2000010
def Reg.DBG_BRK_CODE : Nat := 0x2000014
def Reg.DBG_STEP : Nat := 0x2000018
def Reg.DBG_BIST : Nat := 0x2000040
def Reg.DBG_BIST_RESULT : Nat := 0x2000048
def Reg.DBG_SLICE_TEST : Nat := 0x2000050
def Reg.DBG_CNT_CFG : Nat := 0x2000100
def Reg.DBG_CNT_VAL : Nat := 0x2000108
def Reg.DBG_PF_DROP_CNT : Nat := 0x2000300
def Reg.DBG_LA_CORR_CNT : Nat := 0x2000308
def Reg.DBG_LA_UNCORR_CNT : Nat := 0x2000310
def Reg.DBG_DATA : Nat := 0x2000400
def Reg.DBG_ATTACH : Nat := 0x2001000

/-- Rows of Table 3.6 (R84). -/
def regRows_3_6 : List RegRow := [
  ⟨"CSUP_ID", .clusterSup, Reg.CSUP_ID, [(0x10000, 36)], false, false, 0x0, 0x0, 0x0, .idx⟩,
  ⟨"CSUP_STATE", .clusterSup, Reg.CSUP_STATE, [(0x10000, 36)], false, false, 0x0, 0x0, 0x0, .const 0x0⟩,
  ⟨"CSUP_LAUNCH_TAG", .clusterSup, Reg.CSUP_LAUNCH_TAG, [(0x10000, 36)], false, false, 0x0, 0x0, 0x0, .const 0x0⟩,
  ⟨"CSUP_CORE_ACTIVE", .clusterSup, Reg.CSUP_CORE_ACTIVE, [(0x10000, 36)], true, false, 0x0, 0x0, 0x0, .const 0x0⟩,
  ⟨"CSUP_CORE_FAULT", .clusterSup, Reg.CSUP_CORE_FAULT, [(0x10000, 36)], true, false, 0x0, 0xffffffffffffffff, 0x0, .const 0x0⟩,
  ⟨"CSUP_SHAPE", .clusterSup, Reg.CSUP_SHAPE, [(0x10000, 36)], false, false, 0x0, 0x0, 0x0, .const 0x0⟩,
  ⟨"CSUP_BAR_TIMEOUT", .clusterSup, Reg.CSUP_BAR_TIMEOUT, [(0x10000, 36)], false, false, 0x0, 0x0, 0x0, .const 0x0⟩,
  ⟨"CSUP_BC_DONE", .clusterSup, Reg.CSUP_BC_DONE, [(0x10000, 36)], false, false, 0x0, 0x0, 0x0, .const 0x0⟩,
  ⟨"CSUP_FAULT_FIRST", .clusterSup, Reg.CSUP_FAULT_FIRST, [(0x10000, 36)], false, false, 0x0, 0x0, 0x0, .const 0x0⟩]

/-- Rows of Table 3.7 (R84). -/
def regRows_3_7 : List RegRow := [
  ⟨"CSUP_REC_0", .clusterSup, Reg.CSUP_REC_0, [(0x10000, 36), (0x20, 64)], false, false, 0x0, 0x0, 0x0, .const 0x0⟩,
  ⟨"CSUP_REC_4", .clusterSup, Reg.CSUP_REC_4, [(0x10000, 36), (0x20, 64)], false, false, 0x0, 0x0, 0x0, .const 0x0⟩,
  ⟨"CSUP_REC_8", .clusterSup, Reg.CSUP_REC_8, [(0x10000, 36), (0x20, 64)], true, false, 0x0, 0x0, 0x0, .const 0x0⟩,
  ⟨"CSUP_REC_10", .clusterSup, Reg.CSUP_REC_10, [(0x10000, 36), (0x20, 64)], true, false, 0x0, 0x0, 0x0, .const 0x0⟩,
  ⟨"CSUP_REC_18", .clusterSup, Reg.CSUP_REC_18, [(0x10000, 36), (0x20, 64)], false, false, 0x0, 0x0, 0x0, .const 0x0⟩,
  ⟨"CSUP_REC_1C", .clusterSup, Reg.CSUP_REC_1C, [(0x10000, 36), (0x20, 64)], false, false, 0x0, 0x0, 0x0, .const 0x0⟩]

/-- Rows of Table 9.8 (R262). -/
def regRows_9_8 : List RegRow := [
  ⟨"SLICE_ID", .slice, Reg.SLICE_ID, [(0x10000, 64)], false, false, 0x0, 0x0, 0x0, .idx⟩,
  ⟨"SLICE_CTRL", .slice, Reg.SLICE_CTRL, [(0x10000, 64)], false, false, 0x17, 0x0, 0x0, .const 0x0⟩,
  ⟨"SLICE_STATUS", .slice, Reg.SLICE_STATUS, [(0x10000, 64)], false, false, 0x0, 0x0, 0x0, .const 0x0⟩,
  ⟨"SLICE_CNT_CLEAR", .slice, Reg.SLICE_CNT_CLEAR, [(0x10000, 64)], false, false, 0x0, 0x0, 0x0, .const 0x0⟩,
  ⟨"SLICE_HIT_CNT", .slice, Reg.SLICE_HIT_CNT, [(0x10000, 64)], true, false, 0x0, 0x0, 0x0, .const 0x0⟩,
  ⟨"SLICE_MISS_CNT", .slice, Reg.SLICE_MISS_CNT, [(0x10000, 64)], true, false, 0x0, 0x0, 0x0, .const 0x0⟩,
  ⟨"SLICE_TINT_HIT_CNT", .slice, Reg.SLICE_TINT_HIT_CNT, [(0x10000, 64)], true, false, 0x0, 0x0, 0x0, .const 0x0⟩,
  ⟨"SLICE_TINT_FILL_CNT", .slice, Reg.SLICE_TINT_FILL_CNT, [(0x10000, 64)], true, false, 0x0, 0x0, 0x0, .const 0x0⟩,
  ⟨"SLICE_WB_CNT", .slice, Reg.SLICE_WB_CNT, [(0x10000, 64)], true, false, 0x0, 0x0, 0x0, .const 0x0⟩,
  ⟨"SLICE_RED_CNT", .slice, Reg.SLICE_RED_CNT, [(0x10000, 64)], true, false, 0x0, 0x0, 0x0, .const 0x0⟩,
  ⟨"SLICE_MERGE_CNT", .slice, Reg.SLICE_MERGE_CNT, [(0x10000, 64)], true, false, 0x0, 0x0, 0x0, .const 0x0⟩,
  ⟨"SLICE_URG_CNT", .slice, Reg.SLICE_URG_CNT, [(0x10000, 64)], true, false, 0x0, 0x0, 0x0, .const 0x0⟩,
  ⟨"SLICE_PIN_REFUSED_CNT", .slice, Reg.SLICE_PIN_REFUSED_CNT, [(0x10000, 64)], true, false, 0x0, 0x0, 0x0, .const 0x0⟩,
  ⟨"SLICE_ECC_CORR_CNT", .slice, Reg.SLICE_ECC_CORR_CNT, [(0x10000, 64)], true, false, 0x0, 0x0, 0x0, .const 0x0⟩,
  ⟨"SLICE_ECC_UNCORR_CNT", .slice, Reg.SLICE_ECC_UNCORR_CNT, [(0x10000, 64)], true, false, 0x0, 0x0, 0x0, .const 0x0⟩,
  ⟨"SLICE_ERR_STATUS", .slice, Reg.SLICE_ERR_STATUS, [(0x10000, 64)], false, false, 0x0, 0xf, 0x0, .const 0x0⟩,
  ⟨"SLICE_ERR_ADDR", .slice, Reg.SLICE_ERR_ADDR, [(0x10000, 64)], true, false, 0x0, 0x0, 0x0, .const 0x0⟩,
  ⟨"SLICE_ERR_TIME", .slice, Reg.SLICE_ERR_TIME, [(0x10000, 64)], true, false, 0x0, 0x0, 0x0, .const 0x0⟩,
  ⟨"SLICE_PIN_QUOTA", .slice, Reg.SLICE_PIN_QUOTA, [(0x10000, 64), (0x8, 32)], false, false, 0xffff000f, 0x0, 0x0, .const 0x0⟩,
  ⟨"SLICE_PIN_USED", .slice, Reg.SLICE_PIN_USED, [(0x10000, 64), (0x8, 32)], false, false, 0x0, 0x0, 0x0, .const 0x0⟩]

/-- Rows of Table 10.8 (R287). -/
def regRows_10_8_0 : List RegRow := [
  ⟨"HOME_ID", .home, Reg.HOME_ID, [], false, false, 0x0, 0x0, 0x0, .die⟩,
  ⟨"HOME_INTERLEAVE", .home, Reg.HOME_INTERLEAVE, [], false, false, 0xff, 0x0, 0x0, .const 0x0⟩,
  ⟨"HOME_CTRL", .home, Reg.HOME_CTRL, [], false, false, 0x1, 0x0, 0x0, .const 0x0⟩,
  ⟨"HOME_CMP_STATUS", .home, Reg.HOME_CMP_STATUS, [], false, false, 0x0, 0x0, 0x0, .const 0x0⟩,
  ⟨"HOME_AMBER_REQ", .home, Reg.HOME_AMBER_REQ, [], true, false, 0xffffffffffffffff, 0x0, 0x0, .const 0xffffffffffffffff⟩,
  ⟨"HOME_AMBER_ACTIVE", .home, Reg.HOME_AMBER_ACTIVE, [], true, false, 0x0, 0x0, 0x0, .const 0xffffffffffffffff⟩,
  ⟨"HOME_PROBE_LIMIT", .home, Reg.HOME_PROBE_LIMIT, [], false, false, 0x0, 0x0, 0x0, .const 0x30d40⟩,
  ⟨"HOME_CNT_CLEAR", .home, Reg.HOME_CNT_CLEAR, [], false, false, 0x0, 0x0, 0x0, .const 0x0⟩,
  ⟨"HOME_AGENT_SILENT", .home, Reg.HOME_AGENT_SILENT, [], false, false, 0x0, 0x1ffff, 0x0, .const 0x0⟩,
  ⟨"HOME_FWD_CNT", .home, Reg.HOME_FWD_CNT, [], true, false, 0x0, 0x0, 0x0, .const 0x0⟩,
  ⟨"HOME_INV_CNT", .home, Reg.HOME_INV_CNT, [], true, false, 0x0, 0x0, 0x0, .const 0x0⟩,
  ⟨"HOME_SNP_CNT", .home, Reg.HOME_SNP_CNT, [], true, false, 0x0, 0x0, 0x0, .const 0x0⟩,
  ⟨"HOME_RETRY_CNT", .home, Reg.HOME_RETRY_CNT, [], true, false, 0x0, 0x0, 0x0, .const 0x0⟩,
  ⟨"HOME_CREDIT_CNT", .home, Reg.HOME_CREDIT_CNT, [], true, false, 0x0, 0x0, 0x0, .const 0x0⟩,
  ⟨"HOME_TIMEOUT_CNT", .home, Reg.HOME_TIMEOUT_CNT, [], true, false, 0x0, 0x0, 0x0, .const 0x0⟩,
  ⟨"HOME_LATE_CNT", .home, Reg.HOME_LATE_CNT, [], true, false, 0x0, 0x0, 0x0, .const 0x0⟩,
  ⟨"HOME_LOG_STATUS", .home, Reg.HOME_LOG_STATUS, [], false, false, 0x0, 0x10, 0x0, .const 0x0⟩,
  ⟨"HOME_PROBE_LOG", .home, Reg.HOME_PROBE_LOG, [(0x20, 8)], true, false, 0x0, 0x0, 0x0, .const 0x0⟩,
  ⟨"HOME_PROBE_LOG_8", .home, Reg.HOME_PROBE_LOG_8, [(0x20, 8)], false, false, 0x0, 0x0, 0x0, .const 0x0⟩,
  ⟨"HOME_PROBE_LOG_C", .home, Reg.HOME_PROBE_LOG_C, [(0x20, 8)], false, false, 0x0, 0x0, 0x0, .const 0x0⟩,
  ⟨"HOME_PROBE_LOG_10", .home, Reg.HOME_PROBE_LOG_10, [(0x20, 8)], true, false, 0x0, 0x0, 0x0, .const 0x0⟩,
  ⟨"HOME_PROBE_LOG_18", .home, Reg.HOME_PROBE_LOG_18, [(0x20, 8)], true, false, 0x0, 0x0, 0x0, .const 0x0⟩,
  ⟨"HOME_PROTO_ERR", .home, Reg.HOME_PROTO_ERR, [], false, false, 0x0, 0x0, 0x0, .const 0x0⟩,
  ⟨"HOME_PROTO_ADDR", .home, Reg.HOME_PROTO_ADDR, [], true, false, 0x0, 0x0, 0x0, .const 0x0⟩]

/-- Rows of Table 10.8 (R287). -/
def regRows_10_8_1 : List RegRow := [
  ⟨"TINT_STATUS", .home, Reg.TINT_STATUS, [], false, false, 0x0, 0x0, 0x0, .const 0x0⟩,
  ⟨"TINT_FWD_SERVED_CNT", .home, Reg.TINT_FWD_SERVED_CNT, [], true, false, 0x0, 0x0, 0x0, .const 0x0⟩,
  ⟨"TINT_PUTF_CNT", .home, Reg.TINT_PUTF_CNT, [], true, false, 0x0, 0x0, 0x0, .const 0x0⟩,
  ⟨"TINT_INV_CNT", .home, Reg.TINT_INV_CNT, [], true, false, 0x0, 0x0, 0x0, .const 0x0⟩,
  ⟨"TINT_RETRY_CNT", .home, Reg.TINT_RETRY_CNT, [], true, false, 0x0, 0x0, 0x0, .const 0x0⟩,
  ⟨"TINT_RACE_CNT", .home, Reg.TINT_RACE_CNT, [], true, false, 0x0, 0x0, 0x0, .const 0x0⟩,
  ⟨"TINT_PROTO_ERR", .home, Reg.TINT_PROTO_ERR, [], false, false, 0x0, 0x0, 0x0, .const 0x0⟩,
  ⟨"TINT_PROTO_ADDR", .home, Reg.TINT_PROTO_ADDR, [], true, false, 0x0, 0x0, 0x0, .const 0x0⟩]

/-- Rows of Table 11.9 (R320). -/
def regRows_11_9_0 : List RegRow := [
  ⟨"MC_ID", .channel, Reg.MC_ID, [(0x10000, 64)], false, false, 0x0, 0x0, 0x0, .idx⟩,
  ⟨"MC_STATE", .channel, Reg.MC_STATE, [(0x10000, 64)], false, false, 0x0, 0x0, 0x0, .const 0x0⟩,
  ⟨"MC_CTRL", .channel, Reg.MC_CTRL, [(0x10000, 64)], false, false, 0x1, 0x0, 0x0, .const 0x1⟩,
  ⟨"MC_RECAL_INTERVAL", .channel, Reg.MC_RECAL_INTERVAL, [(0x10000, 64)], false, false, 0xffffffff, 0x0, 0x0, .const 0x5f5e100⟩,
  ⟨"MC_SPARE_MAP", .channel, Reg.MC_SPARE_MAP, [(0x10000, 64), (0x4, 4)], false, false, 0x0, 0x0, 0x0, .const 0x0⟩,
  ⟨"MC_THERMAL", .channel, Reg.MC_THERMAL, [(0x10000, 64)], false, false, 0x0, 0x0, 0x0, .const 0x0⟩,
  ⟨"MC_CNT_CLEAR", .channel, Reg.MC_CNT_CLEAR, [(0x10000, 64)], false, false, 0x0, 0x0, 0x0, .const 0x0⟩,
  ⟨"MC_CORR_CNT", .channel, Reg.MC_CORR_CNT, [(0x10000, 64)], true, false, 0x0, 0x0, 0x0, .const 0x0⟩,
  ⟨"MC_UNCORR_CNT", .channel, Reg.MC_UNCORR_CNT, [(0x10000, 64)], true, false, 0x0, 0x0, 0x0, .const 0x0⟩,
  ⟨"MC_POISON_READ_CNT", .channel, Reg.MC_POISON_READ_CNT, [(0x10000, 64)], true, false, 0x0, 0x0, 0x0, .const 0x0⟩,
  ⟨"MC_RECAL_CNT", .channel, Reg.MC_RECAL_CNT, [(0x10000, 64)], true, false, 0x0, 0x0, 0x0, .const 0x0⟩,
  ⟨"MC_THROTTLE_TIME", .channel, Reg.MC_THROTTLE_TIME, [(0x10000, 64)], true, false, 0x0, 0x0, 0x0, .const 0x0⟩,
  ⟨"MC_UNCORR_STATUS", .channel, Reg.MC_UNCORR_STATUS, [(0x10000, 64)], false, false, 0x0, 0x1, 0x0, .const 0x0⟩,
  ⟨"MC_UNCORR_LOG", .channel, Reg.MC_UNCORR_LOG, [(0x10000, 64)], true, false, 0x0, 0x0, 0x0, .const 0x0⟩,
  ⟨"MC_UNCORR_TIME", .channel, Reg.MC_UNCORR_TIME, [(0x10000, 64)], true, false, 0x0, 0x0, 0x0, .const 0x0⟩,
  ⟨"MC_SCRUB_START", .channel, Reg.MC_SCRUB_START, [(0x10000, 64)], true, false, 0x1ffffff, 0x0, 0x0, .const 0x0⟩,
  ⟨"MC_SCRUB_END", .channel, Reg.MC_SCRUB_END, [(0x10000, 64)], true, false, 0x1ffffff, 0x0, 0x0, .const 0x0⟩,
  ⟨"MC_SCRUB_CTRL", .channel, Reg.MC_SCRUB_CTRL, [(0x10000, 64)], false, false, 0xff00, 0x0, 0x0, .const 0x0⟩,
  ⟨"MC_SCRUB_STATUS", .channel, Reg.MC_SCRUB_STATUS, [(0x10000, 64)], false, false, 0x0, 0x0, 0x0, .const 0x0⟩,
  ⟨"MC_SCRUB_WORDS", .channel, Reg.MC_SCRUB_WORDS, [(0x10000, 64)], true, false, 0x0, 0x0, 0x0, .const 0x0⟩,
  ⟨"MC_SCRUB_CORR", .channel, Reg.MC_SCRUB_CORR, [(0x10000, 64)], true, false, 0x0, 0x0, 0x0, .const 0x0⟩,
  ⟨"MC_SCRUB_RECOV", .channel, Reg.MC_SCRUB_RECOV, [(0x10000, 64)], true, false, 0x0, 0x0, 0x0, .const 0x0⟩,
  ⟨"MC_SCRUB_UNCORR", .channel, Reg.MC_SCRUB_UNCORR, [(0x10000, 64)], true, false, 0x0, 0x0, 0x0, .const 0x0⟩,
  ⟨"MC_SCRUB_FIRST", .channel, Reg.MC_SCRUB_FIRST, [(0x10000, 64)], true, false, 0x0, 0x0, 0x0, .const 0x0⟩]

/-- Rows of Table 11.9 (R320). -/
def regRows_11_9_1 : List RegRow := [
  ⟨"MC_RAW_IDX", .channel, Reg.MC_RAW_IDX, [(0x10000, 64)], false, false, 0x1fffffff, 0x0, 0x0, .const 0x0⟩,
  ⟨"MC_RAW_DATA", .channel, Reg.MC_RAW_DATA, [(0x10000, 64)], true, false, 0xffffffffffffffff, 0x0, 0x0, .const 0x0⟩,
  ⟨"MC_RAW_CHECK", .channel, Reg.MC_RAW_CHECK, [(0x10000, 64)], false, false, 0xffff, 0x0, 0x0, .const 0x0⟩,
  ⟨"MC_RAW_CMD", .channel, Reg.MC_RAW_CMD, [(0x10000, 64)], false, false, 0x0, 0x0, 0x0, .const 0x0⟩,
  ⟨"MC_ECC_COL", .channel, Reg.MC_ECC_COL, [(0x10000, 64), (0x4, 64)], false, false, 0x0, 0x0, 0x0, .eccCol⟩,
  ⟨"MC_ECC_POISON", .channel, Reg.MC_ECC_POISON, [(0x10000, 64)], false, false, 0x0, 0x0, 0x0, .const 0x5aa5⟩,
  ⟨"MC_CAP_DESC", .channel, Reg.MC_CAP_DESC, [(0x10000, 64), (0x4, 16)], false, false, 0x0, 0x0, 0x0, .const 0x0⟩,
  ⟨"MC_ICT_RESULT", .channel, Reg.MC_ICT_RESULT, [(0x10000, 64), (0x4, 11)], false, false, 0x0, 0x0, 0x0, .const 0x0⟩]

/-- Rows of Table 11.10 (R321). -/
def regRows_11_10 : List RegRow := [
  ⟨"MEM_CE_STATUS", .channel, Reg.MEM_CE_STATUS, [], false, false, 0x0, 0x20, 0x0, .const 0x0⟩,
  ⟨"MEM_CE_ENTRY", .channel, Reg.MEM_CE_ENTRY, [(0x20, 16)], true, false, 0x0, 0x0, 0x0, .const 0x0⟩,
  ⟨"MEM_CE_ENTRY_8", .channel, Reg.MEM_CE_ENTRY_8, [(0x20, 16)], false, false, 0x0, 0x0, 0x0, .const 0x0⟩,
  ⟨"MEM_CE_ENTRY_C", .channel, Reg.MEM_CE_ENTRY_C, [(0x20, 16)], false, false, 0x0, 0x0, 0x0, .const 0x0⟩,
  ⟨"MEM_CE_ENTRY_10", .channel, Reg.MEM_CE_ENTRY_10, [(0x20, 16)], true, false, 0x0, 0x0, 0x0, .const 0x0⟩,
  ⟨"MEM_CE_ENTRY_18", .channel, Reg.MEM_CE_ENTRY_18, [(0x20, 16)], true, false, 0x0, 0x0, 0x0, .const 0x0⟩]

/-- Rows of Table 12.10 (R356). -/
def regRows_12_10 : List RegRow := [
  ⟨"LR_ROLE", .laneRole, Reg.LR_ROLE, [(0x4, 4)], false, false, 0x3fff, 0x0, 0x0, .role⟩,
  ⟨"FAB_DEVICE", .laneRole, Reg.FAB_DEVICE, [], false, false, 0x0, 0x0, 0x0, .const 0x0⟩,
  ⟨"FAB_ROUTE_STATUS", .laneRole, Reg.FAB_ROUTE_STATUS, [], false, false, 0x0, 0x0, 0x0, .const 0x0⟩,
  ⟨"FAB_MODULE_STATE", .laneRole, Reg.FAB_MODULE_STATE, [], false, false, 0x0, 0x0, 0x0, .const 0x0⟩,
  ⟨"FAB_MODULE_FAIL_TIME", .laneRole, Reg.FAB_MODULE_FAIL_TIME, [], true, false, 0x0, 0x0, 0x0, .const 0x0⟩,
  ⟨"FAB_DEAD_COUNT", .laneRole, Reg.FAB_DEAD_COUNT, [], false, false, 0x0, 0x0, 0x0, .const 0x0⟩,
  ⟨"FAB_MEMBER_ROUTE", .laneRole, Reg.FAB_MEMBER_ROUTE, [(0x4, 256)], false, false, 0x0, 0x0, 0x0, .const 0x0⟩,
  ⟨"FAB_GROUP_ROUTE", .laneRole, Reg.FAB_GROUP_ROUTE, [(0x4, 1024)], false, false, 0x0, 0x0, 0x0, .const 0x0⟩,
  ⟨"FAB_DEAD_MAP", .laneRole, Reg.FAB_DEAD_MAP, [(0x4, 8192)], false, false, 0x0, 0xffffffff, 0x0, .const 0x0⟩]

/-- Rows of Table 12.11 (R358). -/
def regRows_12_11_0 : List RegRow := [
  ⟨"EP_ID", .edgePort, Reg.EP_ID, [(0x40000, 4)], false, false, 0x0, 0x0, 0x0, .port⟩,
  ⟨"EP_GROUP_STATE", .edgePort, Reg.EP_GROUP_STATE, [(0x40000, 4)], false, false, 0x0, 0x0, 0x0, .const 0x0⟩,
  ⟨"EP_CNT_CLEAR", .edgePort, Reg.EP_CNT_CLEAR, [(0x40000, 4)], false, false, 0x0, 0x0, 0x0, .const 0x0⟩,
  ⟨"EP_LANE_FAIL", .edgePort, Reg.EP_LANE_FAIL, [(0x40000, 4)], true, false, 0x0, 0x0, 0x0, .const 0x0⟩,
  ⟨"EP_MARGIN_LOW", .edgePort, Reg.EP_MARGIN_LOW, [(0x40000, 4)], true, false, 0x0, 0xffffffffffffff, 0x0, .const 0x0⟩,
  ⟨"EP_LANE_MARGIN", .edgePort, Reg.EP_LANE_MARGIN, [(0x40000, 4), (0x4, 56)], false, false, 0x0, 0x0, 0x0, .const 0x0⟩,
  ⟨"LU_STATE", .edgePort, Reg.LU_STATE, [(0x40000, 4), (0x1000, 2)], false, false, 0x0, 0x0, 0x0, .const 0x0⟩,
  ⟨"LU_CTRL", .edgePort, Reg.LU_CTRL, [(0x40000, 4), (0x1000, 2)], false, false, 0x0, 0x0, 0x0, .const 0x0⟩,
  ⟨"LU_CAP_LOCAL", .edgePort, Reg.LU_CAP_LOCAL, [(0x40000, 4), (0x1000, 2)], false, false, 0x0, 0x0, 0x0, .ldi⟩,
  ⟨"LU_CAP_FAR", .edgePort, Reg.LU_CAP_FAR, [(0x40000, 4), (0x1000, 2)], false, false, 0x0, 0x0, 0x0, .const 0x0⟩,
  ⟨"LU_CAP_AGREED", .edgePort, Reg.LU_CAP_AGREED, [(0x40000, 4), (0x1000, 2)], false, false, 0x0, 0x0, 0x0, .const 0x0⟩,
  ⟨"LU_FLIT_TX_CNT", .edgePort, Reg.LU_FLIT_TX_CNT, [(0x40000, 4), (0x1000, 2)], true, false, 0x0, 0x0, 0x0, .const 0x0⟩,
  ⟨"LU_FLIT_RX_CNT", .edgePort, Reg.LU_FLIT_RX_CNT, [(0x40000, 4), (0x1000, 2)], true, false, 0x0, 0x0, 0x0, .const 0x0⟩,
  ⟨"LU_CRC_ERR_CNT", .edgePort, Reg.LU_CRC_ERR_CNT, [(0x40000, 4), (0x1000, 2)], true, false, 0x0, 0x0, 0x0, .const 0x0⟩,
  ⟨"LU_REPLAY_CNT", .edgePort, Reg.LU_REPLAY_CNT, [(0x40000, 4), (0x1000, 2)], true, false, 0x0, 0x0, 0x0, .const 0x0⟩,
  ⟨"LU_FEC_CORR_CNT", .edgePort, Reg.LU_FEC_CORR_CNT, [(0x40000, 4), (0x1000, 2)], true, false, 0x0, 0x0, 0x0, .const 0x0⟩,
  ⟨"LU_FEC_UNCORR_CNT", .edgePort, Reg.LU_FEC_UNCORR_CNT, [(0x40000, 4), (0x1000, 2)], true, false, 0x0, 0x0, 0x0, .const 0x0⟩,
  ⟨"LU_DOWN_CNT", .edgePort, Reg.LU_DOWN_CNT, [(0x40000, 4), (0x1000, 2)], true, false, 0x0, 0x0, 0x0, .const 0x0⟩,
  ⟨"LU_NEIGH_MODULE", .edgePort, Reg.LU_NEIGH_MODULE, [(0x40000, 4), (0x1000, 2)], true, false, 0x0, 0x0, 0x0, .const 0x0⟩,
  ⟨"LU_NEIGH_INFO", .edgePort, Reg.LU_NEIGH_INFO, [(0x40000, 4), (0x1000, 2)], false, false, 0x0, 0x0, 0x0, .const 0x0⟩,
  ⟨"LU_NEIGH_TIME", .edgePort, Reg.LU_NEIGH_TIME, [(0x40000, 4), (0x1000, 2)], true, false, 0x0, 0x0, 0x0, .const 0x0⟩,
  ⟨"LU_DISCARD_CNT", .edgePort, Reg.LU_DISCARD_CNT, [(0x40000, 4), (0x1000, 2)], true, false, 0x0, 0x0, 0x0, .const 0x0⟩,
  ⟨"LU_DEAD_CNT", .edgePort, Reg.LU_DEAD_CNT, [(0x40000, 4), (0x1000, 2)], true, false, 0x0, 0x0, 0x0, .const 0x0⟩,
  ⟨"LU_ENTRIES", .edgePort, Reg.LU_ENTRIES, [(0x40000, 4), (0x1000, 2)], false, false, 0x0, 0x0, 0x0, .const 0x8000000⟩]

/-- Rows of Table 12.11 (R358). -/
def regRows_12_11_1 : List RegRow := [
  ⟨"LU_CREDIT_RES", .edgePort, Reg.LU_CREDIT_RES, [(0x40000, 4), (0x1000, 2), (0x4, 32)], false, false, 0x7ff, 0x0, 0x0, .const 0x0⟩]

/-- Rows of Table 13.6 (R385). -/
def regRows_13_6 : List RegRow := [
  ⟨"Q_BASE", .queues, Reg.Q_BASE, [(0x40, 2048)], true, true, 0xffffffffffffffff, 0x0, 0x0, .const 0x0⟩,
  ⟨"Q_CQ_BASE", .queues, Reg.Q_CQ_BASE, [(0x40, 2048)], true, true, 0xffffffffffffffff, 0x0, 0x0, .const 0x0⟩,
  ⟨"Q_CFG", .queues, Reg.Q_CFG, [(0x40, 2048)], false, true, 0x3f, 0x0, 0x0, .queue⟩,
  ⟨"Q_DOORBELL", .queues, Reg.Q_DOORBELL, [(0x40, 2048)], false, true, 0x0, 0x0, 0x0, .const 0x0⟩,
  ⟨"Q_TAIL", .queues, Reg.Q_TAIL, [(0x40, 2048)], false, true, 0x0, 0x0, 0x0, .const 0x0⟩,
  ⟨"Q_HEAD", .queues, Reg.Q_HEAD, [(0x40, 2048)], false, true, 0x0, 0x0, 0x0, .const 0x0⟩,
  ⟨"Q_CQ_TAIL", .queues, Reg.Q_CQ_TAIL, [(0x40, 2048)], false, true, 0x0, 0x0, 0x0, .const 0x0⟩,
  ⟨"Q_CQ_HEAD", .queues, Reg.Q_CQ_HEAD, [(0x40, 2048)], false, true, 0xffffffff, 0x0, 0x0, .const 0x0⟩,
  ⟨"Q_STATUS", .queues, Reg.Q_STATUS, [(0x40, 2048)], false, true, 0x0, 0x0, 0x0, .const 0x0⟩,
  ⟨"Q_JOB_CNT", .queues, Reg.Q_JOB_CNT, [(0x40, 2048)], false, true, 0x0, 0x0, 0x0, .const 0x0⟩,
  ⟨"Q_IRQ_ADDR", .queues, Reg.Q_IRQ_ADDR, [(0x40, 2048)], true, true, 0xffffffffffffffff, 0x0, 0x0, .const 0x0⟩,
  ⟨"Q_IRQ_DATA", .queues, Reg.Q_IRQ_DATA, [(0x40, 2048)], false, true, 0xffffffff, 0x0, 0x0, .const 0x0⟩,
  ⟨"Q_ADMIT_REFUSED_CNT", .queues, Reg.Q_ADMIT_REFUSED_CNT, [(0x40, 2048)], false, true, 0x0, 0x0, 0x0, .const 0x0⟩]

/-- Rows of Table 13.7 (R385). -/
def regRows_13_7 : List RegRow := [
  ⟨"Q_SEM_VALUE", .queues, Reg.Q_SEM_VALUE, [(0x8, 2048)], false, true, 0x0, 0x0, 0x0, .const 0x0⟩,
  ⟨"Q_SEM_OWNER", .queues, Reg.Q_SEM_OWNER, [(0x8, 2048)], false, true, 0x0, 0x0, 0x0, .const 0x0⟩]

/-- Rows of Table 13.8 (R386). -/
def regRows_13_8 : List RegRow := [
  ⟨"VL_STATE", .host, Reg.VL_STATE, [], false, true, 0x0, 0x0, 0x0, .const 0x0⟩,
  ⟨"VL_WIN_BASE", .host, Reg.VL_WIN_BASE, [], true, true, 0x0, 0x0, 0xfffffc0000000000, .const 0x0⟩,
  ⟨"VL_OUTSTANDING", .host, Reg.VL_OUTSTANDING, [], false, true, 0x0, 0x0, 0x0, .const 0x0⟩,
  ⟨"VL_FLIT_TX_CNT", .host, Reg.VL_FLIT_TX_CNT, [], true, true, 0x0, 0x0, 0x0, .const 0x0⟩,
  ⟨"VL_FLIT_RX_CNT", .host, Reg.VL_FLIT_RX_CNT, [], true, true, 0x0, 0x0, 0x0, .const 0x0⟩,
  ⟨"VL_CRC_ERR_CNT", .host, Reg.VL_CRC_ERR_CNT, [], true, true, 0x0, 0x0, 0x0, .const 0x0⟩,
  ⟨"VL_REPLAY_CNT", .host, Reg.VL_REPLAY_CNT, [], true, true, 0x0, 0x0, 0x0, .const 0x0⟩,
  ⟨"VL_FEC_CORR_CNT", .host, Reg.VL_FEC_CORR_CNT, [], true, true, 0x0, 0x0, 0x0, .const 0x0⟩,
  ⟨"VL_FEC_UNCORR_CNT", .host, Reg.VL_FEC_UNCORR_CNT, [], true, true, 0x0, 0x0, 0x0, .const 0x0⟩,
  ⟨"VL_DOWN_CNT", .host, Reg.VL_DOWN_CNT, [], true, true, 0x0, 0x0, 0x0, .const 0x0⟩]

/-- Rows of Table 14.11 (R422). -/
def regRows_14_11 : List RegRow := [
  ⟨"SCHED_QCFG", .queues, Reg.SCHED_QCFG, [(0x10, 2048)], false, true, 0xffff0007, 0x0, 0x0, .const 0x0⟩,
  ⟨"SCHED_QSTATE", .queues, Reg.SCHED_QSTATE, [(0x10, 2048)], false, true, 0x0, 0x0, 0x0, .const 0x0⟩,
  ⟨"SCHED_QSAVE", .queues, Reg.SCHED_QSAVE, [(0x10, 2048)], true, true, 0x3fffffff0000, 0x0, 0x0, .const 0x0⟩]

/-- Rows of Table 14.12 (R422). -/
def regRows_14_12 : List RegRow := [
  ⟨"PART_STATE", .partitions, Reg.PART_STATE, [(0x100, 32)], false, true, 0x0, 0x0, 0x0, .const 0x0⟩,
  ⟨"PART_CMD", .partitions, Reg.PART_CMD, [(0x100, 32)], false, true, 0x0, 0x0, 0x0, .const 0x0⟩,
  ⟨"PART_CFG", .partitions, Reg.PART_CFG, [(0x100, 32)], false, true, 0x1fff, 0x0, 0x0, .const 0x10⟩,
  ⟨"PART_RATE", .partitions, Reg.PART_RATE, [(0x100, 32)], false, true, 0xffffffff, 0x0, 0x0, .const 0x0⟩,
  ⟨"PART_TOKENS", .partitions, Reg.PART_TOKENS, [(0x100, 32)], false, true, 0x0, 0x0, 0x0, .const 0x0⟩,
  ⟨"PART_TLB_INV", .partitions, Reg.PART_TLB_INV, [(0x100, 32)], false, true, 0x0, 0x0, 0x0, .const 0x0⟩,
  ⟨"PART_PT_ROOT", .partitions, Reg.PART_PT_ROOT, [(0x100, 32)], true, true, 0x3ffffffff000, 0x0, 0x0, .const 0x0⟩,
  ⟨"PART_LOG_BASE", .partitions, Reg.PART_LOG_BASE, [(0x100, 32)], true, true, 0x3fffffff0000, 0x0, 0x0, .const 0x0⟩,
  ⟨"PART_FREEZE_BASE", .partitions, Reg.PART_FREEZE_BASE, [(0x100, 32)], true, true, 0x3fffffff0000, 0x0, 0x0, .const 0x0⟩,
  ⟨"PART_NOTIFY_ADDR", .partitions, Reg.PART_NOTIFY_ADDR, [(0x100, 32)], true, true, 0xffffffffffffffff, 0x0, 0x0, .const 0x0⟩,
  ⟨"PART_COUNTS", .partitions, Reg.PART_COUNTS, [(0x100, 32)], false, true, 0x0, 0x0, 0x0, .const 0x0⟩,
  ⟨"PART_ACCT_WAIT", .partitions, Reg.PART_ACCT_WAIT, [(0x100, 32)], true, true, 0x0, 0x0, 0x0, .const 0x0⟩,
  ⟨"PART_ACCT_PREEMPT", .partitions, Reg.PART_ACCT_PREEMPT, [(0x100, 32)], false, true, 0x0, 0x0, 0x0, .const 0x0⟩,
  ⟨"PART_EVENT_TIME", .partitions, Reg.PART_EVENT_TIME, [(0x100, 32)], true, true, 0x0, 0x0, 0x0, .const 0x0⟩]

/-- Rows of Table 14.13 (R422). -/
def regRows_14_13 : List RegRow := [
  ⟨"PART_CLUSTER_OWNER", .partitions, Reg.PART_CLUSTER_OWNER, [(0x4, 576)], false, true, 0x3f, 0x0, 0x0, .const 0x0⟩,
  ⟨"PART_GRANULE_OWNER", .partitions, Reg.PART_GRANULE_OWNER, [(0x4, 3072)], false, true, 0x3f, 0x0, 0x0, .const 0x0⟩]

/-- Rows of Table 15.4 (R443). -/
def regRows_15_4 : List RegRow := [
  ⟨"PWR_VCORE_TARGET", .power, Reg.PWR_VCORE_TARGET, [], false, false, 0x3ff, 0x0, 0x0, .const 0x258⟩,
  ⟨"PWR_VCORE_STATUS", .power, Reg.PWR_VCORE_STATUS, [], false, false, 0x0, 0x0, 0x0, .const 0x96000⟩,
  ⟨"PWR_LIMIT", .power, Reg.PWR_LIMIT, [], false, false, 0x0, 0x0, 0x0, .const 0x404040⟩,
  ⟨"PWR_DROOP_CFG", .power, Reg.PWR_DROOP_CFG, [], false, false, 0x3fff7fff, 0x0, 0x0, .const 0x3e81028⟩,
  ⟨"PWR_GATE_CFG", .power, Reg.PWR_GATE_CFG, [], false, false, 0x1, 0x0, 0x0, .const 0x1⟩,
  ⟨"PWR_GATE_IDLE", .power, Reg.PWR_GATE_IDLE, [], false, false, 0xffffffff, 0x0, 0x0, .const 0x186a0⟩,
  ⟨"PWR_GATE_REQ", .power, Reg.PWR_GATE_REQ, [], false, false, 0x0, 0x0, 0x0, .const 0x0⟩,
  ⟨"PWR_GATED", .power, Reg.PWR_GATED, [], true, false, 0x0, 0x0, 0x0, .const 0xfffffffff⟩,
  ⟨"PWR_THERM_CFG", .power, Reg.PWR_THERM_CFG, [], false, false, 0xff, 0x0, 0x0, .const 0x5f⟩,
  ⟨"PWR_TEMP", .power, Reg.PWR_TEMP, [(0x4, 13)], false, false, 0x0, 0x0, 0x0, .const 0x0⟩,
  ⟨"PWR_TEMP_MAX", .power, Reg.PWR_TEMP_MAX, [], false, false, 0x0, 0x0, 0x0, .const 0x0⟩,
  ⟨"PWR_DROOP_CNT", .power, Reg.PWR_DROOP_CNT, [], true, false, 0x0, 0x0, 0x0, .const 0x0⟩,
  ⟨"PWR_THROTTLE_TIME", .power, Reg.PWR_THROTTLE_TIME, [], true, false, 0x0, 0x0, 0x0, .const 0x0⟩,
  ⟨"PWR_EVENTS", .power, Reg.PWR_EVENTS, [], false, false, 0x0, 0x3, 0x0, .const 0x0⟩]

/-- Rows of Table 15.5 (R443). -/
def regRows_15_5 : List RegRow := [
  ⟨"PWR_CAP", .power, Reg.PWR_CAP, [], false, true, 0x1fff, 0x0, 0x0, .const 0x1518⟩,
  ⟨"PWR_CAP_STATUS", .power, Reg.PWR_CAP_STATUS, [], false, true, 0x0, 0x6, 0x0, .const 0x0⟩,
  ⟨"PWR_INPUT", .power, Reg.PWR_INPUT, [], false, true, 0x0, 0x0, 0x0, .const 0x0⟩,
  ⟨"PWR_INPUT_VOLT", .power, Reg.PWR_INPUT_VOLT, [], false, true, 0x0, 0x0, 0x0, .const 0x0⟩,
  ⟨"PWR_ENERGY_UJ", .power, Reg.PWR_ENERGY_UJ, [], true, true, 0x0, 0x0, 0x0, .const 0x0⟩,
  ⟨"PWR_COOLANT", .power, Reg.PWR_COOLANT, [], false, true, 0x0, 0x0, 0x0, .const 0x0⟩,
  ⟨"PWR_HINT", .power, Reg.PWR_HINT, [(0x8, 32)], false, true, 0x0, 0x0, 0x0, .const 0x3⟩,
  ⟨"PWR_HINT_E", .power, Reg.PWR_HINT_E, [(0x8, 32)], false, true, 0x0, 0x0, 0x0, .const 0x0⟩]

/-- Rows of Table 16.9 (R464). -/
def regRows_16_9 : List RegRow := [
  ⟨"CLK_STRAP", .clocks, Reg.CLK_STRAP, [], false, false, 0x0, 0x0, 0x0, .const 0x0⟩,
  ⟨"CLK_STATUS", .clocks, Reg.CLK_STATUS, [], false, false, 0x0, 0x300, 0x0, .const 0x1⟩,
  ⟨"CLK_CTRL_SRC", .clocks, Reg.CLK_CTRL_SRC, [], false, false, 0x1, 0x0, 0x0, .const 0x0⟩,
  ⟨"CLK_DOMAIN_STATUS", .clocks, Reg.CLK_DOMAIN_STATUS, [], false, false, 0x0, 0x0, 0x0, .const 0x0⟩,
  ⟨"CLK_EN", .clocks, Reg.CLK_EN, [], false, false, 0x1ff, 0x0, 0x0, .const 0x0⟩,
  ⟨"CLK_EN_MC", .clocks, Reg.CLK_EN_MC, [], true, false, 0x0, 0x0, 0x0, .const 0x0⟩,
  ⟨"CLK_EN_LU", .clocks, Reg.CLK_EN_LU, [], false, false, 0x0, 0x0, 0x0, .const 0x0⟩,
  ⟨"CLK_RIM_TIMER", .clocks, Reg.CLK_RIM_TIMER, [], true, false, 0x0, 0x0, 0x0, .const 0x0⟩,
  ⟨"CLK_LOCK_LOSS_CNT", .clocks, Reg.CLK_LOCK_LOSS_CNT, [], false, false, 0x0, 0x0, 0x0, .const 0x0⟩,
  ⟨"CLK_SNAP_CTRL", .clocks, Reg.CLK_SNAP_CTRL, [], false, true, 0x0, 0x0, 0x0, .const 0x0⟩,
  ⟨"CLK_SNAP_VAL", .clocks, Reg.CLK_SNAP_VAL, [(0x8, 16)], true, true, 0x0, 0x0, 0x0, .const 0x0⟩]

/-- Rows of Table 16.10 (R465). -/
def regRows_16_10 : List RegRow := [
  ⟨"RST_CAUSE", .resets, Reg.RST_CAUSE, [], false, false, 0x0, 0x0, 0x0, .const 0x0⟩,
  ⟨"RST_CMD", .resets, Reg.RST_CMD, [], false, true, 0x0, 0x0, 0x0, .const 0x0⟩,
  ⟨"RST_CORE", .resets, Reg.RST_CORE, [], false, false, 0x0, 0x0, 0x0, .const 0x0⟩,
  ⟨"RST_WARM_CNT", .resets, Reg.RST_WARM_CNT, [], false, false, 0x0, 0x0, 0x0, .const 0x0⟩,
  ⟨"RST_DISCARD_CNT", .resets, Reg.RST_DISCARD_CNT, [], true, false, 0x0, 0x0, 0x0, .const 0x0⟩,
  ⟨"BOOT_STATE", .resets, Reg.BOOT_STATE, [], false, true, 0x0, 0x0, 0x0, .const 0x1⟩,
  ⟨"BOOT_PRE_US", .resets, Reg.BOOT_PRE_US, [], false, true, 0x0, 0x0, 0x0, .const 0x0⟩,
  ⟨"BOOT_STAGE_TIME", .resets, Reg.BOOT_STAGE_TIME, [(0x8, 6)], true, true, 0x0, 0x0, 0x0, .const 0x0⟩,
  ⟨"PD_STATE", .resets, Reg.PD_STATE, [], false, true, 0x0, 0x0, 0x0, .const 0x0⟩]

/-- Rows of Table 17.1 (R466). -/
def regRows_17_1 : List RegRow := [
  ⟨"ID_DIE", .identity, Reg.ID_DIE, [], false, false, 0x0, 0x0, 0x0, .idDie⟩,
  ⟨"ID_LOT", .identity, Reg.ID_LOT, [], false, false, 0x0, 0x0, 0x0, .fuse⟩,
  ⟨"ID_WAFER", .identity, Reg.ID_WAFER, [], false, false, 0x0, 0x0, 0x0, .fuse⟩,
  ⟨"ID_MEM_LOT", .identity, Reg.ID_MEM_LOT, [(0x10, 48)], false, false, 0x0, 0x0, 0x0, .const 0x0⟩,
  ⟨"ID_MEM_POS", .identity, Reg.ID_MEM_POS, [(0x10, 48)], false, false, 0x0, 0x0, 0x0, .const 0x0⟩,
  ⟨"ID_MEM_INFO", .identity, Reg.ID_MEM_INFO, [(0x10, 48)], false, false, 0x0, 0x0, 0x0, .const 0x0⟩,
  ⟨"ID_MEM_RES", .identity, Reg.ID_MEM_RES, [(0x10, 48)], false, false, 0x0, 0x0, 0x0, .const 0x0⟩]

/-- Rows of Table 17.12 (R494). -/
def regRows_17_12 : List RegRow := [
  ⟨"SEC_STATUS", .security, Reg.SEC_STATUS, [], false, true, 0x0, 0x0, 0x0, .const 0x0⟩,
  ⟨"SEC_SEAL", .security, Reg.SEC_SEAL, [], false, true, 0x0, 0x0, 0x0, .const 0x0⟩,
  ⟨"SEC_MODULE_ID", .security, Reg.SEC_MODULE_ID, [], true, true, 0x0, 0x0, 0x0, .const 0x0⟩,
  ⟨"SEC_FW_RUN", .security, Reg.SEC_FW_RUN, [], true, true, 0x0, 0x0, 0x0, .const 0x0⟩,
  ⟨"SEC_FW_PENDING", .security, Reg.SEC_FW_PENDING, [], true, true, 0x0, 0x0, 0x0, .const 0x0⟩,
  ⟨"SEC_SVN_MIN", .security, Reg.SEC_SVN_MIN, [], false, true, 0x0, 0x0, 0x0, .const 0x0⟩,
  ⟨"SEC_ID_PUB", .security, Reg.SEC_ID_PUB, [(0x4, 8)], false, true, 0x0, 0x0, 0x0, .const 0x0⟩,
  ⟨"SEC_KX_PUB", .security, Reg.SEC_KX_PUB, [(0x4, 8)], false, true, 0x0, 0x0, 0x0, .const 0x0⟩,
  ⟨"SEC_MEAS_EXTEND", .security, Reg.SEC_MEAS_EXTEND, [], false, true, 0x0, 0x0, 0x0, .const 0x0⟩,
  ⟨"SEC_MEAS_DATA", .security, Reg.SEC_MEAS_DATA, [(0x4, 16)], false, true, 0xffffffff, 0x0, 0x0, .const 0x0⟩,
  ⟨"SEC_MEAS", .security, Reg.SEC_MEAS, [(0x40, 8), (0x4, 16)], false, true, 0x0, 0x0, 0x0, .const 0x0⟩,
  ⟨"SEC_GCM_FAIL_CNT", .security, Reg.SEC_GCM_FAIL_CNT, [], true, true, 0x0, 0x0, 0x0, .const 0x0⟩,
  ⟨"SEC_EPOCH_DISCARD_CNT", .security, Reg.SEC_EPOCH_DISCARD_CNT, [], true, true, 0x0, 0x0, 0x0, .const 0x0⟩,
  ⟨"SEC_RX_NOMATCH_CNT", .security, Reg.SEC_RX_NOMATCH_CNT, [], true, true, 0x0, 0x0, 0x0, .const 0x0⟩,
  ⟨"SEC_SLATE_REJECT_CNT", .security, Reg.SEC_SLATE_REJECT_CNT, [], true, true, 0x0, 0x0, 0x0, .const 0x0⟩,
  ⟨"SEC_KSLOT", .security, Reg.SEC_KSLOT, [(0x10, 32)], false, true, 0x0, 0x0, 0x0, .const 0x0⟩,
  ⟨"SEC_KSLOT_4", .security, Reg.SEC_KSLOT_4, [(0x10, 32)], false, true, 0xffff, 0x0, 0x0, .const 0x0⟩,
  ⟨"SEC_KSLOT_8", .security, Reg.SEC_KSLOT_8, [(0x10, 32)], true, true, 0x0, 0x0, 0x0, .const 0x0⟩,
  ⟨"SEC_RX", .security, Reg.SEC_RX, [(0x8, 64)], false, true, 0x7ff, 0x0, 0x0, .const 0x0⟩,
  ⟨"SEC_RX_4", .security, Reg.SEC_RX_4, [(0x8, 64)], false, true, 0xffff, 0x0, 0x0, .const 0x0⟩,
  ⟨"SEC_PMEAS", .security, Reg.SEC_PMEAS, [(0x40, 32), (0x4, 16)], false, true, 0x0, 0x0, 0x0, .const 0x0⟩]

/-- Rows of Table 18.5 (R510). -/
def regRows_18_5 : List RegRow := [
  ⟨"DM_FLT_WRITTEN", .mailbox, Reg.DM_FLT_WRITTEN, [], false, false, 0x0, 0x0, 0x0, .const 0x0⟩,
  ⟨"DM_FLT_CONSUMED", .mailbox, Reg.DM_FLT_CONSUMED, [], false, false, 0xffffffff, 0x0, 0x0, .const 0x0⟩,
  ⟨"DM_FLT_STATUS", .mailbox, Reg.DM_FLT_STATUS, [], false, false, 0x0, 0x0, 0x0, .const 0x0⟩,
  ⟨"DM_PENDING", .mailbox, Reg.DM_PENDING, [], false, true, 0x0, 0x0, 0x0, .const 0x0⟩,
  ⟨"DM_IRQ_ADDR", .mailbox, Reg.DM_IRQ_ADDR, [], true, true, 0xffffffffffffffff, 0x0, 0x0, .const 0x0⟩,
  ⟨"DM_IRQ_DATA", .mailbox, Reg.DM_IRQ_DATA, [], false, true, 0xffffffff, 0x0, 0x0, .const 0x0⟩,
  ⟨"DM_FLT_ENTRY", .mailbox, Reg.DM_FLT_ENTRY, [(0x20, 256), (0x4, 8)], false, false, 0x0, 0x0, 0x0, .const 0x0⟩]

/-- Rows of Table 18.6 (R510). -/
def regRows_18_6 : List RegRow := [
  ⟨"DBG_CORE", .debug, Reg.DBG_CORE, [], false, false, 0x7fff, 0x0, 0x0, .const 0x0⟩,
  ⟨"DBG_CMD", .debug, Reg.DBG_CMD, [], false, false, 0x0, 0x0, 0x0, .const 0x0⟩,
  ⟨"DBG_SEL", .debug, Reg.DBG_SEL, [], false, false, 0x1ff, 0x0, 0x0, .const 0x0⟩,
  ⟨"DBG_GROUP_STATE", .debug, Reg.DBG_GROUP_STATE, [], false, false, 0x0, 0x0, 0x0, .const 0x0⟩,
  ⟨"DBG_HALT_INFO", .debug, Reg.DBG_HALT_INFO, [], false, false, 0x0, 0x0, 0x0, .const 0x0⟩,
  ⟨"DBG_BRK_CODE", .debug, Reg.DBG_BRK_CODE, [], false, false, 0x0, 0x0, 0x0, .const 0x0⟩,
  ⟨"DBG_STEP", .debug, Reg.DBG_STEP, [], true, false, 0x0, 0x0, 0x0, .const 0x0⟩,
  ⟨"DBG_BIST", .debug, Reg.DBG_BIST, [], false, false, 0x3f, 0x0, 0x0, .const 0x0⟩,
  ⟨"DBG_BIST_RESULT", .debug, Reg.DBG_BIST_RESULT, [], true, false, 0x0, 0x0, 0x0, .const 0x0⟩,
  ⟨"DBG_SLICE_TEST", .debug, Reg.DBG_SLICE_TEST, [], false, false, 0x3f, 0x0, 0x0, .const 0x0⟩,
  ⟨"DBG_CNT_CFG", .debug, Reg.DBG_CNT_CFG, [(0x10, 16)], false, false, 0x1fffffff, 0x0, 0x0, .const 0x0⟩,
  ⟨"DBG_CNT_VAL", .debug, Reg.DBG_CNT_VAL, [(0x10, 16)], true, false, 0x0, 0x0, 0x0, .const 0x0⟩,
  ⟨"DBG_PF_DROP_CNT", .debug, Reg.DBG_PF_DROP_CNT, [], true, false, 0x0, 0x0, 0x0, .const 0x0⟩,
  ⟨"DBG_LA_CORR_CNT", .debug, Reg.DBG_LA_CORR_CNT, [], true, false, 0x0, 0x0, 0x0, .const 0x0⟩,
  ⟨"DBG_LA_UNCORR_CNT", .debug, Reg.DBG_LA_UNCORR_CNT, [], true, false, 0x0, 0x0, 0x0, .const 0x0⟩,
  ⟨"DBG_DATA", .debug, Reg.DBG_DATA, [(0x4, 256)], false, false, 0xffffffff, 0x0, 0x0, .const 0x0⟩,
  ⟨"DBG_ATTACH", .debug, Reg.DBG_ATTACH, [(0x8, 32)], false, true, 0x7f, 0x0, 0x0, .const 0x0⟩]

/-- The whole register map. -/
def regTable : List RegRow :=
  regRows_3_6 ++ regRows_3_7 ++ regRows_9_8 ++ regRows_10_8_0 ++ regRows_10_8_1 ++ regRows_11_9_0 ++ regRows_11_9_1 ++ regRows_11_10 ++ regRows_12_10 ++ regRows_12_11_0 ++ regRows_12_11_1 ++ regRows_13_6 ++ regRows_13_7 ++ regRows_13_8 ++ regRows_14_11 ++ regRows_14_12 ++ regRows_14_13 ++ regRows_15_4 ++ regRows_15_5 ++ regRows_16_9 ++ regRows_16_10 ++ regRows_17_1 ++ regRows_17_12 ++ regRows_18_5 ++ regRows_18_6

/-- A register word found at an offset: its row, its indices (outermost first), and whether it is the high half. -/
structure RegHit where
  row : RegRow
  ix : List Nat
  high : Bool
deriving DecidableEq, Repr

/-- The indices that strides and counts give an offset, and what is left of it. -/
def matchDims : List (Nat × Nat) → Nat → Option (List Nat × Nat)
  | [], x => some ([], x)
  | (s, c) :: ds, x =>
    if x / s < c then (matchDims ds (x % s)).map fun r => (x / s :: r.1, r.2) else none

/-- The hit of one row at an offset. -/
def RegRow.hit (r : RegRow) (off : Nat) : Option RegHit :=
  if off < r.addr then none else
  match matchDims r.dims (off - r.addr) with
  | some (ix, 0) => some ⟨r, ix, false⟩
  | some (ix, 4) => if r.wide then some ⟨r, ix, true⟩ else none
  | _ => none

/-- A port with no die on its far side (R20). -/
def outward (die port : Nat) : Bool :=
  (port == 0 && die / 4 == 0) || (port == 1 && die % 4 == 3) || (port == 2 && die / 4 == 3) || (port == 3 && die % 4 == 0)

/-- The link unit is the host unit (R323). -/
def isHostUnit (die port unit : Nat) : Bool := die == 0 && port == 3 && unit == 0

/-- Whether a row's instance exists on a die: die-0-only registers (R385, R422, R443, R464, R465, R494, R510), the
units of internal ports and the host unit (R358, R386). -/
def RegHit.onDie (h : RegHit) (die : Nat) : Bool :=
  (!h.row.die0 || die == 0) &&
  (match h.row.blk, h.ix with
   | .edgePort, p :: u :: _ =>
     decide (h.row.addr < Reg.LU_STATE) ||
       (if outward die p then !isHostUnit die p u else u == 0 && decide (h.row.addr < Reg.LU_NEIGH_MODULE))
   | _, _ => true)

/-- The register at an offset of a die's control space: the first row that the offset hits and that stands on the die. -/
def findReg (die : Nat) : List RegRow → Nat → Option RegHit
  | [], _ => none
  | r :: rs, off => match r.hit off with
    | some h => if h.onDie die then some h else findReg die rs off
    | none => findReg die rs off

/-- The word a register holds after a power-on reset (R13). -/
def RegHit.reset (h : RegHit) (die : Nat) : W32 :=
  let i := h.ix.headD 0
  match h.row.rst with
  | .const v => BitVec.ofNat 32 (if h.high then v >>> 32 else v)
  | .idx => BitVec.ofNat 32 (i + die * 64)
  | .die => BitVec.ofNat 32 die
  | .eccCol => (Config.eccCol (h.ix.getLastD 0)).setWidth 32
  | .role => if outward die i then 0 else 0x1555
  | .port => BitVec.ofNat 32 (i + die * 4 + (if outward die i then 64 else 0))
  | .ldi =>
    if outward die i then 0
    else (Config.ldiCaps die i).setWidth 32 ||| (if Config.ldiMinor2 die i then 0x200 else 0x100)
  | .queue => BitVec.ofNat 32 (4 + (i / 64) * 64)
  | .idDie => BitVec.ofNat 32 die ||| (if Config.steppingB0 die then 0x10 else 0) ||| (Config.idFuse die Reg.ID_DIE &&& 0xF00)
  | .fuse => Config.idFuse die h.row.addr &&& (if h.row.addr == Reg.ID_WAFER then 0xFFFF1F else 0xFFFFFFFF)

/-- The bytes of one die's control space. -/
def dieSpan : Nat := 0x4000000

/-- What a word of control space holds after a power-on reset; `a` counts bytes from the base of die 0. -/
def resetWord (a : Nat) : W32 :=
  match findReg (a / dieSpan) regTable (a % dieSpan) with
  | some h => h.reset (a / dieSpan)
  | none => 0

end Sys2Proof.Machine
end

