-- ==== Sys2Proof/Machine/Tab.lean ====
section
/-! DEFINITION. Sparse tables by number, in rising key order, and bytes of a canonical sparse memory. A key that a
table does not list reads as the reader's default. -/
namespace Sys2Proof.Machine

/-- A sparse table: pairs of key and value, keys strictly rising. -/
abbrev Tab (α : Type) := List (Nat × α)

/-- The value at a key, or none. -/
def Tab.get? {α : Type} : Tab α → Nat → Option α
  | [], _ => none
  | (k, v) :: t, i => if k = i then some v else Tab.get? t i

/-- The value at a key, or the default. -/
def Tab.get {α : Type} (t : Tab α) (i : Nat) (d : α) : α := (Tab.get? t i).getD d

/-- The table with one key set. -/
def Tab.put {α : Type} : Tab α → Nat → α → Tab α
  | [], i, x => [(i, x)]
  | (k, v) :: t, i, x =>
    if i < k then (i, x) :: (k, v) :: t
    else if i = k then (i, x) :: t
    else (k, v) :: Tab.put t i x

/-- The table without a key. -/
def Tab.del {α : Type} : Tab α → Nat → Tab α
  | [], _ => []
  | (k, v) :: t, i => if k = i then Tab.del t i else (k, v) :: Tab.del t i

/-- The table with the value at a key changed, where the key is listed. -/
def Tab.upd {α : Type} : Tab α → Nat → (α → α) → Tab α
  | [], _, _ => []
  | (k, v) :: t, i, f => if k = i then (k, f v) :: t else (k, v) :: Tab.upd t i f

/-- The table with every value changed. -/
def Tab.mapV {α : Type} (t : Tab α) (f : α → α) : Tab α := t.map fun x => (x.1, f x.2)

/-- What a byte that memory does not list reads as: the manual states no content after power-on before the zero-fill
of training (R294), which leaves zeros (DESIGN CHOICE, log 2). -/
def blankByte : Byte := 0

/-- The byte at an address. -/
def Cells.read : List Host.Cell → Nat → Byte
  | [], _ => blankByte
  | (k, v) :: t, i => if k = i then v else Cells.read t i

/-- The byte at an address set; writing the blank byte removes the entry. -/
def Cells.write : List Host.Cell → Nat → Byte → List Host.Cell
  | [], i, x => if x = blankByte then [] else [(i, x)]
  | (k, v) :: t, i, x =>
    if i < k then (if x = blankByte then (k, v) :: t else (i, x) :: (k, v) :: t)
    else if i = k then (if x = blankByte then t else (i, x) :: t)
    else (k, v) :: Cells.write t i x

/-- The canonical form from a lower bound: rising addresses, no entry equal to the blank byte. -/
def Cells.wfFrom : Nat → List Host.Cell → Bool
  | _, [] => true
  | lo, (k, v) :: t => decide (lo ≤ k) && decide (v ≠ blankByte) && Cells.wfFrom (k + 1) t

/-- The canonical form of a memory. -/
def Memory.wf (m : List Host.Cell) : Bool := Cells.wfFrom 0 m

/-- `n` bytes from an address, as a little-endian number (R7). -/
def Cells.readN (c : List Host.Cell) (a : Nat) : Nat → Nat
  | 0 => 0
  | n + 1 => (Cells.read c a).toNat + 256 * Cells.readN c (a + 1) n

/-- The bytes of a list written upward from an address. -/
def Cells.writeL : List Host.Cell → Nat → List Byte → List Host.Cell
  | c, _, [] => c
  | c, a, b :: bs => Cells.writeL (Cells.write c a b) (a + 1) bs

/-- The low `n` bytes of a number, lowest first. -/
def bytesOf (x : Nat) : Nat → List Byte
  | 0 => []
  | n + 1 => BitVec.ofNat 8 x :: bytesOf (x / 256) n

/-- The number that bytes spell, lowest first. -/
def ofBytes : List Byte → Nat
  | [] => 0
  | b :: bs => b.toNat + 256 * ofBytes bs

/-- Byte k of a line image. -/
def lbyte (l : LineImg) (k : Nat) : Byte := (l >>> (8 * k)).setWidth 8
/-- Bytes of a line image as a number of `n` bytes from offset `o`. -/
def lnum (l : LineImg) (o n : Nat) : Nat := (l >>> (8 * o)).toNat % 2 ^ (8 * n)
/-- A line image with `n` bytes at offset `o` replaced. -/
def lput (l : LineImg) (o n : Nat) (x : Nat) : LineImg :=
  (l &&& ~~~(BitVec.ofNat 1024 ((2 ^ (8 * n) - 1) * 2 ^ (8 * o)))) ||| BitVec.ofNat 1024 ((x % 2 ^ (8 * n)) * 2 ^ (8 * o))
/-- A byte mask widened to bits. -/
def maskBits (m : LineMask) : LineImg :=
  (List.range 128).foldl (fun a k => if m.getLsbD k then a ||| (0xFF#1024 <<< (8 * k)) else a) 0
/-- The image with the bytes of a mask taken from another. -/
def lmerge (m : LineMask) (old new : LineImg) : LineImg := (old &&& ~~~maskBits m) ||| (new &&& maskBits m)
/-- The mask of `n` bytes from offset `o`. -/
def maskRange (o n : Nat) : LineMask := BitVec.ofNat 128 ((2 ^ n - 1) * 2 ^ o)

end Sys2Proof.Machine
end

