-- ==== Sys2Proof/Machine/State.lean ====
section
/-! DEFINITION. The state of one LN-TW16 module, as plain data, and its value right after a power-on reset. -/
namespace Sys2Proof.Machine

/-! ### Cores, groups and launches -/

/-- Where a byte of a pending load comes from: known, or byte `off` of the answer of request `rid`. -/
inductive BSrc where
  | val (b : Byte)
  | at (rid off : Nat)
deriving DecidableEq, Repr

/-- One lane of a pending load: its number, its address and its bytes, lowest first. -/
structure LaneLoad where
  lane : Nat
  va : W64
  bytes : List BSrc
deriving DecidableEq, Repr

/-- A load, ATOM, LDR or STC of a group whose result has not been written, in program order: its destination file and
register, the width code of Table 7.4, the address of its instruction, the requests it waits for, and the statuses that
lanes have met so far (R169), each with whether it is that of a squash (R225). -/
structure LoadRec where
  vector : Bool
  dst : Nat
  width : Nat
  pc : W64
  lead : W64 := 0
  lanes : List LaneLoad
  rids : List Nat
  errs : List (Nat × Status × Bool) := []
deriving DecidableEq, Repr

/-- An entry of a group's outgoing order: a buffered or issued request, or a REL marker (R215). -/
inductive OutItem where
  | req (rid : Nat)
  | rel (scope : Nat)
deriving DecidableEq, Repr

/-- What a thread group is doing. `parked` is a group whose block-cluster is being saved or is suspended (R408). -/
inductive GStat where
  | ready
  | waitBlock | waitCluster
  | waitFence (complete : Bool) (scope : Nat) (tick : Nat)
  | acquireWait (scope : Nat)
  | waitTm (dst ticket : Nat)
  | waitSubmit (dst : Nat) (desc : List Byte)
  | exited
  | haltFault
  | haltDebug
  | parked
deriving DecidableEq, Repr

/-- The reservation of a group: line, byte address and width in bytes (R187). -/
structure Resv where
  addr : Nat
  bytes : Nat
deriving DecidableEq, Repr

/-- One thread group (Table 4.1, R63): its registers, its pc, the address that led to it (R110), the counts of its
barriers (R68), its outgoing order, its pending loads, its held status (R192), and its mover tickets (R198). `order` counts
the REL, FENCE and barrier instructions it has executed, and `heldOrd` is that count at the request that failed first in
program order (R225). -/
structure Group where
  stat : GStat := .ready
  back : GStat := .ready
  pc : W64 := 0
  lead : W64 := 0
  s : Tab W64 := []
  v : Tab Vec := []
  p : Tab W32 := []
  nBlock : Nat := 0
  nCluster : Nat := 0
  outs : List OutItem := []
  full : List Nat := []
  loads : List LoadRec := []
  held : Option Status := none
  order : Nat := 0
  heldOrd : Nat := 0
  resv : Option Resv := none
  tickets : List Nat := []
  ir : Option W64 := none
  fline : Option (Nat × LineImg) := none
  fetchRid : Option Nat := none
  stepping : Bool := false
  reason : Nat := 0
  cause : Nat := 0
  brk : W32 := 0
deriving DecidableEq, Repr

/-- A line of a core's L1: its bytes, its place in the order of use (R229), and its 8-byte words that hold a single-bit or
an uncorrectable error (R232). -/
structure L1Line where
  img : LineImg
  stamp : Nat
  soft : BitVec 16 := 0
  bad : BitVec 16 := 0
deriving DecidableEq, Repr

/-- A matrix result in flight: the tile, the value it will hold (R152, R153), and the busy count of the MMA that made it, 0 for
a tile transfer (R425). -/
structure InFlight where
  tile : Nat
  val : Tile
  busy : Nat := 0
deriving DecidableEq, Repr

/-- One core: the launch and block it holds, the group that issued last (R64), its step counter (R38), its generator
(R129), its scratchpad with the words that hold a single-bit or an uncorrectable error (R232), L1, tiles, matrix work in
flight, the engine steps for which the limiter still holds matrix instructions (R425), and the start of its pending block
barrier (R73). -/
structure Core where
  launch : Option Nat := none
  lastLaunch : Option Nat := none
  bc : Nat := 0
  rank : Nat := 0
  last : Nat := 7
  steps : W64 := 0
  rng : W64 := 0
  share : Nat := 0
  spad : List Host.Cell := []
  spadSoft : List Nat := []
  spadBad : List Nat := []
  l1 : Tab L1Line := []
  stamp : Nat := 0
  tiles : Tab Tile := []
  flight : List InFlight := []
  hold : Nat := 0
  barStart : Option Nat := none
  barKept : Nat := 0
  reset : Bool := false
deriving DecidableEq, Repr

/-- A block-cluster resident in a slot of a cluster: its index in grid order, and its pending cluster barrier. -/
structure Resident where
  index : Nat
  barStart : Option Nat := none
  barKept : Nat := 0
deriving DecidableEq, Repr

/-- A translation held by a cluster's translation unit (R395): frame, page bytes and permissions. -/
structure TlbEnt where
  frame : Nat
  bytes : Nat
  perm : Nat
deriving DecidableEq, Repr

/-- A page-table walk under way (R395): its partition, its virtual address, the level and the table that its outstanding
read `rid` looks in; `old` when its partition's translations were invalidated after it began (R397). -/
structure Walk where
  part : Nat
  va : Nat
  lvl : Nat
  table : Nat
  rid : Nat
  old : Bool := false
deriving DecidableEq, Repr

/-- How a walk stands (R396): under way; ended at a leaf, with its frame, page bytes and permissions; or failed, by its tables
or with the status of a read. -/
inductive WalkRes where
  | more (w : Walk)
  | leaf (frame bytes perm : Nat)
  | bad (st : Option Status)
deriving DecidableEq, Repr

/-- A tensor-mover transfer (R194 to R200, R377): its group, or the queue and count of a copy descriptor; its ticket, its
descriptor bytes, its partition and block-cluster, the chunks done, the place reached, its status once it has ended, the
status with which it must stop at its next chunk boundary, the status of poison met, and of the chunk under way the reads awaited, the bytes read, those that are poisoned, and the write
awaited. -/
structure Transfer where
  slot : Nat
  group : Nat
  ticket : Nat
  desc : List Byte
  part : Nat
  bc : Nat := 0
  queue : Option (Nat × Nat) := none
  done : Nat := 0
  row : Nat := 0
  off : Nat := 0
  status : Option Status := none
  stop : Option Status := none
  sticky : Option Status := none
  pend : List Nat := []
  bytes : List BSrc := []
  bad : List Nat := []
  wpend : Option Nat := none
deriving DecidableEq, Repr

/-- One cluster: its launch, its residents by slot, its mover queue, its translations, its walks under way by the unit that
asked, and for each such unit the pages whose walks failed. `idle` is when it became idle (R439). -/
structure ClusterSt where
  launch : Option Nat := none
  slots : Tab Resident := []
  mover : List Transfer := []
  turn : Nat := 0
  ticket : Nat := 0
  tlb : Tab TlbEnt := []
  walks : Tab Walk := []
  failed : Tab (List (Nat × Option Status)) := []
  idle : Nat := 0
deriving DecidableEq, Repr

/-- Where a launch stands (R399, R408 to R412). -/
inductive LStat where
  | running | saving | suspended | restoring | done
deriving DecidableEq, Repr

/-- A cluster's part of a saved launch (R409): its residents by slot, the block-clusters that it has ended, its cores, groups
and transfers. -/
structure SavedCl where
  cluster : Nat
  slots : Tab Resident
  bcDone : Nat
  cores : Tab Core
  groups : Tab Group
  mover : List Transfer
deriving DecidableEq, Repr

/-- A launch that has begun: its queue, count, descriptor and clusters, the next block-cluster to dispatch and how many
have ended, its faults (R81) and what ended it, its place in the order of beginning or waiting, the die that its
clusters are chosen near (R399), the steps of its cores, its
pre-emptions, whether the driver asked for the latest and has resumed it, whether a debugger is attached, and the state saved
of it (R409). -/
structure Launch where
  queue : Nat
  seq : Nat
  desc : List Byte
  stat : LStat := .running
  clusters : List Nat := []
  next : Nat := 0
  ended : Nat := 0
  faults : List Status := []
  halted : Bool := false
  aborted : Option Status := none
  began : Nat := 0
  anchor : Option Nat := none
  steps : Nat := 0
  preempts : Nat := 0
  byDriver : Bool := false
  resumed : Bool := false
  attached : Bool := false
  slowed : Bool := false
  saved : List SavedCl := []
deriving DecidableEq, Repr

/-! ### Memory requests, slices and coherence -/

/-- What a memory request asks for: `walk` is a page-table walk read (R395), `log` sets a bit of a page-log bitmap (R419). -/
inductive RKind where
  | load | fetch | pfL1 | pfSlice | store | red | atom | ldr | stc | walk | log
deriving DecidableEq, Repr

/-- The answer of a request: status, line image with its poisoned words, and atomic results; `squash` when the request was
never sent (R225). -/
structure Answer where
  status : Status
  img : LineImg := 0
  psn : BitVec 16 := 0
  res : List W64 := []
  squash : Bool := false
deriving DecidableEq, Repr

/-- The answer that a write gives once its page is logged (R419): none, a request's, or the companion's. -/
inductive After where
  | nothing
  | req (rid : Nat) (a : Answer)
  | companion (line : Nat)
deriving DecidableEq, Repr

/-- Whose walk a walk read serves: a unit of a cluster, an access of the queue engine, or a queue's range operation. -/
inductive WalkFor where
  | cluster (cl who : Nat)
  | queue (q key : Nat)
  | range (q : Nat)
deriving DecidableEq, Repr

/-- Who made a request: a group, a cluster's mover, a page-table walk, the queue engine for a queue, a page's logging, an
interrupt or notice written to the companion (from a die manager when `dm`), or a message of a fabric port. -/
inductive RSrc where
  | group (slot group : Nat)
  | mover (cl : Nat) (slot group ticket : Nat)
  | walk (w : WalkFor)
  | queue (q key : Nat)
  | log (then_ : After)
  | notice (dm : Bool) (src : Nat)
  | fabric (port : Nat) (msg : TMsg)
deriving DecidableEq, Repr

/-- Where a request goes (R206): its home slice, a local array, another device, or the companion window. -/
inductive Target where
  | home (line : Nat)
  | spad (slot : Nat) (off : Nat)
  | remote (dev : Nat) (line : Nat)
  | companion (addr : Nat)
deriving DecidableEq, Repr

/-- One element of an ATOM or RED request: lane, byte offset in the line and operands. -/
structure Elt where
  lane : Nat
  off : Nat
  op0 : W64
  op1 : W64
deriving DecidableEq, Repr

/-- One memory request and where it has got to. `inv` marks a fill whose line was invalidated after it was asked for
(R209); `atHome` one that its home holds, and `joined` one that waits for its die's tint controller; `ord` is its group's order count when it was made (R225), and `psnW` the words a mover's write marks as
poisoned (R200); `wtick` is when it began to wait at a port (R347); `saved` is the launch
whose saved state it belongs to (R411). -/
structure Req where
  kind : RKind
  src : RSrc
  die : Nat
  part : Nat
  tgt : Target
  space : Nat := 0
  rank : Nat := 0
  line : Nat := 0
  mask : LineMask := 0
  img : LineImg := 0
  elts : List Elt := []
  func : Nat := 0
  ty : Nat := 0
  urg : Bool := false
  strm : Bool := false
  sent : Bool := false
  atHome : Bool := false
  joined : Bool := false
  inv : Bool := false
  ans : Option Answer := none
  tick : Nat := 0
  entry : Option (Nat × Nat) := none
  critical : Bool := false
  ord : Nat := 0
  psnW : BitVec 16 := 0
  wtick : Nat := 0
  saved : Option Nat := none
deriving DecidableEq, Repr

/-- A request that a home has accepted or holds (R275 to R277): one of the array, a fabric port or an engine; a die's RdS, for
a latency-critical read when `crit`; one of the companion; or a line action of the range operation of a queue's job. -/
inductive HReq where
  | req (rid : Nat)
  | rds (die : Nat) (crit : Bool)
  | cmpRds | cmpOwn | cmpUpg
  | cmpRead (addr bytes : Nat)
  | cmpWrite (mask : LineMask) (img : LineImg)
  | range (q seq va : Nat)
deriving DecidableEq, Repr

/-- Line states of a home way (Table 9.1); Merging is Combining with its base read pending. -/
inductive LState where
  | filling | clean | dirty | combining
deriving DecidableEq, Repr

/-- Directory states of a stable line (Table 10.5). -/
inductive DState where
  | h | s | x | o
deriving DecidableEq, Repr

/-- The action a transient state completes (the brackets of Table 10.5): a request, a grant, the freeing of a way for
another line or for none, or nothing when the request that began it has ended another way (R286). -/
inductive Act where
  | serve (r : HReq)
  | grantE
  | dataE
  | victimFor (line : Nat)
  | drop
  | idle
deriving DecidableEq, Repr

/-- Why a line is transient (Table 10.6): memory read out; FwdRd out to a die; or answers due to probes of a code, each with
the tick it was sent at, `bad` when one had no answer (R284). `wR` is an Invalid line whose request waits for a home way, with
a victim chosen for it or none yet. -/
inductive Pend where
  | wM (act : Act)
  | wF (die : Nat) (tick : Nat) (dst : Nat)
  | wA (code : Nat) (due : List (Nat × Nat)) (act : Act) (bad : Bool)
  | wR (r : HReq) (victim : Bool)
deriving DecidableEq, Repr

/-- The recorded operation of a word of a Combining line (R250). -/
structure CombRec where
  func : Nat
  ty : Nat
deriving DecidableEq, Repr

/-- A note of Amber mode (R279): the port and the request it refused; `credited` once its Credit was sent. -/
structure Note where
  port : Nat
  req : HReq
  credited : Bool
deriving DecidableEq, Repr

/-- A line in a home way with its directory entry (R236, R266): its way (none for a read that keeps no way, or a line that
waits for one), its value and poisoned words, the words found uncorrectable by the read that fills it, those of its way that
hold a correctable or an uncorrectable error (R241), its pin, its replicas, and the requests that wait. -/
structure HomeLine where
  st : LState := .clean
  way : Option Nat := none
  img : LineImg := 0
  psn : BitVec 16 := 0
  unc : BitVec 16 := 0
  soft : BitVec 16 := 0
  bad : BitVec 16 := 0
  comb : Tab CombRec := []
  pin : Option Nat := none
  dir : DState := .h
  sharers : BitVec 17 := 0
  f : Option Nat := none
  pend : Option Pend := none
  waiting : List HReq := []
  stamp : Nat := 0
deriving DecidableEq, Repr

/-- States of a tint way (Table 10.3); state I is an unlisted line. -/
inductive TState where
  | isD | isDI | isR | s | f | fiA | iiA
deriving DecidableEq, Repr

/-- A line at a die's tint controller: its state, way, data and poisoned words, the words that hold a correctable or an
uncorrectable error (R241), whether its RdS is latency-critical, the reads waiting on it, and a held FwdRd. -/
structure TintLine where
  st : TState
  way : Nat := 0
  img : LineImg := 0
  psn : BitVec 16 := 0
  soft : BitVec 16 := 0
  bad : BitVec 16 := 0
  crit : Bool := false
  waiting : List Nat := []
  heldFwd : Option Nat := none
  stamp : Nat := 0
deriving DecidableEq, Repr

/-- One request of a channel's command queue (R240, R293, R312); a read carries the partition it is made for, 32 for none
(R403). -/
inductive ChReq where
  | read (line : Nat) (critical : Bool) (part : Nat)
  | write (line : Nat) (img : LineImg) (psn : BitVec 16)
  | raw (line word : Nat) (write : Bool)
deriving DecidableEq, Repr

/-- The state of a deficit round robin (R403): whose turn it is, and the grants left of it. -/
structure Drr where
  cur : Nat := 0
  credit : Nat := 0
deriving DecidableEq, Repr

/-- A lease of the reserved pair: the holder and when it ends (R189). -/
structure Lease where
  slot : Nat
  group : Nat
  until_ : Nat
deriving DecidableEq, Repr

/-- Per line: the groups with a reservation, the lease, and the groups that wait for one (R187 to R189). -/
structure ResvLine where
  holders : List (Nat × Nat) := []
  lease : Option Lease := none
  list : List (Nat × Nat) := []
deriving DecidableEq, Repr

/-- One cache slice: its Amber notes by line; arrivals that wait behind notes (R282); probes that ended without an answer, by
line and agent (R285); its reservation table; the change of tint ways under way; latency-critical grants in a row (R247); and
whether it has failed and stopped. -/
structure SliceSt where
  notes : List (Nat × Note) := []
  behind : List (Nat × HReq) := []
  late : List (Nat × Nat) := []
  resv : Tab ResvLine := []
  tintNew : Option Nat := none
  critRun : Nat := 0
  stopped : Bool := false
deriving DecidableEq, Repr

/-- One memory channel's work: what its slice holds for the crossing, the crossing towards the channel, its queue, and the
crossing back (Table 2.2, R293); latency-critical grants in a row and the turns of partitions (R247, R403); failed wires and
those in service without margin (R300); training (`measured` once its wires are tested); scrubbing, with the window of its
rate; recalibration, with the spare lent (R298); a raw operation that waits for its line (a write when true); an interconnect
test under way; and `toOff` while it drains before OFFLINE (R319). -/
structure ChanSt where
  held : List ChReq := []
  fifo : List ChReq := []
  q : List ChReq := []
  out : List (Nat × LineImg × BitVec 16 × BitVec 16) := []
  critRun : Nat := 0
  drrO : Drr := {}
  drrC : Drr := {}
  failedWires : List Nat := []
  degraded : List Nat := []
  descBad : Bool := false
  scrub : Option (Nat × Nat) := none
  scrubWin : Nat := 0
  scrubCnt : Nat := 0
  recalWire : Option Nat := none
  lent : Option Nat := none
  recalStop : Bool := false
  lastRecal : Nat := 0
  recalTemp : Nat := 0
  ictSince : Bool := false
  rawWait : Option Bool := none
  testing : Bool := false
  measured : Bool := false
  toOff : Bool := false
deriving DecidableEq, Repr

/-- A coherence message in flight (Table 10.2): its code, its agents, its line, the die a FwdRd names, whether an RdS is for a
latency-critical read, whether a Retry or Credit is of an RdS, and its data. -/
structure CMsg where
  code : Nat
  fromA : Nat
  toA : Nat
  line : Nat
  die : Nat := 0
  crit : Bool := false
  rds : Bool := false
  img : LineImg := 0
  psn : BitVec 16 := 0
deriving DecidableEq, Repr

/-- What the module sends to the outside: messages to the companion; at a fabric port the frame of a transport message with its
sequence number, and what a frame's trailer says of the frames received (Table 12.2): the next one expected, whether a replay is
asked for, and the credits returned for requests and for answers; identity and quiesce frames, answers to the companion's own reads and writes, interrupt and notice writes to the
companion window, and the signed datagrams of Slate replies, and of Slate notices to the fabric manager's address (R489). -/
inductive OutMsg where
  | coherence (m : CMsg)
  | transport (port seq : Nat) (wire : List Byte)
  | trailer (port ack : Nat) (nak : Bool) (credReq credAns : Nat)
  | identity (port : Nat) (x : Ident)
  | quiesce (port : Nat)
  | writeCmp (addr : Nat) (bytes : List Byte)
  | readCmp (addr : Nat) (bytes : Nat)
  | slateReply (datagrams : List (List Byte))
  | slateNotice (datagrams : List (List Byte))
  | present (bytes : List Byte)
  | cmpAnswer (addr : Nat) (status : Status) (img : LineImg)
deriving DecidableEq, Repr

/-! ### Links, queues, partitions and the module -/

/-- An outstanding entry of a fabric port (R343): the request and when its device last answered. -/
structure PortEnt where
  dev : Nat
  part : Nat
  rid : Nat
  start : Nat
deriving DecidableEq, Repr

/-- A message on its way out of a fabric port: the request of this device that it carries, whether this device made it, the die
it comes from, and its bytes (Table 12.4). -/
structure TxMsg where
  msg : TMsg
  rid : Option Nat
  own : Bool
  die : Nat
  wire : List Byte
deriving DecidableEq, Repr

/-- One fabric port: its entries by number, when each device last answered, the requests that wait at it (R343, R339,
R347), the turns of partitions at its pool of entries (R403), whether it goes OFF once quiesced (Table 12.8); what the die network
holds for its crossing, and its crossings out and in (Table 2.2); the frames in its replay buffer, which the partner has not
acknowledged, with the number of the next frame and the replays of the oldest in a row (R331, R350); the partner's credits
for requests and for answers; and the next frame it expects. -/
structure PortSt where
  ents : Tab PortEnt := []
  timers : Tab Nat := []
  waiting : List Nat := []
  drr : Drr := {}
  toOff : Bool := false
  held : List TxMsg := []
  tx : List TxMsg := []
  rx : List TMsg := []
  unacked : List TxMsg := []
  txSeq : Nat := 0
  replays : Nat := 0
  credReq : Nat := 0
  credAns : Nat := 0
  rxSeq : Nat := 0
deriving DecidableEq, Repr

/-- One end of a die link: the next frame it expects, and the times in a row that this frame has failed its CRC (R325, R327). -/
structure DieLinkSt where
  rxSeq : Nat := 0
  fails : Nat := 0
deriving DecidableEq, Repr

/-- A message that waits for an ACTIVE port, in transit (R340) or an answer of this device: the port it waits at, and since when
it waits. -/
structure Transit where
  port : Nat
  tx : TxMsg
  since : Nat
deriving DecidableEq, Repr

/-- A descriptor admitted: its number in the order of all admissions, when, and whether its record carries the fallback
accounting (R378, R405). -/
structure Admit where
  num : Nat
  time : Nat
  fallback : Bool
deriving DecidableEq, Repr

/-- A job of a queue, from its descriptor's beginning to its record (R372, R373, R383): its count, its descriptor, its
admission, the ticks it waited, its status once it has ended, and what its record tells. -/
structure Job where
  seq : Nat
  desc : List Byte
  adm : Admit
  waited : Nat := 0
  status : Status := .ok
  steps : Nat := 0
  preempts : Nat := 0
  waitedRoom : Bool := false
  slowed : Bool := false
deriving DecidableEq, Repr

/-- An access of the queue engine: the walk of its address, or the request it has made. -/
inductive EngAcc where
  | tr (r : WalkRes)
  | ask (rid : Nat)
deriving DecidableEq, Repr

/-- A queue (R368 to R375): its admitted descriptors that have not begun, its jobs that run, in order, those that have
ended and whose records are due, in order of ending; the descriptors still to be aborted, with their status; whether the
next descriptor waited for room; when its ACQUIRE began to wait, or how long it had waited when a freeze paused it; the place of a launch that waits for
clusters in their order (R401); its next descriptor once the engine has read it, with the status of the read; and the
engine's accesses under way. -/
structure QueueSt where
  arrived : List Admit := []
  jobs : List Job := []
  ended : List Job := []
  abort : Option (Nat × Status) := none
  waitedRoom : Bool := false
  semFrom : Option Nat := none
  semKept : Option Nat := none
  waitLaunch : Option Nat := none
  next : Option (Status × List Byte) := none
  eng : Tab EngAcc := []
deriving DecidableEq, Repr

/-- A range operation under way (R255 to R258): its job, operation, the addresses left, its report, the walk of the page it
is in, line actions sent and not yet performed, replicas still to be asked for or to arrive, the lines whose writes its
report waits for, and the status of a line that could not be acted on. -/
structure RangeOp where
  q : Nat
  seq : Nat
  op : Nat
  part : Nat
  cur : Nat
  stop : Nat
  report : Nat
  dies : Nat
  page : Option WalkRes := none
  sent : Nat := 0
  tints : List (Nat × Nat × Bool) := []
  done : Nat := 0
  refQuota : Nat := 0
  refSet : Nat := 0
  skipped : Nat := 0
  first : Nat := 0
  wrote : List Nat := []
  err : Option Status := none
deriving DecidableEq, Repr

/-- A partition's work under way: a reset or removal with its step and start, a freeze, and its hint: when it ends, the
loop periods that have ended since it began, and the input power when it began (R430, R432). -/
structure PartSt where
  resetStep : Nat := 0
  resetFrom : Nat := 0
  freezing : Bool := false
  hintUntil : Option Nat := none
  hintPeriods : Nat := 0
  hintMw : Nat := 0
deriving DecidableEq, Repr

/-- A key slot of the security block (Table 17.5): the memory key, the fabric keys, and each die's message counter
(R480). -/
structure KeySlot where
  memKey : Option (BitVec 512) := none
  cur : Option (BitVec 256) := none
  prev : Option (BitVec 256) := none
  ctr : Tab Nat := []
deriving DecidableEq, Repr

/-- The pieces of a Slate request that has not arrived whole (R489): its credential and number, the indices that have arrived,
and when the first did. -/
structure SlatePart where
  cred : Nat
  seq : W64
  got : List Nat
  since : Nat
deriving DecidableEq, Repr

/-- A gate request that waits for its crossing to drain (R45). -/
structure GateReq where
  die : Nat
  blk : RimBlock
  since : Nat
deriving DecidableEq, Repr

/-- One die: whether it has left reset (`up`) and joined (R460), whether its array's handshakes are halted (R41), until when
its droop clamp holds (R433), a core reset with its start, a cluster under test, a slice under test with
the Amber bit it had before, the Amber bits to restore once its exclusion sweep is over (R286), the group of the latest
HALT or STEP (R497), and where its timer stood at the end of the manager's latest loop period (R436). -/
structure DieSt where
  joined : Bool := false
  halted : Bool := false
  clampUntil : Option Nat := none
  up : Bool := false
  coreReset : Option (Nat × Nat) := none
  bist : Option Nat := none
  sliceTest : Option (Nat × Bool) := none
  sweep : Option W64 := none
  dbgReq : Option (Nat × Nat) := none
  periodAt : Nat := 0
deriving DecidableEq, Repr

/-- The answer of the latest command that answers its requester: a status, and the data of a read. -/
structure Reply where
  status : Status
  data : W64 := 0
deriving DecidableEq, Repr

/-! ### What outlives a warm reset -/

/-- A management credential (R490): its public key and its roles. -/
structure Cred where
  key : BitVec 256 := 0
  roles : BitVec 6 := 0
deriving DecidableEq, Repr

/-- What a warm reset keeps and few commands change: the seal (R12, R477), the window base (R386), the selected firmware
bank, `trial` and the boots that a trial set has begun and not yet ended well (R472, R473), the image sets of flash and the
fused minimum version (R470), the credentials with the highest sequence numbers accepted (R490), the addresses of R489,
the energy counter (R442), and the strap word (R447). -/
structure Kept where
  sealed : Bool := false
  winBase : W64 := 0
  bank : Bool := false
  trial : Bool := false
  trialFails : Nat := 0
  bankA : List Byte := Config.flashBank false
  bankB : List Byte := Config.flashBank true
  svnMin : Nat := Config.svnFuses
  creds : Tab Cred := []
  lastSeq : Tab W64 := []
  moduleAddr : BitVec 128 := 0
  managerAddr : BitVec 128 := 0
  energy : W64 := 0
  strap : Byte := 0
deriving DecidableEq, Repr

/-! ### The machine -/

/-- Everything of the module but the queue of commands and what `Kept` holds. Among it: `off` while PWR_GOOD is low
(R521), `strapDone` once the crystal checks may begin (R460), the bank that runs (R471), `warmDue` while the steward owes a
warm reset (R434), the hold and the counts of periods of the cap loop (R428, R429), where die 0's timer stood at its latest period's end and at the
latest refill of the token buckets (R402), the number of Slate notices sent (R489), when the present stage of start-up or
standby entry began (R461, R458), the number of neighbour reports sent (R491), the pause of the driver's interrupt (R509), and the draws of free values. -/
structure Mach where
  off : Bool := false
  strapDone : Bool := false
  runBank : Bool := false
  warmDue : Bool := false
  regs : Tab W32 := []
  latches : Tab W32 := []
  mem : List Host.Cell := []
  syn : Tab (BitVec 16) := []
  cores : Tab Core := []
  groups : Tab Group := []
  clusters : Tab ClusterSt := []
  launches : Tab Launch := []
  nextLaunch : Nat := 0
  reqs : Tab Req := []
  nextReq : Nat := 0
  slices : Tab SliceSt := []
  lines : Tab HomeLine := []
  tints : Tab TintLine := []
  chans : Tab ChanSt := []
  net : List CMsg := []
  ports : Tab PortSt := []
  dlinks : Tab DieLinkSt := []
  neighGen : Nat := 0
  transit : List Transit := []
  deadNew : List Nat := []
  route : Tab W32 := []
  rerouted : List Nat := []
  stagedDev : Nat := 0
  queues : Tab QueueSt := []
  queueDrr : Drr := {}
  admitted : Nat := 0
  semWait : Tab (List Nat) := []
  ranges : List RangeOp := []
  parts : Tab PartSt := []
  dies : Tab DieSt := []
  gates : List GateReq := []
  keys : Tab KeySlot := []
  slate : List SlatePart := []
  retired : List (Nat × Nat) := []
  meas : Tab (BitVec 512) := []
  staged : List Byte := []
  stageCred : Nat := 0
  irqPause : Option Nat := none
  irqDue : Bool := false
  capHeld : Bool := false
  capAt : Nat := 0
  refillAt : Nat := 0
  noticeSeq : Nat := 0
  capLow : Nat := 0
  capUnder : Nat := 0
  stageFrom : Nat := 0
  standbyFrom : Option Nat := none
  lineStamp : Nat := 0
  fresh : Nat := 0
  reply : Option Reply := none
  outbox : List OutMsg := []
deriving DecidableEq, Repr

/-- The module: the commands that wait, what outlives a warm reset, and everything else. -/
structure State where
  pending : List Instr
  kept : Kept
  m : Mach
deriving DecidableEq, Repr

/-- Why a step stops. No command of this model stops: the manual gives each an effect or none. -/
inductive Fault where
  /-- Raised by nothing; the type must not be empty. Safe. -/
  | unreachable
deriving DecidableEq, Repr

/-- A command the model refuses. -/
inductive Refusal where
  /-- Raised by an arm whose command has no meaning yet; safe. -/
  | notModelled (mnemonic : String)
deriving DecidableEq, Repr

/-- The module right after a power-on reset: every register at the Reset column of its table (R13), stage 1 of
start-up with no die joined (R460), memory and queue empty. -/
def State.reset : State := { pending := [], kept := {}, m := {} }

end Sys2Proof.Machine
end

