-- ==== Sys2Proof/Machine/Ops.lean ====
section
/-! DEFINITION. The named operations that every family shares: control-space words and fields, counters, the parts of
the state by number, fault records (R507 to R509), the failed-degraded state (R328, R329), replies and messages. -/
namespace Sys2Proof.Machine

/-! ### Words and fields of control space -/

/-- Address of an offset of a die's control space, in bytes from the base of die 0 (Table 1.3). -/
def at_ (die off : Nat) : Nat := die * dieSpan + off

/-- Bits [lo + n − 1 : lo] of a word. -/
def bitsOf (x : Nat) (lo n : Nat) : Nat := x / 2 ^ lo % 2 ^ n

/-- The held word at an address. -/
def Mach.rd (m : Mach) (a : Nat) : W32 := m.regs.get a (resetWord a)
/-- The word at an address set. -/
def Mach.wr (m : Mach) (a : Nat) (x : W32) : Mach := { m with regs := m.regs.put a x }
/-- The held 64-bit register at an address (R8). -/
def Mach.rd64 (m : Mach) (a : Nat) : W64 := (m.rd a).setWidth 64 ||| ((m.rd (a + 4)).setWidth 64 <<< 32)
/-- A 64-bit register set. -/
def Mach.wr64 (m : Mach) (a : Nat) (x : W64) : Mach := (m.wr a (x.setWidth 32)).wr (a + 4) ((x >>> 32).setWidth 32)
/-- A field of a word. -/
def Mach.fld (m : Mach) (a lo n : Nat) : Nat := bitsOf (m.rd a).toNat lo n
/-- A word with a field replaced. -/
def putBits (x : W32) (lo n v : Nat) : W32 :=
  (x &&& ~~~(BitVec.ofNat 32 ((2 ^ n - 1) * 2 ^ lo))) ||| BitVec.ofNat 32 (v % 2 ^ n * 2 ^ lo)
/-- A field of a word set. -/
def Mach.setFld (m : Mach) (a lo n v : Nat) : Mach := m.wr a (putBits (m.rd a) lo n v)
/-- A bit of a word. -/
def Mach.bit (m : Mach) (a i : Nat) : Bool := (m.rd a).getLsbD i
/-- A bit of a word set or cleared. -/
def Mach.setBit (m : Mach) (a i : Nat) (b : Bool) : Mach := m.setFld a i 1 (if b then 1 else 0)
/-- A bit of a 64-bit register. -/
def Mach.bit64 (m : Mach) (a i : Nat) : Bool := (m.rd64 a).getLsbD i
/-- A bit of a 64-bit register set or cleared. -/
def Mach.setBit64 (m : Mach) (a i : Nat) (b : Bool) : Mach :=
  m.setBit (if i < 32 then a else a + 4) (i % 32) b

/-- A 64-bit counter advanced, saturating at 2⁶⁴ − 1. -/
def Mach.count64 (m : Mach) (a n : Nat) : Mach :=
  m.wr64 a (BitVec.ofNat 64 (min ((m.rd64 a).toNat + n) (2 ^ 64 - 1)))
/-- A saturating counter in a field. -/
def Mach.countFld (m : Mach) (a lo n k : Nat) : Mach := m.setFld a lo n (min (m.fld a lo n + k) (2 ^ n - 1))
/-- A wrapping 32-bit counter. -/
def Mach.count32 (m : Mach) (a : Nat) : Mach := m.wr a (m.rd a + 1)
/-- Words from an address cleared to zero. -/
def Mach.clearWords (m : Mach) (a : Nat) : Nat → Mach
  | 0 => m
  | n + 1 => (m.wr a 0).clearWords (a + 4) n

/-- The rim timer of a die, in ticks (R49). -/
def Mach.now (m : Mach) (die : Nat) : Nat := (m.rd64 (at_ die Reg.CLK_RIM_TIMER)).toNat
/-- A bound of `n` ticks from `v` has expired: the tick in which it is reached has ended (R75). -/
def expired (now v n : Nat) : Bool := decide (now ≥ v + n + 1)
/-- The module's own device number (R34). -/
def Mach.device (m : Mach) : Nat := m.fld (at_ 0 Reg.FAB_DEVICE) 0 18

/-! ### Numbers of cores, clusters and dies (R19) -/

/-- Die of a module-wide core slot. -/
def dieOfSlot (slot : Nat) : Nat := slot / 2304
/-- Module-wide cluster of a core slot. -/
def clusterOfSlot (slot : Nat) : Nat :=
  let c := slot % 2304
  (slot / 2304) * 36 + 6 * (c / 48 / 8) + c % 48 / 8
/-- Index of a core within its cluster. -/
def indexOfSlot (slot : Nat) : Nat :=
  let c := slot % 2304
  8 * (c / 48 % 8) + c % 48 % 8
/-- The core slot of an index of a cluster. -/
def slotOfIndex (cl i : Nat) : Nat :=
  let k := cl % 36
  (cl / 36) * 2304 + 48 * (8 * (k / 6) + i / 8) + 8 * (k % 6) + i % 8
/-- Links between two dies (R21). -/
def hops (a b : Nat) : Nat :=
  (a % 4 - b % 4) + (b % 4 - a % 4) + ((a / 4 - b / 4) + (b / 4 - a / 4))
/-- A register of a cluster's supervisor. -/
def aCsup (cl off : Nat) : Nat := at_ (cl / 36) (off + cl % 36 * 0x10000)
/-- A register of a slice or its home. -/
def aSlice (die ch off : Nat) : Nat := at_ die (off + ch * 0x10000)
/-- A register of a partition. -/
def aPart (p off : Nat) : Nat := off + p * 0x100
/-- A register of a queue. -/
def aQ (q off : Nat) : Nat := off + q * 0x40
/-- A scheduler register of a queue. -/
def aSched (q off : Nat) : Nat := off + q * 0x10
/-- A register of a link unit. -/
def aUnit (die port unit off : Nat) : Nat := at_ die (off + port * 0x40000 + unit * 0x1000)

/-- The fabric ports in index order (Table 12.1): die, edge port, unit. -/
def fportUnits : List (Nat × Nat × Nat) :=
  (List.range 16).flatMap fun d => (List.range 4).flatMap fun p => (List.range 2).filterMap fun u =>
    if outward d p && !isHostUnit d p u then some (d, p, u) else none
/-- The unit of a fabric port. -/
def unitOf (fp : Nat) : Nat × Nat × Nat := fportUnits.getD fp (0, 0, 0)
/-- A register of a fabric port's unit. -/
def aFp (fp off : Nat) : Nat := let u := unitOf fp; aUnit u.1 u.2.1 u.2.2 off

/-! ### Parts of the state by number -/

def Mach.core (m : Mach) (slot : Nat) : Core := m.cores.get slot {}
def Mach.setCore (m : Mach) (slot : Nat) (c : Core) : Mach := { m with cores := m.cores.put slot c }
def Mach.group? (m : Mach) (slot g : Nat) : Option Group := m.groups.get? (slot * 8 + g)
def Mach.setGroup (m : Mach) (slot g : Nat) (x : Group) : Mach := { m with groups := m.groups.put (slot * 8 + g) x }
def Mach.updGroup (m : Mach) (slot g : Nat) (f : Group → Group) : Mach :=
  { m with groups := m.groups.upd (slot * 8 + g) f }
def Mach.cluster (m : Mach) (c : Nat) : ClusterSt := m.clusters.get c {}
def Mach.setCluster (m : Mach) (c : Nat) (x : ClusterSt) : Mach := { m with clusters := m.clusters.put c x }
def Mach.launch? (m : Mach) (l : Nat) : Option Launch := m.launches.get? l
def Mach.updLaunch (m : Mach) (l : Nat) (f : Launch → Launch) : Mach := { m with launches := m.launches.upd l f }
def Mach.req? (m : Mach) (r : Nat) : Option Req := m.reqs.get? r
def Mach.updReq (m : Mach) (r : Nat) (f : Req → Req) : Mach := { m with reqs := m.reqs.upd r f }
def Mach.dropReq (m : Mach) (r : Nat) : Mach := { m with reqs := m.reqs.del r }
def Mach.newReq (m : Mach) (r : Req) : Mach × Nat :=
  ({ m with reqs := m.reqs.put m.nextReq r, nextReq := m.nextReq + 1 }, m.nextReq)
def Mach.slice (m : Mach) (die ch : Nat) : SliceSt := m.slices.get (die * 64 + ch) {}
def Mach.setSlice (m : Mach) (die ch : Nat) (x : SliceSt) : Mach := { m with slices := m.slices.put (die * 64 + ch) x }
def Mach.chan (m : Mach) (die ch : Nat) : ChanSt := m.chans.get (die * 64 + ch) {}
def Mach.setChan (m : Mach) (die ch : Nat) (x : ChanSt) : Mach := { m with chans := m.chans.put (die * 64 + ch) x }
def Mach.dieSt (m : Mach) (d : Nat) : DieSt := m.dies.get d {}
/-- A die's array stands still: its handshakes are halted (R41, R437, R456). -/
def Mach.still (m : Mach) (die : Nat) : Bool := (m.dieSt die).halted
def Mach.setDie (m : Mach) (d : Nat) (x : DieSt) : Mach := { m with dies := m.dies.put d x }
def Mach.port (m : Mach) (fp : Nat) : PortSt := m.ports.get fp {}
def Mach.setPort (m : Mach) (fp : Nat) (x : PortSt) : Mach := { m with ports := m.ports.put fp x }
/-- One end of a die link. -/
def Mach.dlink (m : Mach) (die port : Nat) : DieLinkSt := m.dlinks.get (die * 4 + port) {}
def Mach.setDlink (m : Mach) (die port : Nat) (x : DieLinkSt) : Mach := { m with dlinks := m.dlinks.put (die * 4 + port) x }
def Mach.queue (m : Mach) (q : Nat) : QueueSt := m.queues.get q {}
def Mach.setQueue (m : Mach) (q : Nat) (x : QueueSt) : Mach := { m with queues := m.queues.put q x }
def Mach.part (m : Mach) (p : Nat) : PartSt := m.parts.get p {}
def Mach.setPart (m : Mach) (p : Nat) (x : PartSt) : Mach := { m with parts := m.parts.put p x }
def Mach.key (m : Mach) (p : Nat) : KeySlot := m.keys.get p {}
def Mach.setKey (m : Mach) (p : Nat) (x : KeySlot) : Mach := { m with keys := m.keys.put p x }

/-- A message sent out of the module. -/
def Mach.emit (m : Mach) (x : OutMsg) : Mach := { m with outbox := m.outbox ++ [x] }
/-- The answer a requester receives. -/
def Mach.answer (m : Mach) (st : Status) (data : W64 := 0) : Mach := { m with reply := some ⟨st, data⟩ }
/-- A free value the manual leaves open; the counter advances so that each draw is fresh. -/
def Mach.draw (m : Mach) : W64 × Mach := (Config.freeValue m.fresh, { m with fresh := m.fresh + 1 })

/-! ### Partitions and owners -/

/-- States of a partition (Table 14.2). -/
def pFREE : Nat := 0
def pCONFIG : Nat := 1
def pACTIVE : Nat := 2
def pRESETTING : Nat := 3
def pREMOVING : Nat := 4
def pFREEZING : Nat := 5
def pFROZEN : Nat := 6

/-- The state of a partition. -/
def Mach.partState (m : Mach) (p : Nat) : Nat := m.fld (aPart p Reg.PART_STATE) 0 3
def Mach.setPartState (m : Mach) (p s : Nat) : Mach := m.setFld (aPart p Reg.PART_STATE) 0 3 s
/-- A Sable-mode partition (R418). -/
def Mach.sable (m : Mach) (p : Nat) : Bool := m.bit (aPart p Reg.PART_CFG) 11 && m.partState p != pFREE
/-- Some partition exists: it is not FREE. -/
def Mach.anyPart (m : Mach) : Bool := (List.range 32).any fun p => m.partState p != pFREE
/-- The partition that owns a cluster (R388). -/
def Mach.clusterOwner (m : Mach) (c : Nat) : Option Nat :=
  let a := Reg.PART_CLUSTER_OWNER + 4 * c
  if m.bit a 5 then some (m.fld a 0 5) else none
/-- The partition that owns a granule (R388). -/
def Mach.granuleOwner (m : Mach) (g : Nat) : Option Nat :=
  let a := Reg.PART_GRANULE_OWNER + 4 * g
  if m.bit a 5 then some (m.fld a 0 5) else none
/-- The cluster is owned by a Sable-mode partition. -/
def Mach.sableCluster (m : Mach) (c : Nat) : Bool :=
  match m.clusterOwner c with
  | some p => m.sable p
  | none => false

/-- The weight of a partition in the deficit round robins of R403; what is done for no partition counts as the reset value,
16. -/
def Mach.weight (m : Mach) (p : Nat) : Nat := if p < 32 then max 1 (m.fld (aPart p Reg.PART_CFG) 0 8) else 16

/-- The partition that is granted next, of those that wait (R403): the one whose turn it is while its turn has grants left,
else the next in index order, for as many grants as its weight. -/
def Mach.drrPick (m : Mach) (d : Drr) (ps : List Nat) : Option (Nat × Drr) :=
  if d.credit ≠ 0 ∧ ps.contains d.cur then some (d.cur, { d with credit := d.credit - 1 })
  else ((List.range 33).map fun i => (d.cur + 1 + i) % 33).find? ps.contains |>.map fun p => (p, ⟨p, m.weight p - 1⟩)

/-! ### Keys of the module -/

/-- The bytes of an ASCII text. -/
def asciiBytes (s : String) : List Byte := s.toList.map fun c => BitVec.ofNat 8 c.toNat
/-- Bytes 0 to 31 of the SHA-512 of a label and the unique secret (R467). -/
def derived (label : String) : BitVec 256 :=
  (Config.sha512 (asciiBytes label ++ bytesOf Config.secret.toNat 32)).setWidth 256
/-- The seed of the identity pair, and its public key. -/
def idSeed : BitVec 256 := derived "LN-TW16 identity"
def idPublic : BitVec 256 := Config.ed25519Public idSeed
/-- The private scalar of the key-agreement pair, and its public key. -/
def kxPrivate : BitVec 256 := derived "LN-TW16 agreement"
def kxPublic : BitVec 256 := Config.x25519 kxPrivate Config.x25519Base
/-- `module_id` (R468). -/
def moduleId : W64 := (Config.sha512 (bytesOf idPublic.toNat 32)).setWidth 64

/-! ### Messages of the Slate network (R489, R490) -/

/-- The 32-byte header of a datagram (Table 17.8). -/
def slateHeader (typ len : Nat) (seq : W64) (cred status : Byte) (chunk chunks : Nat) : List Byte :=
  bytesOf 0x534C 2 ++ [1, BitVec.ofNat 8 typ] ++ bytesOf len 4 ++ bytesOf seq.toNat 8 ++ [cred, status] ++
    bytesOf chunk 2 ++ bytesOf chunks 2 ++ List.replicate 10 0

/-- The header and the part of the body in datagram k of a message (R489). -/
def slateBytes (typ : Nat) (seq : W64) (cred status : Byte) (body : List Byte) (k : Nat) : List Byte :=
  let part := (body.drop (1136 * k)).take 1136
  slateHeader typ part.length seq cred status k (slateChunks body.length) ++ part

/-- The datagrams of a message that the module sends, each signed with its identity key (R489, R490). -/
def slateMessage (typ : Nat) (seq : W64) (status : Byte) (body : List Byte) : List (List Byte) :=
  (List.range (slateChunks body.length)).map fun k =>
    let x := slateBytes typ seq 0xFF status body k
    x ++ bytesOf (Config.ed25519Sign idSeed x).toNat 64

/-- A notice sent to the fabric manager under the module's own next number (R489). -/
def Mach.slateNotice (m : Mach) (typ : Nat) (body : List Byte) : Mach :=
  { m with noticeSeq := m.noticeSeq + 1 }.emit (.slateNotice (slateMessage typ (BitVec.ofNat 64 m.noticeSeq) 0 body))

/-! ### Fault records and the failed-degraded state -/

/-- The 32-byte record of Table 18.3 as eight words. -/
def recordWords (kind : Nat) (st : Status) (sev : Nat) (sab : Bool) (die source time addr info : Nat) : List W32 :=
  [BitVec.ofNat 32 (kind + 256 * st.code.toNat + 65536 * (sev + if sab then 4 else 0) + 16777216 * die),
   BitVec.ofNat 32 source, BitVec.ofNat 32 time, BitVec.ofNat 32 (time / 2 ^ 32),
   BitVec.ofNat 32 addr, BitVec.ofNat 32 (addr / 2 ^ 32), BitVec.ofNat 32 info, BitVec.ofNat 32 (info / 2 ^ 32)]

/-- Consecutive words written. -/
def Mach.wrWords (m : Mach) (a : Nat) : List W32 → Mach
  | [] => m
  | x :: xs => (m.wr a x).wrWords (a + 4) xs

/-- A record placed in the general log of a die, and in the fatal entries when it is fatal (R507). -/
def Mach.logWords (m : Mach) (die sev : Nat) (ws : List W32) : Mach :=
  let st := at_ die Reg.DM_FLT_STATUS
  let written := (m.rd (at_ die Reg.DM_FLT_WRITTEN)).toNat
  let consumed := (m.rd (at_ die Reg.DM_FLT_CONSUMED)).toNat
  let m :=
    if (written + 2 ^ 32 - consumed) % 2 ^ 32 = 240 then m.countFld st 0 16 1
    else (m.wrWords (at_ die (Reg.DM_FLT_ENTRY + 0x20 * (written % 240))) ws).count32 (at_ die Reg.DM_FLT_WRITTEN)
  if sev = 2 then
    let n := m.fld st 16 5
    if n ≥ 16 then m.countFld st 24 8 1
    else (m.wrWords (at_ die (Reg.DM_FLT_ENTRY + 0x20 * (240 + n))) ws).setFld st 16 5 (n + 1)
  else m

/-- An interrupt or notice written to the companion window; its answer completes it (R373, R509, R528). -/
def Mach.notify (m : Mach) (dm : Bool) (src : Nat) (addr : Nat) (bytes : List Byte) : Mach :=
  let (m, _) := m.newReq { kind := .store, src := .notice dm src, die := 0, part := 0, tgt := .companion addr, sent := true
                           mask := BitVec.ofNat 128 (2 ^ bytes.length - 1), line := addr, tick := m.now 0 }
  m.emit (.writeCmp addr bytes)

/-- Die 0 marks a die pending and, when asked to, writes the driver's interrupt, at most once in 10,000 ticks (R509). -/
def Mach.pendDie (m : Mach) (die : Nat) (irq : Bool) : Mach :=
  let m := m.setBit (at_ 0 Reg.DM_PENDING) die true
  let a := m.rd64 (at_ 0 Reg.DM_IRQ_ADDR)
  if !irq ∨ a = 0 then m
  else if m.irqPause.isSome then { m with irqDue := true }
  else { m.notify true 0 a.toNat (bytesOf (m.rd (at_ 0 Reg.DM_IRQ_DATA)).toNat 4) with irqPause := some (m.now 0) }

/-- A fault record of a die manager (R507 to R509): `addr` and `info` read as zero for a core of a Sable-mode partition
(R508). -/
def Mach.logFault (m : Mach) (die kind : Nat) (st : Status) (sev : Nat) (sab : Bool) (source addr info : Nat)
    (irq : Bool := true) : Mach :=
  let hide := sab && (kind == 1 || kind == 3 || kind == 4)
  let m := m.logWords die sev
    (recordWords kind st sev sab die source (m.now die) (if hide then 0 else addr) (if hide then 0 else info))
  if sev = 0 then m else m.pendDie die irq

/-- An interrupt or notice write that the companion refused, or never answered, is dropped and logged; a die manager's
own causes no further interrupt (R373, R509, R528). -/
def Mach.dropNotice (m : Mach) (dm : Bool) (src addr : Nat) (st : Status) : Mach :=
  if st.failed then m.logFault 0 0x03 st 1 false src addr 0 (!dm) else m

/-- The module is in the failed-degraded state (R328). -/
def Mach.failedDegraded (m : Mach) : Bool := m.bit (at_ 0 Reg.FAB_MODULE_STATE) 0

/-- A module-wide register of the lane role block: one copy, at die 0, stands for every die's, which reads alike (R356). -/
def Mach.wrAll (m : Mach) (off : Nat) (x : W32) : Mach := m.wr (at_ 0 off) x

/-- State of a fabric port (Table 12.7). -/
def Mach.fpState (m : Mach) (fp : Nat) : Nat := m.fld (aFp fp Reg.LU_STATE) 0 3
def Mach.setFpState (m : Mach) (fp s : Nat) : Mach := m.setFld (aFp fp Reg.LU_STATE) 0 3 s
/-- A port in a state in which its frames pass. -/
def Mach.fpCarries (m : Mach) (fp : Nat) : Bool := m.fpState fp == 2 || m.fpState fp == 3

/-- The identity frame that a fabric port sends (Table 12.6). -/
def Mach.identFrame (m : Mach) (fp : Nat) : Ident :=
  { moduleId := moduleId, device := BitVec.ofNat 18 m.device, devValid := m.bit (at_ 0 Reg.FAB_DEVICE) 18
    port := BitVec.ofNat 5 fp, narrow := m.fld (aFp fp Reg.LU_STATE) 3 2 == 1, steppingB0 := Config.steppingB0 (unitOf fp).1
    version := 1, failed := m.failedDegraded }
/-- A port's identity frame sent. -/
def Mach.sendIdentity (m : Mach) (fp : Nat) : Mach := m.emit (.identity fp (m.identFrame fp))
/-- Every fabric port's partner learns a change of the identity frame (R329, R335). -/
def Mach.sendIdentities (m : Mach) : Mach :=
  (List.range 31).foldl (fun m fp => if m.fpCarries fp then m.sendIdentity fp else m) m

/-- The first under R16 of the faults recorded for a launch so far (R81). -/
def Launch.firstFault (l : Launch) : Option Status :=
  l.faults.foldl (fun (b : Option Status) s => some (match b with
    | none => s
    | some x => x.first s)) none

/-- A launch halted: its groups stop at the next instruction boundary (R80). One that had faulted before keeps the status of
its faults, or completes with `ABORT_PARTITION_RESET` where that stands first (R81, R417); what fails later does not change it. -/
def Launch.halt (l : Launch) (why : Option Status) : Launch :=
  { l with halted := true, aborted := match l.aborted, l.firstFault, why with
      | some a, _, some .abortPartitionReset => some (a.first .abortPartitionReset)
      | some a, _, _ => some a
      | none, some s, some .abortPartitionReset => some (s.first .abortPartitionReset)
      | none, some s, some _ => some s
      | none, _, w => w }

/-- The kind of a job's descriptor (Table 13.2). -/
def Job.kind (j : Job) : Nat := (j.desc.headD 0).toNat

/-- A queue's begun jobs other than launches and copies end with a status (R329, step 2; Table 14.8, steps 1 and 2); the engine goes
on only with the reading of its next descriptor and the writing of its records. -/
def squashJobs (q : QueueSt) (st : Status) : QueueSt :=
  { q with
    semFrom := none
    semKept := none
    eng := q.eng.filter fun e => e.1 ≤ 1
    jobs := q.jobs.filter fun j => j.kind < 3
    ended := q.ended ++ (q.jobs.filter fun j => j.kind ≥ 3).map fun j => { j with status := st } }
/-- The job of a queue with a count changed. -/
def Mach.updJob (m : Mach) (q seq : Nat) (f : Job → Job) : Mach :=
  let x := m.queue q
  m.setQueue q { x with jobs := x.jobs.map fun j => if j.seq = seq then f j else j }

/-- The job of a queue with a count ends with a status: its record is due next (R372, R373). -/
def Mach.endJob (m : Mach) (q seq : Nat) (st : Status) : Mach :=
  let x := m.queue q
  m.setQueue q { x with
    jobs := x.jobs.filter fun j => j.seq != seq
    ended := x.ended ++ (x.jobs.filter fun j => j.seq == seq).map fun j => { j with status := st } }

/-- A transfer between two chunks. -/
def Transfer.between (t : Transfer) : Bool := t.pend.isEmpty && t.wpend.isNone && t.bytes.isEmpty

/-- Transfers that satisfy a test stop at their next chunk boundary (Table 7.9). -/
def stopMover (c : ClusterSt) (p : Transfer → Bool) (st : Status) : ClusterSt :=
  { c with mover := c.mover.map fun t =>
      if t.status.isSome || !p t then t
      else if t.between then { t with status := some st } else { t with stop := some (t.stop.getD st) } }

/-- Copies of the queues that satisfy a test stop at their next chunk boundary, and complete with a status. -/
def Mach.stopCopies (m : Mach) (p : Nat → Bool) (st : Status) : Mach :=
  let mine (t : Transfer) : Bool := match t.queue with
    | some x => p x.1
    | none => false
  let m := { m with clusters := m.clusters.mapV fun c => stopMover c mine st }
  let overs := (m.clusters.flatMap fun c => c.2.mover.filter fun t => mine t && t.status.isSome).filterMap (·.queue)
  let m := overs.foldl (fun m x => m.endJob x.1 x.2 st) m
  { m with clusters := m.clusters.mapV fun c =>
      { c with mover := c.mover.filter fun t => !(mine t && t.status.isSome) } }

/-- What the queues that satisfy a test have begun, but for their launches, stops with a status. -/
def Mach.squashQueues (m : Mach) (p : Nat → Bool) (st : Status) : Mach :=
  let m := m.stopCopies p st
  { m with
    queues := m.queues.map fun (x : Nat × QueueSt) => if p x.1 then (x.1, squashJobs x.2 st) else x
    semWait := m.semWait.mapV fun l => l.filter fun q => !p q
    ranges := m.ranges.filter fun o => !p o.q }

/-- A request found a full channel queue, a full home request queue or no free fabric entry: its job's record will say so
(Table 13.5, `delayed_traffic`). -/
def Mach.markSlow (m : Mach) (rid : Nat) : Mach :=
  let ofLaunch (slot : Nat) : Mach := match (m.core slot).launch with
    | some l => m.updLaunch l fun y => { y with slowed := true }
    | none => m
  match m.req? rid with
  | none => m
  | some q => match q.src with
    | .group slot _ => ofLaunch slot
    | .mover cl slot _ ticket => match (m.cluster cl).mover.find? (·.ticket == ticket) with
      | some t => (match t.queue with
        | some x => m.updJob x.1 x.2 fun j => { j with slowed := true }
        | none => ofLaunch slot)
      | none => m
    | .walk (.cluster cl _) => (match (m.cluster cl).launch with
      | some l => m.updLaunch l fun y => { y with slowed := true }
      | none => m)
    | .queue n _ | .walk (.queue n _) | .walk (.range n) =>
      { m with queues := m.queues.upd n fun x => { x with jobs := x.jobs.map fun j => { j with slowed := true } } }
    | .notice _ _ | .fabric _ _ | .log _ => m

/-- Entry of the failed-degraded state (R328, R329): the first cause is recorded; queues stop taking work, begun
launches and descriptors halt, neighbours and the management network are told. -/
def Mach.fatal (m : Mach) (die cause source addr info : Nat) (kind : Nat := 0x0B) : Mach :=
  let m := m.logFault die kind .errGated 2 false source addr info
  if m.failedDegraded then m
  else
    let w := putBits (putBits (putBits 0 0 1 1) 8 8 cause) 16 4 die
    let m := m.wrAll Reg.FAB_MODULE_STATE w
    let t := BitVec.ofNat 64 (m.now die)
    let m := m.wrAll Reg.FAB_MODULE_FAIL_TIME (t.setWidth 32)
    let m := m.wrAll (Reg.FAB_MODULE_FAIL_TIME + 4) ((t >>> 32).setWidth 32)
    let m := { m with
      launches := m.launches.mapV fun (l : Launch) => if l.stat = LStat.done then l else l.halt (some .abortSquashed) }
    let m := m.squashQueues (fun _ => true) .abortSquashed
    let m := m.sendIdentities
    m.slateNotice 0x21 (bytesOf w.toNat 4 ++ bytesOf t.toNat 8)

/-! ### Start-up and clocks (R450, R454, R460, R463) -/

/-- The current stage of Table 16.7. -/
def Mach.stage (m : Mach) : Nat := m.fld (at_ 0 Reg.BOOT_STATE) 0 4
/-- Stage 6 has ended. -/
def Mach.ready (m : Mach) : Bool := m.bit (at_ 0 Reg.BOOT_STATE) 4
/-- A warm reset is in progress: from its request until the module is ready again (R454). -/
def Mach.warming (m : Mach) : Bool := !m.ready && decide (m.fld (at_ 0 Reg.RST_CAUSE) 0 3 ≠ 0)
/-- A failure of start-up recorded, the first one only (R463). -/
def Mach.bootFail (m : Mach) (code die : Nat) : Mach :=
  let a := at_ 0 Reg.BOOT_STATE
  if m.bit a 5 then m else ((m.setBit a 5 true).setFld a 8 8 code).setFld a 16 4 die
/-- Start-up has stopped for good: a failure of codes 1 to 5 (Table 16.8). -/
def Mach.bootStopped (m : Mach) : Bool :=
  let a := at_ 0 Reg.BOOT_STATE
  m.bit a 5 && decide (m.fld a 8 8 ≤ 5)
/-- A stage ends: its time is noted from stage 3 to stage 8, and the next begins (R461, R465). -/
def Mach.endStage (m : Mach) (k : Nat) : Mach :=
  let m := if k ≥ 3 ∧ k ≤ 8 then m.wr64 (at_ 0 (Reg.BOOT_STAGE_TIME + 8 * (k - 3))) (BitVec.ofNat 64 (m.now 0)) else m
  { m.setFld (at_ 0 Reg.BOOT_STATE) 0 4 (k + 1) with stageFrom := m.now 0 }
/-- Bits of `CLK_EN` of a die set (Table 16.4). -/
def Mach.enable (m : Mach) (die : Nat) (bits : List Nat) : Mach :=
  bits.foldl (fun m i => m.setBit (at_ die Reg.CLK_EN) i true) m
/-- The memory command domain of a die runs, and its link-layer domain (R448, R450). -/
def Mach.memRuns (m : Mach) (die : Nat) : Bool := m.bit (at_ die Reg.CLK_DOMAIN_STATUS) 0
def Mach.linkRuns (m : Mach) (die : Nat) : Bool := m.bit (at_ die Reg.CLK_DOMAIN_STATUS) 1
/-- The lanes of an edge port have their clock: loop Bn of the die is locked (R322, R450), and the link-layer domain runs. -/
def Mach.lanesRun (m : Mach) (die port : Nat) : Bool := m.linkRuns die && m.bit (at_ die Reg.CLK_STATUS) (4 + port)
/-- Standby: 0 running, 1 entering, 2 in standby, 3 waking (Table 16.10). -/
def Mach.pdState (m : Mach) : Nat := m.fld (at_ 0 Reg.PD_STATE) 0 2

/-! ### Outcomes -/

/-- The outcome of a command that changes the machine alone. -/
def onMach (f : Mach → Mach) (s : State) : Host.Outcome State Fault Refusal := .next { s with m := f s.m }

/-- The module takes commands: PWR_GOOD is high (R521). -/
def Mach.powered (m : Mach) : Bool := !m.off

/-- The outcome of a command that acts only while the module is powered; otherwise nothing happens (R521). -/
def whenOn (f : Mach → Mach) (s : State) : Host.Outcome State Fault Refusal :=
  onMach (fun m => if m.powered then f m else m) s

end Sys2Proof.Machine
end

