-- ==== Sys2Proof/Machine/Mem.lean ====
section
/-! DEFINITION. Stacked memory: where a line lives (R233, R234), the word code (R304 to R306), and the reading and
writing of one line by its channel (R307 to R310, R478). -/
namespace Sys2Proof.Machine

/-- The exclusive-or of the successive w-bit fields of x (R233). -/
def foldX (w : Nat) : Nat → Nat → Nat
  | 0, _ => 0
  | n + 1, x => Nat.xor (x % 2 ^ w) (foldX w n (x / 2 ^ w))

/-- Lines of one die's stacked memory, and of the module. -/
def dieLines : Nat := 192 * 2 ^ 23
def allLines : Nat := 16 * dieLines

/-- The interleave share in GiB (R28). -/
def Mach.interleave (m : Mach) : Nat := m.fld (at_ 0 Reg.HOME_INTERLEAVE) 0 8

/-- The home of a device-local line: die, channel and channel-line index (R233). -/
def homeOf (share line : Nat) : Nat × Nat × Nat :=
  let d := line / dieLines
  let n := line % dieLines
  if n < (192 - share) * 2 ^ 23 then (d, Nat.xor (n % 64) (foldX 6 6 (n / 64)), n / 64)
  else
    let q := d * share * 2 ^ 23 + (n - (192 - share) * 2 ^ 23)
    let p := Nat.xor (q % 1024) (foldX 10 4 (q / 1024))
    (p / 64, p % 64, (192 - share) * 2 ^ 17 + q / 1024)

/-- The device-local line of a channel-line index: the inverse of R233 (R310). -/
def lineAt (share die ch idx : Nat) : Nat :=
  if idx < (192 - share) * 2 ^ 17 then die * dieLines + idx * 64 + Nat.xor ch (foldX 6 6 idx)
  else
    let qd := idx - (192 - share) * 2 ^ 17
    let q := qd * 1024 + Nat.xor (die * 64 + ch) (foldX 10 4 qd)
    q / (share * 2 ^ 23) * dieLines + (192 - share) * 2 ^ 23 + q % (share * 2 ^ 23)

/-- The set of a channel-line index (R234). -/
def setOf (idx : Nat) : Nat :=
  Nat.xor (Nat.xor (idx % 4096) (idx / 4096 % 4096)) (idx / 2 ^ 24 % 2 * 0x800)

/-- The poison pattern P (R305). -/
def poisonP : BitVec 16 := Config.poisonP

/-- The syndrome of an error in one bit: a data bit's column, or a check bit itself (R304). -/
def bitSyn (k : Nat) : BitVec 16 := Config.oneBit Config.eccCol k

/-- encode(d): the check bits of a data word (R304). -/
def eccEncode (d : W64) : BitVec 16 :=
  (List.range 64).foldl (fun a i => if d.getLsbD i then a ^^^ Config.eccCol i else a) 0

/-- The data bits that an error of one or two bits with this syndrome flips, when there is one. -/
def eccFix (s : BitVec 16) : Option W64 :=
  let flip (k : Nat) : W64 := if k < 64 then 1#64 <<< k else 0
  match (List.range 80).find? (fun k => bitSyn k == s) with
  | some k => some (flip k)
  | none => (List.range 80).findSome? fun i => ((List.range 80).find? fun j =>
      decide (i < j) && (bitSyn i ^^^ bitSyn j) == s).map fun j => flip i ||| flip j

/-- The classes of Table 11.5. -/
inductive SynClass where
  | clean | poisoned
  | corrected (flip : W64)
  | uncorrectable
deriving DecidableEq, Repr

/-- The class of a syndrome: the first of Table 11.5 that matches (R305). -/
def classify (s : BitVec 16) : SynClass :=
  if s = 0 then .clean
  else if s = poisonP then .poisoned
  else if (List.range 80).any (fun k => (poisonP ^^^ bitSyn k) == s) then .poisoned
  else match eccFix s with
    | some f => .corrected f
    | none => .uncorrectable

/-- The stored data word of a line. -/
def Mach.memWord (m : Mach) (line w : Nat) : W64 := BitVec.ofNat 64 (Cells.readN m.mem (128 * line + 8 * w) 8)
/-- The syndrome of a stored word. -/
def Mach.memSyn (m : Mach) (line w : Nat) : BitVec 16 := m.syn.get (16 * line + w) 0
/-- A word stored with a syndrome; a valid word lists none. -/
def Mach.putWord (m : Mach) (line w : Nat) (d : W64) (s : BitVec 16) : Mach :=
  { m with mem := Cells.writeL m.mem (128 * line + 8 * w) (bytesOf d.toNat 8)
           syn := if s = 0 then m.syn.del (16 * line + w) else m.syn.put (16 * line + w) s }

/-- The memory key in force for a line: its granule's Sable-mode owner has one loaded (R478). -/
def Mach.lineKey (m : Mach) (line : Nat) : Option (BitVec 512) :=
  match m.granuleOwner (line / 2 ^ 23) with
  | some p => if m.sable p then (m.key p).memKey else none
  | none => none

/-- The stored image of a line as it goes to the slice: decrypted where a key is in force (R478). -/
def Mach.unseal (m : Mach) (line : Nat) (img : LineImg) : LineImg :=
  match m.lineKey line with
  | some k => Config.xtsDecrypt k (BitVec.ofNat 128 line) img
  | none => img
/-- A slice's image of a line as it is stored (R478). -/
def Mach.seal (m : Mach) (line : Nat) (img : LineImg) : LineImg :=
  match m.lineKey line with
  | some k => Config.xtsEncrypt k (BitVec.ofNat 128 line) img
  | none => img

/-- The 64-bit word w of an image. -/
def lword (l : LineImg) (w : Nat) : W64 := (l >>> (64 * w)).setWidth 64
/-- The image with word w replaced. -/
def lsetWord (l : LineImg) (w : Nat) (x : W64) : LineImg :=
  (l &&& ~~~(0xFFFFFFFFFFFFFFFF#1024 <<< (64 * w))) ||| (x.setWidth 1024 <<< (64 * w))

/-- A line written to memory: poisoned words take zero data and the pattern P (R306, R307). -/
def Mach.memWrite (m : Mach) (line : Nat) (img : LineImg) (psn : BitVec 16) : Mach :=
  let e := m.seal line img
  (List.range 16).foldl (fun m w =>
    if psn.getLsbD w then m.putWord line w 0 poisonP else m.putWord line w (lword e w) 0) m

/-- The first free entry of the correctable table, or the entry of an address (R309). -/
def ceSlot (m : Mach) (die addr : Nat) : Option (Nat × Bool) :=
  let n := m.fld (at_ die Reg.MEM_CE_STATUS) 0 5
  match (List.range n).find? (fun i => (m.rd64 (at_ die (Reg.MEM_CE_ENTRY + 0x20 * i))).toNat == addr) with
  | some i => some (i, true)
  | none => if n < 16 then some (n, false) else none

/-- A corrected word counted and entered in the die's table (R308, R309). -/
def Mach.noteCorrected (m : Mach) (die ch addr : Nat) (s : BitVec 16) : Mach :=
  let m := m.count64 (aSlice die ch Reg.MC_CORR_CNT) 1
  let st := at_ die Reg.MEM_CE_STATUS
  match ceSlot m die addr with
  | some (i, true) =>
    let a := at_ die (Reg.MEM_CE_ENTRY_8 + 0x20 * i)
    ((m.countFld a 24 8 1).setFld a 0 16 s.toNat).wr64 (a + 8) (BitVec.ofNat 64 (m.now die))
  | some (i, false) =>
    let b := at_ die (Reg.MEM_CE_ENTRY + 0x20 * i)
    let m := (m.wr64 b (BitVec.ofNat 64 addr)).wr (b + 8) (BitVec.ofNat 32 (s.toNat + 65536 * ch + 16777216))
    (m.wr64 (b + 16) (BitVec.ofNat 64 (m.now die))).setFld st 0 5 (i + 1)
  | none => m.setBit st 5 true

/-- An uncorrectable word counted, logged and reported (R308, R310). -/
def Mach.noteUncorrectable (m : Mach) (die ch addr : Nat) (s : BitVec 16) : Mach :=
  let m := m.count64 (aSlice die ch Reg.MC_UNCORR_CNT) 1
  let st := aSlice die ch Reg.MC_UNCORR_STATUS
  let m := if m.bit st 0 then m else
    ((m.setBit st 0 true).wr64 (aSlice die ch Reg.MC_UNCORR_LOG) (BitVec.ofNat 64 addr)).wr64
      (aSlice die ch Reg.MC_UNCORR_TIME) (BitVec.ofNat 64 (m.now die))
  m.logFault die 0x02 .errUncorrectable 1 false ch addr s.toNat

/-- The wire that a wire's bits travel on is `wire` itself, or the wire that a spare carries (R296). -/
def Mach.carried (m : Mach) (die ch wire : Nat) : Nat :=
  if wire < 320 then wire
  else m.fld (aSlice die ch Reg.MC_SPARE_MAP + 4 * ((wire - 320) / 2)) (16 * ((wire - 320) % 2)) 9

/-- The bit of word `w` of a line, of 64 data bits and then 16 check bits, that travels on a data or check wire (R290). -/
def wireBit (w wire : Nat) : Option Nat :=
  if wire < 256 then (if wire / 64 = w % 4 then some (wire % 64) else none)
  else if (wire - 256) / 16 = w % 4 then some (64 + wire % 16) else none

/-- A word as its channel receives it: each wire in service without margin may turn its bit over (R300), which a free value
says. -/
def Mach.wireErrors (m : Mach) (die ch w : Nat) : List Nat → W64 × BitVec 16 → Mach × W64 × BitVec 16
  | [], (d, s) => (m, d, s)
  | x :: xs, (d, s) =>
    match wireBit w (m.carried die ch x) with
    | none => m.wireErrors die ch w xs (d, s)
    | some k =>
      let (r, m') := m.draw
      if r.getLsbD 0 then
        Mach.wireErrors m' die ch w xs (if k < 64 then d ^^^ (1#64 <<< k) else d, s ^^^ bitSyn k)
      else Mach.wireErrors m' die ch w xs (d, s)

/-- What a word received with some data and syndrome gives: the machine after, its data, its poison and whether it was found
uncorrectable now (Table 11.6). A word that is `spared` is left as it stands (R315). -/
def Mach.takeWord (m : Mach) (die ch line w : Nat) (spared : Bool) (d : W64) (s : BitVec 16) : Mach × W64 × Bool × Bool :=
  let addr := 128 * line + 8 * w
  match classify s with
  | .clean => (m, d, false, false)
  | .poisoned => (m.count64 (aSlice die ch Reg.MC_POISON_READ_CNT) 1, 0, true, false)
  | .corrected f => ((m.noteCorrected die ch addr s).putWord line w (d ^^^ f) 0, d ^^^ f, false, false)
  | .uncorrectable =>
    let m := m.noteUncorrectable die ch addr s
    (if spared then m else m.putWord line w 0 poisonP, 0, true, true)

/-- A stored word as its channel receives it. -/
def Mach.wordIn (m : Mach) (die ch line w : Nat) : Mach × W64 × BitVec 16 :=
  m.wireErrors die ch w (m.chan die ch).degraded (m.memWord line w, m.memSyn line w)

/-- What one word gives when its channel reads it for its slice (R307). -/
def Mach.readWordAt (m : Mach) (die ch line w : Nat) : Mach × W64 × Bool × Bool :=
  let (m, d, s) := m.wordIn die ch line w
  m.takeWord die ch line w false d s

/-- A line read by its channel, words upward: image, poisoned words, words found uncorrectable now (R307). -/
def Mach.readLine (m : Mach) (die ch line : Nat) : Mach × LineImg × BitVec 16 × BitVec 16 :=
  let r := (List.range 16).foldl (fun (acc : Mach × LineImg × BitVec 16 × BitVec 16) w =>
    let (m, img, psn, unc) := acc
    let (m, d, p, u) := m.readWordAt die ch line w
    (m, lsetWord img w d, if p then psn ||| (1#16 <<< w) else psn, if u then unc ||| (1#16 <<< w) else unc))
    (m, 0, 0, 0)
  (r.1, r.1.unseal line r.2.1, r.2.2)

/-- States of a channel (Table 11.2). -/
def cOFF : Nat := 0
def cTRAINING : Nat := 1
def cONLINE : Nat := 2
def cOFFLINE : Nat := 3
def cFAILED : Nat := 4
def cSHUT : Nat := 5

/-- The state of a channel. -/
def Mach.chanState (m : Mach) (die ch : Nat) : Nat := m.fld (aSlice die ch Reg.MC_STATE) 0 3
def Mach.setChanState (m : Mach) (die ch s : Nat) : Mach := m.setFld (aSlice die ch Reg.MC_STATE) 0 3 s

/-- The status with which a channel that is not ONLINE completes a request of its slice (Table 11.2). -/
def chanRefuses (st : Nat) : Option Status :=
  if st = cONLINE then none
  else if st = cTRAINING ∨ st = cOFFLINE then some .busyCalibrating
  else some .errGated

/-- The crossing between a slice and its channel moves on (R42, R44): the queue takes up to 64 requests (R293) while the memory
command domain runs, the crossing holds 32, and the rest stays with the slice. No request changes its order. -/
def ChanSt.flow (c : ChanSt) (runs : Bool) : ChanSt :=
  let cap := if runs then 64 else c.q.length
  let all := c.q ++ c.fifo ++ c.held
  { c with q := all.take cap, fifo := (all.drop cap).take 32, held := all.drop (cap + 32) }

/-- A request sent by a slice to its channel (R240). -/
def Mach.chanPush (m : Mach) (die ch : Nat) (r : ChReq) : Mach :=
  let c := m.chan die ch
  m.setChan die ch (ChanSt.flow { c with held := c.held ++ [r] } (m.memRuns die))

/-- Every request that a slice has sent to its channel and that the channel has not performed, in order. -/
def ChanSt.sent (c : ChanSt) : List ChReq := c.q ++ c.fifo ++ c.held

/-- The poisoned words of an image that touch a byte mask. -/
def wordsIn (mask : LineMask) (ws : BitVec 16) : Bool :=
  (List.range 16).any fun w => ws.getLsbD w && (mask >>> (8 * w)).setWidth 8 != (0 : BitVec 8)

/-- Poison after a write: a word written whole loses its mark, any other keeps it (R306). -/
def psnAfter (mask : LineMask) (psn : BitVec 16) : BitVec 16 :=
  (List.range 16).foldl (fun (p : BitVec 16) w =>
    if (mask >>> (8 * w)).setWidth 8 == (0xFF : BitVec 8) then p &&& ~~~(1#16 <<< w) else p) psn

/-- Every word poisoned (R284). -/
def allPoison : BitVec 16 := 0xFFFF

/-! ### Scratchpads -/

/-- The line image of a scratchpad at a line offset. -/
def Mach.spadLine (m : Mach) (slot off : Nat) : LineImg := BitVec.ofNat 1024 (Cells.readN (m.core slot).spad off 128)
/-- An 8-byte word of a scratchpad line that a byte mask touches; `whole` asks for all of its bytes. -/
def spadTouch (off : Nat) (mask : LineMask) (whole : Bool) (w : Nat) : Bool :=
  let part : BitVec 8 := (mask >>> (8 * (w - off / 8))).setWidth 8
  off / 8 ≤ w && w < off / 8 + 16 && (if whole then part == 0xFF else part != 0)
/-- Words of a core's local array are read: a single-bit error is corrected, written back and counted, an uncorrectable one
is counted and shown (R232, R506). -/
def Mach.spadCheck (m : Mach) (slot : Nat) (hit : Nat → Bool) : Mach × Bool :=
  let c := m.core slot
  let soft := (c.spadSoft.filter hit).length
  let bad := (c.spadBad.filter hit).length
  if soft + bad = 0 then (m, false)
  else
    let m := m.setCore slot { c with spadSoft := c.spadSoft.filter fun w => !hit w }
    let m := m.count64 (at_ (dieOfSlot slot) Reg.DBG_LA_CORR_CNT) soft
    (m.count64 (at_ (dieOfSlot slot) Reg.DBG_LA_UNCORR_CNT) bad, decide (bad ≠ 0))
/-- Bytes of a scratchpad line written; a word written whole is valid again. -/
def Mach.spadWrite (m : Mach) (slot off : Nat) (mask : LineMask) (img : LineImg) : Mach :=
  let c := m.core slot
  let spad := (List.range 128).foldl (fun (s : List Host.Cell) k =>
    if mask.getLsbD k then Cells.write s (off + k) (lbyte img k) else s) c.spad
  let keep (l : List Nat) : List Nat := l.filter fun w => !spadTouch off mask true w
  m.setCore slot { c with spad := spad, spadSoft := keep c.spadSoft, spadBad := keep c.spadBad }

/-- A window of a local array read for a request: its line, or the error of R30 or R232; ERR_GATED in standby (R458). -/
def Mach.windowRead (m : Mach) (slot off : Nat) (mask : LineMask) : Mach × Answer :=
  let c := m.core slot
  if m.pdState = 2 then (m, { status := .errGated })
  else if c.launch.isNone ∨ off ≥ 32768 * c.share then (m, { status := .errDecode })
  else
    let (m, bad) := m.spadCheck slot (spadTouch off mask false)
    (m, if bad then { status := .errUncorrectable } else { status := .ok, img := m.spadLine slot off })

/-- A window of a local array written: refused while its core holds no launch, or beyond its share (R30). -/
def Mach.windowWrite (m : Mach) (slot off : Nat) (mask : LineMask) (img : LineImg) : Mach × Status :=
  let c := m.core slot
  if m.pdState = 2 then (m, .errGated)
  else if c.launch.isNone ∨ off ≥ 32768 * c.share then (m, .errDecode) else (m.spadWrite slot off mask img, .ok)

/-- The core slot and line offset of a device-local address in a local-array window (Table 1.3). -/
def windowAt (a : Nat) : Option (Nat × Nat) :=
  if 0x200000000000 ≤ a ∧ a < 0x200240000000 then
    some ((a - 0x200000000000) / 2 ^ 18, a % 2 ^ 18 / 128 * 128) else none

end Sys2Proof.Machine
end

