-- ==== Sys2Proof/Machine/Route.lean ====
section
/-! DEFINITION. Routes between dies (R21, R329) and between devices: the choice of a fabric port (R339), frames sent (R331), and the sending of
answers and of messages in transit (R339, R340). -/
namespace Sys2Proof.Machine

/-- The state of a link unit. -/
def Mach.luState (m : Mach) (die port unit : Nat) : Nat := m.fld (aUnit die port unit Reg.LU_STATE) 0 3
/-- The dies that traffic between two dies crosses: the row first, then the column (R21). -/
def crossing : Nat → Nat → Nat → List (Nat × Nat)
  | 0, _, _ => []
  | n + 1, a, b =>
    if a % 4 < b % 4 then (a, 1) :: crossing n (a + 1) b
    else if a % 4 > b % 4 then (a, 3) :: crossing n (a - 1) b
    else if a / 4 < b / 4 then (a, 2) :: crossing n (a + 4) b
    else if a / 4 > b / 4 then (a, 0) :: crossing n (a - 4) b
    else []

/-- The path across the module between two dies is intact (R329). -/
def Mach.intact (m : Mach) (a b : Nat) : Bool := (crossing 6 a b).all fun x => m.luState x.1 x.2 0 != 6

/-- A device declared dead (R348). -/
def Mach.dead (m : Mach) (dev : Nat) : Bool := m.bit (at_ 0 (Reg.FAB_DEAD_MAP + 4 * (dev / 32))) (dev % 32)

/-- The mask of fabric ports towards a device; the entries of this device's own group and member are ignored (R339). -/
def Mach.routeMask (m : Mach) (dev : Nat) : Nat :=
  let own := m.device
  if dev / 256 ≠ own / 256 then (m.rd (at_ 0 (Reg.FAB_GROUP_ROUTE + 4 * (dev / 256)))).toNat % 2 ^ 31
  else if dev % 256 = own % 256 then 0
  else (m.rd (at_ 0 (Reg.FAB_MEMBER_ROUTE + 4 * (dev % 256)))).toNat % 2 ^ 31

/-- The ports of a mask in ascending order. -/
def maskPorts (mask : Nat) : List Nat := (List.range 31).filter fun i => mask / 2 ^ i % 2 == 1

/-- The lanes of a fabric port have their clock. -/
def Mach.fpLanes (m : Mach) (fp : Nat) : Bool := let u := unitOf fp; m.lanesRun u.1 u.2.1

/-- The port a message leaves by (R339): the chosen ACTIVE port, or the lowest of the mask to wait at. `line` is the
device-local line at the destination. -/
def Mach.choosePort (m : Mach) (dev line : Nat) : Option (Nat × Bool) :=
  let ports := maskPorts (m.routeMask dev)
  match ports with
  | [] => none
  | p :: _ =>
    let act := ports.filter fun i => m.fpState i == 2 && m.fpLanes i
    match act with
    | [] => some (p, false)
    | q :: _ => some (act.getD (foldX 8 8 (dev * 2 ^ 39 + line) % act.length) q, true)

/-- The die of a fabric port. -/
def fpDie (fp : Nat) : Nat := (unitOf fp).1

/-! ### Messages as bytes (R333, R334, R480) -/

/-- The code of a message type (Table 12.5). -/
def typeCode : TType → Nat
  | .rd => 0x01 | .wr => 0x02 | .red => 0x03 | .atom => 0x04 | .rdata => 0x21 | .ack => 0x22 | .adata => 0x23

/-- An answer, which has a virtual channel of its own (R331). -/
def isAnswer (x : TMsg) : Bool := decide (typeCode x.typ ≥ 0x20)

/-- The 32-byte header of a message (Table 12.4). -/
def msgHeader (x : TMsg) : List Byte :=
  bytesOf (x.dst.toNat + 2 ^ 18 * typeCode x.typ + 2 ^ 24 * x.status.code.toNat) 4 ++
  bytesOf (x.src.toNat + 2 ^ 18 * x.hops.toNat + 2 ^ 23 * x.failed.toNat + 2 ^ 24 * x.urg.toNat + 2 ^ 25 * x.enc.toNat) 4 ++
  bytesOf x.addr.toNat 8 ++ bytesOf (x.entry.toNat + 2 ^ 11 * x.port.toNat) 4 ++
  bytesOf (x.kslot.toNat + 2 ^ 16 * x.epoch.toNat) 4 ++ bytesOf 0 8

/-- The payload of a message (Table 12.5); an answer that failed carries none (R334). -/
def msgPayload (x : TMsg) : List Byte :=
  let ctl := x.func.toNat + 16 * x.ty.toNat
  match x.typ with
  | .rd | .ack => []
  | .wr => bytesOf x.mask.toNat 16 ++ bytesOf x.img.toNat 128
  | .red => bytesOf (ctl + 2 ^ 32 * x.words.toNat) 8 ++ bytesOf x.img.toNat 128
  | .atom => bytesOf (ctl + 256 * x.entries.length) 8 ++ x.entries.flatMap fun e =>
      bytesOf e.off.toNat 8 ++ bytesOf e.op0.toNat 8 ++ bytesOf e.op1.toNat 8
  | .rdata => if x.status.isError then [] else bytesOf x.img.toNat 128
  | .adata => if x.status.isError then [] else x.results.flatMap fun r => bytesOf r.toNat 8

/-- Bytes filled up to whole units of 16 (R333). -/
def pad16 (bs : List Byte) : List Byte := bs ++ List.replicate ((16 - bs.length % 16) % 16) 0

/-- The IV of the next message of a partition that a die seals (R480). -/
def Mach.sealIv (m : Mach) (p die : Nat) : List Byte :=
  bytesOf (m.device + 2 ^ 18 * die) 3 ++ bytesOf ((m.key p).ctr.get die 0) 8 ++ [0]

/-- The message counter of a die for a partition's fabric slot advanced (R480). -/
def Mach.sealCount (m : Mach) (p die : Nat) : Mach :=
  let k := m.key p
  m.setKey p { k with ctr := k.ctr.put die (k.ctr.get die 0 + 1) }

/-- The current epoch of a partition's fabric slot (R480, R482). -/
def Mach.epoch (m : Mach) (p : Nat) : Nat := m.fld (at_ 0 (Reg.SEC_KSLOT_4 + 0x10 * p)) 0 16

/-- The bytes of a message that a die makes for a partition: a payload to be encrypted is sealed under the fabric key of the
message's epoch, with header bytes 0 to 23 as additional data, `hops` and `failed` as zero (R480). -/
def Mach.wireOwn (m : Mach) (p die : Nat) (x : TMsg) : Mach × List Byte :=
  if !x.enc then (m, pad16 (msgHeader x ++ msgPayload x))
  else
    let k := m.key p
    let key := if x.epoch.toNat = m.epoch p then k.cur else k.prev
    let aad := (msgHeader { x with hops := 0, failed := false }).take 24
    (m.sealCount p die, pad16 (msgHeader x ++ Config.gcmSeal (key.getD 0) (m.sealIv p die) aad (msgPayload x)))

/-- The bytes of a message in transit, whose payload goes on as it came (R340). -/
def wireOn (x : TMsg) : List Byte := pad16 (msgHeader x ++ msgPayload x ++ if x.enc then bytesOf x.tag.toNat 16 else [])

/-! ### Crossings and frames of a fabric port (R42, R44, R331) -/

/-- Flits of 64 bytes that a message takes. -/
def flitsOf (n : Nat) : Nat := (n + 63) / 64
/-- Flits that the messages of a crossing take. -/
def TxMsg.flits (ts : List TxMsg) : Nat := ts.foldl (fun n t => n + flitsOf t.wire.length) 0

/-- Messages moved into a crossing in order, while it has room. -/
def intake (room : Nat) : List TxMsg → List TxMsg × List TxMsg
  | [] => ([], [])
  | t :: ts =>
    let n := flitsOf t.wire.length
    if n ≤ room then (t :: (intake (room - n) ts).1, (intake (room - n) ts).2) else ([], t :: ts)

/-- The crossing of a unit's two lane groups, 64 flits deep each, takes what the die network holds for it. -/
def PortSt.flow (p : PortSt) : PortSt :=
  let r := intake (128 - TxMsg.flits p.tx) p.held
  { p with tx := p.tx ++ r.1, held := r.2 }

/-- The partner has a credit for a message's virtual channel. -/
def PortSt.mayFrame (p : PortSt) (t : TxMsg) : Bool := if isAnswer t.msg then p.credAns != 0 else p.credReq != 0

/-- The message that is framed next: the first of the crossing whose virtual channel has a credit, so that answers never wait for
request credits; none while the replay buffer of 64 frames is full (R331, Table 12.2). -/
def PortSt.frameNext (p : PortSt) : Option (TxMsg × PortSt) :=
  if p.unacked.length ≥ 64 then none
  else match p.tx.findIdx? p.mayFrame with
    | none => none
    | some i => (p.tx[i]?).map fun t =>
      (t, { p with
        tx := p.tx.eraseIdx i
        unacked := p.unacked ++ [t]
        txSeq := p.txSeq + 1
        credReq := if isAnswer t.msg then p.credReq else p.credReq - 1
        credAns := if isAnswer t.msg then p.credAns - 1 else p.credAns })

/-- A frame sent, of 16 flits (Table 12.2). -/
def Mach.sendFrame (m : Mach) (fp seq : Nat) (t : TxMsg) : Mach :=
  (m.count64 (aFp fp Reg.LU_FLIT_TX_CNT) 16).emit (.transport fp seq t.wire)

/-- An ACTIVE port frames the messages of its crossing as far as it may, one in each frame (log 46). -/
def Mach.pump (m : Mach) (fp : Nat) : Nat → Mach
  | 0 => m
  | n + 1 =>
    let p := (m.port fp).flow
    let m := m.setPort fp p
    if m.fpState fp ≠ 2 ∨ m.fpLanes fp = false then m
    else match p.frameNext with
      | none => m
      | some (t, p') => ((m.setPort fp p').sendFrame fp p.txSeq t).pump fp n

/-- The messages that a port has yet to frame, framed as far as they may be. -/
def Mach.pumpAll (m : Mach) (fp : Nat) : Mach :=
  let p := m.port fp
  m.pump fp (p.tx.length + p.held.length + 1)

/-- A message given to a port. -/
def Mach.transmit (m : Mach) (fp : Nat) (t : TxMsg) : Mach :=
  let p := m.port fp
  (m.setPort fp { p with held := p.held ++ [t] }).pumpAll fp

/-- A message discarded at a port and counted (R340). -/
def Mach.discardAt (m : Mach) (fp : Nat) : Mach := m.count64 (aFp fp Reg.LU_DISCARD_CNT) 1

/-- An answer or a message in transit sent on towards its device (R339, R340): it is given to its port, waits for one,
or is discarded; so is one in transit that cannot cross the module (R329). -/
def Mach.sendOn (m : Mach) (fp : Nat) (t : TxMsg) : Mach :=
  match m.choosePort t.msg.dst.toNat (t.msg.addr.toNat / 128) with
  | none => m.discardAt fp
  | some (p, up) =>
    if !m.intact t.die (fpDie p) then m.discardAt fp
    else if up then m.transmit p t
    else { m with transit := m.transit ++ [⟨p, t, m.now (fpDie p)⟩] }

end Sys2Proof.Machine
end

