-- ==== Sys2Proof/Machine/Home.lean ====
section
/-! DEFINITION. The home controller: home ways and victims (R235 to R241), the performance of reads, writes, atomics
and reductions at a line's home (R180 to R189, R249 to R254, R306, R529), the directory (Tables 10.5, 10.6), and the line
actions of range operations (R257 to R261). -/
namespace Sys2Proof.Machine

/-! ### Requests as a home sees them -/

/-- A question about a request of the array, a fabric port or an engine; false of any other. -/
def Mach.askReq (m : Mach) (r : HReq) (p : Req → Bool) : Bool :=
  match r with
  | .req rid => match m.req? rid with
    | some q => p q
    | none => false
  | _ => false

/-- The home die of a line. -/
def Mach.hd (m : Mach) (line : Nat) : Nat := (homeOf m.interleave line).1
/-- The home channel of a line. -/
def Mach.hc (m : Mach) (line : Nat) : Nat := (homeOf m.interleave line).2.1
/-- The set of a line. -/
def Mach.lineSet (m : Mach) (line : Nat) : Nat := setOf (homeOf m.interleave line).2.2

/-- The port a request comes through: the requester's die, or 16 for the companion (R265). -/
def Mach.hport (m : Mach) (r : HReq) (home : Nat) : Nat :=
  match r with
  | .req rid => match m.req? rid with
    | some q => q.die
    | none => home
  | .rds d _ => d
  | .cmpRds | .cmpOwn | .cmpUpg | .cmpRead _ _ | .cmpWrite _ _ => 16
  | .range _ _ _ => home

/-- Kinds of request that change the line (the note to Table 10.5). -/
def RKind.writes : RKind → Bool
  | .store | .red | .atom | .stc | .log => true
  | _ => false

/-- A request that changes the line. -/
def Mach.hwrites (m : Mach) (r : HReq) : Bool :=
  match r with
  | .cmpWrite _ _ => true
  | _ => m.askReq r fun q => q.kind.writes

/-- A .STRM load, which allocates no way (R239). -/
def Mach.hstrm (m : Mach) (r : HReq) : Bool := m.askReq r fun q => q.strm && q.kind == .load

/-- Latency-critical reads (R246). -/
def Mach.hcritical (m : Mach) (r : HReq) : Bool :=
  match r with
  | .rds _ crit => crit
  | _ => m.askReq r fun q => q.critical

/-- A reduce-store request. -/
def Mach.hred (m : Mach) (r : HReq) : Option Req :=
  match r with
  | .req rid => match m.req? rid with
    | some q => if q.kind == .red then some q else none
    | none => none
  | _ => none

/-- A write that covers the whole line, which needs no read (R529). -/
def Mach.hwhole (m : Mach) (r : HReq) : Bool :=
  match r with
  | .cmpWrite mask _ => mask == BitVec.allOnes 128
  | _ => m.askReq r fun q => q.kind == .store && q.mask == BitVec.allOnes 128

/-- The range operation of a queue. -/
def Mach.rangeOf? (m : Mach) (q : Nat) : Option RangeOp := m.ranges.find? (·.q == q)
/-- A change of a queue's range operation. -/
def Mach.updRange (m : Mach) (q : Nat) (f : RangeOp → RangeOp) : Mach :=
  { m with ranges := m.ranges.map fun o => if o.q = q then f o else o }

/-- The partition that a request is made for, or 32 where it is made for none (R403). -/
def Mach.hpart (m : Mach) (r : HReq) (line : Nat) : Nat :=
  let ofReq (rid : Nat) : Nat := match m.req? rid with
    | some q => (match q.src with
      | .notice _ _ | .log _ => 32
      | _ => q.part)
    | none => 32
  match r with
  | .req rid => ofReq rid
  | .rds d _ => match (m.tints.get? (d * 2 ^ 40 + line)).bind (·.waiting.head?) with
    | some rid => ofReq rid
    | none => 32
  | .range q _ _ => q / 64
  | _ => 32

/-- A coherence message on its way to an agent; one to the companion also leaves on its link. -/
def Mach.csend (m : Mach) (x : CMsg) : Mach :=
  let m := { m with net := m.net ++ [x] }
  if x.toA = 16 then m.emit (.coherence x) else m

/-! ### Answers -/

/-- The answer message of a request of another device (Table 12.5). -/
def answerMsg (dev : Nat) (failed sable : Bool) (q : TMsg) (a : Answer) : TMsg :=
  let ok := !a.status.isError
  { q with
    typ := match q.typ with
      | .rd => .rdata
      | .atom => .adata
      | _ => .ack
    dst := q.src, src := BitVec.ofNat 18 dev, status := a.status, failed := failed, hops := 31
    enc := sable && ok && (q.typ == .rd || q.typ == .atom)
    img := if ok && q.typ == .rd then a.img else 0
    mask := 0, entries := [], words := 0
    results := if ok then a.res else [] }

/-- The die of this module that serves a request at a device-local address, or the die of the port it came by. -/
def Mach.servingDie (m : Mach) (fp a : Nat) : Nat :=
  if a < 128 * allLines then m.hd (a / 128)
  else match windowAt a with
    | some w => dieOfSlot w.1
    | none => fpDie fp

/-- An answer of this device to a request of another (R334, R480). -/
def Mach.answerFabric (m : Mach) (fp part : Nat) (x : TMsg) (a : Answer) : Mach :=
  let y := answerMsg m.device m.failedDegraded (m.sable part) x a
  let die := m.servingDie fp x.addr.toNat
  let r := m.wireOwn part die y
  r.1.sendOn fp ⟨y, none, true, die, r.2⟩

/-- The answer of a request that waits for no page log: held for its core, mover, walk or queue, or sent to the device that
asked (R334). A load that was outstanding when its group was pre-empted is discarded (R193). -/
def Mach.holdAnswer (m : Mach) (rid : Nat) (a : Answer) : Mach :=
  match m.req? rid with
  | none => m
  | some q =>
    match q.src with
    | .fabric port msg => (m.dropReq rid).answerFabric port q.part msg a
    | .notice dm src => (m.dropReq rid).dropNotice dm src q.line a.status
    | .log _ => m.dropReq rid
    | _ =>
      match q.kind, q.saved with
      | .pfSlice, _ | .load, some _ | .fetch, some _ | .pfL1, some _ => m.dropReq rid
      | _, _ => m.updReq rid fun q => if q.ans.isSome then q else { q with ans := some a, atHome := true, joined := false }

/-- The answer that waited for a page to be logged (R419). -/
def Mach.finish (m : Mach) (d : After) : Mach :=
  match d with
  | .nothing => m
  | .req rid a => m.holdAnswer rid a
  | .companion line => m.emit (.cmpAnswer (128 * line) .ok 0)

/-- The answer given to a request; that of a page's logging lets the write it logs be answered (R419). -/
def Mach.giveAnswer (m : Mach) (rid : Nat) (a : Answer) : Mach :=
  match m.req? rid with
  | none => m
  | some q => match q.src with
    | .log d => (m.dropReq rid).finish d
    | _ => m.holdAnswer rid a

/-- A line action of a range operation is over, or could not be carried out under a status (R258). -/
def Mach.rangeEnd (m : Mach) (q seq : Nat) (f : RangeOp → RangeOp) : Mach :=
  m.updRange q fun o => if o.seq = seq then f { o with sent := o.sent - 1 } else o

/-- The outcome of a home request that fails with a status. -/
def Mach.failReq (m : Mach) (line : Nat) (r : HReq) (st : Status) : Mach :=
  match r with
  | .req rid => m.giveAnswer rid { status := st }
  | .rds d _ => m.csend { code := 0x2B, fromA := m.hd line, toA := d, line := line }
  | .cmpRds | .cmpOwn | .cmpUpg =>
    if st = .errPoison then m.csend { code := 0x2B, fromA := m.hd line, toA := 16, line := line }
    else m.emit (.cmpAnswer (128 * line) st 0)
  | .cmpRead a _ => m.emit (.cmpAnswer a st 0)
  | .cmpWrite _ _ => m.emit (.cmpAnswer (128 * line) st 0)
  | .range q seq _ => m.rangeEnd q seq fun o => { o with err := some (o.err.getD st) }

/-! ### Reductions and atomics on values -/

/-- ADD.BF16 of one half (R183). -/
def bf16Add (a b : Nat) : Nat := Fmt.bf16.encode .rn false ((Fmt.bf16.decode a).add (Fmt.bf16.decode b))

/-- One combination of an atomic or reduce operation (Table 7.5, R183): the old value and the operand. -/
def atomCombine (func ty : Nat) (old x : W64) : W64 :=
  let o := tyInt ty old
  let y := tyInt ty x
  let f (g : W32 → W32 → W32) : W64 := (g (old.setWidth 32) (x.setWidth 32)).setWidth 64
  match func with
  | 0 => if ty = 6 then f fAdd else old + x
  | 1 => if ty = 6 then f fMin else if o ≤ y then old else x
  | 2 => if ty = 6 then f fMax else if o ≤ y then x else old
  | 3 => old &&& x
  | 4 => old ||| x
  | 5 => old ^^^ x
  | 6 => x
  | _ => BitVec.ofNat 64 (bf16Add (old.toNat % 65536) (x.toNat % 65536)
      + 65536 * bf16Add (old.toNat / 65536 % 65536) (x.toNat / 65536 % 65536))

/-- Width in bytes of an operation's element: 4, or 8 for 64-bit types. -/
def atomBytes (ty : Nat) : Nat := tyWidth ty / 8

/-- The lanes of one ATOM performed in order (R185): results and the line after; a poisoned word stops it (R306). -/
def atomLanes (func ty : Nat) (psn : BitVec 16) : List Elt → LineImg → Option (List W64 × LineImg)
  | [], img => some ([], img)
  | e :: es, img =>
    if psn.getLsbD (e.off / 8) then none
    else
      let n := atomBytes ty
      let old := BitVec.ofNat 64 (lnum img e.off n)
      let new := if func = 7 then (if lnum img e.off n = e.op0.toNat % 2 ^ (8 * n) then e.op1 else old)
                 else atomCombine func ty old e.op0
      match atomLanes func ty psn es (lput img e.off n new.toNat) with
      | some (rs, i) => some (old :: rs, i)
      | none => none

/-- Contributions combined into a line's bytes in place; a poisoned word stays poisoned (R249, R306). -/
def redLanes (func ty : Nat) (psn : BitVec 16) (es : List Elt) (img : LineImg) : LineImg :=
  es.foldl (fun img e =>
    if psn.getLsbD (e.off / 8) then img
    else lput img e.off (atomBytes ty) (atomCombine func ty (BitVec.ofNat 64 (lnum img e.off (atomBytes ty))) e.op0).toNat) img

/-- The identity value of the Combining state (Table 9.3). -/
def combIdentity (func ty : Nat) : W64 :=
  let w := tyWidth ty
  let ones : W64 := BitVec.ofNat 64 (2 ^ w - 1)
  match func with
  | 0 => if ty = 6 then 0x80000000 else 0
  | 1 => if ty = 6 then 0x7FC00000 else if tySigned ty then BitVec.ofNat 64 (2 ^ (w - 1) - 1) else ones
  | 2 => if ty = 6 then 0x7FC00000 else if tySigned ty then BitVec.ofNat 64 (2 ^ (w - 1)) else 0
  | 3 => ones
  | 8 => 0x80008000
  | _ => 0

/-- The 4-byte words an element touches. -/
def eltWords (ty : Nat) (e : Elt) : List Nat :=
  if atomBytes ty = 8 then [e.off / 4, e.off / 4 + 1] else [e.off / 4]

/-- A contribution meets only words unrecorded or recorded with its own operation and type (R251). -/
def combFits (comb : Tab CombRec) (func ty : Nat) (es : List Elt) : Bool :=
  es.all fun e => (eltWords ty e).all fun w => match comb.get? w with
    | some r => r == ⟨func, ty⟩
    | none => true

/-- Contributions combined into a Combining line (R250, R251). -/
def combAdd (func ty : Nat) : List Elt → Tab CombRec × LineImg → Tab CombRec × LineImg
  | [], x => x
  | e :: es, (comb, img) =>
    let n := atomBytes ty
    let fresh := (comb.get? (e.off / 4)).isNone
    let old := if fresh then combIdentity func ty else BitVec.ofNat 64 (lnum img e.off n)
    let comb := (eltWords ty e).foldl (fun c w => c.put w ⟨func, ty⟩) comb
    combAdd func ty es (comb, lput img e.off n (atomCombine func ty old e.op0).toNat)

/-- A Combining line merged with its base (R252 to R254): recorded words combine base and contribution; a poisoned
base word stays poisoned. A recorded pair is merged once, from its even word. -/
def combMerge (comb : Tab CombRec) (img base : LineImg) (psn : BitVec 16) : LineImg :=
  comb.foldl (fun (acc : LineImg) x =>
    let w := x.1
    let r := x.2
    let n := atomBytes r.ty
    if psn.getLsbD (w / 2) || (n == 8 && w % 2 == 1) then acc
    else lput acc (4 * w) n (atomCombine r.func r.ty (BitVec.ofNat 64 (lnum base (4 * w) n))
      (BitVec.ofNat 64 (lnum img (4 * w) n))).toNat) base

/-! ### Reservations (R187 to R189) -/

/-- The reservation record of a line at its home. -/
def Mach.resvLine (m : Mach) (hd hc line : Nat) : ResvLine := (m.slice hd hc).resv.get line {}
def Mach.setResv (m : Mach) (hd hc line : Nat) (r : ResvLine) : Mach :=
  let s := m.slice hd hc
  m.setSlice hd hc { s with resv := if r = {} then s.resv.del line else s.resv.put line r }

/-- The lease of a line that has not expired. -/
def Mach.liveLease (m : Mach) (hd : Nat) (r : ResvLine) : Option Lease :=
  match r.lease with
  | some l => if m.now hd ≤ l.until_ then some l else none
  | none => none

/-- A write by an agent ends every other group's reservation of the line (R188). -/
def Mach.breakResv (m : Mach) (hd hc line : Nat) (by_ : Option (Nat × Nat)) : Mach :=
  match (m.slice hd hc).resv.get? line with
  | none => m
  | some r => m.setResv hd hc line { r with holders := r.holders.filter fun h => some h == by_ }

/-- A group gives up its reservations everywhere (R188). -/
def Mach.loseResv (m : Mach) (slot g : Nat) : Mach :=
  let m := m.updGroup slot g fun x => { x with resv := none }
  { m with slices := m.slices.mapV fun s =>
      { s with resv := s.resv.mapV fun r => { r with holders := r.holders.filter (· != (slot, g)) } } }

/-- An LDR at its home: a reservation unless the slice's table of 64 lines is full, and a lease unless another group
holds one or stands first in the list (R187 to R189). A group that a debugger halts after this one step keeps none. -/
def Mach.reserve (m : Mach) (hd hc line slot g : Nat) : Mach :=
  let s := m.slice hd hc
  let halted := match m.group? slot g with
    | some x => x.stat == .haltDebug
    | none => false
  if halted || ((s.resv.get? line).isNone && decide (s.resv.length ≥ 64)) then m
  else
    let r := s.resv.get line {}
    let mine := (slot, g)
    let r := { r with holders := if r.holders.contains mine then r.holders else r.holders ++ [mine] }
    let free := match m.liveLease hd r with
      | some l => (l.slot, l.group) == mine
      | none => r.list.isEmpty || r.list.head? == some mine
    let r := if free then { r with lease := some ⟨slot, g, m.now hd + 100⟩, list := r.list.filter (· != mine) } else r
    m.setResv hd hc line r

/-- Whether an STC of a group may succeed at its home (R187): it holds the reservation and no other group a lease. -/
def Mach.stcMay (m : Mach) (hd hc line slot g : Nat) : Bool :=
  let r := m.resvLine hd hc line
  r.holders.contains (slot, g) && (match m.liveLease hd r with
    | some l => (l.slot, l.group) == (slot, g)
    | none => true)

/-- The reservation record after an STC, which ends its group's reservation (R188) and lists a group that failed
because of another's lease (R189). -/
def Mach.stcEnd (m : Mach) (hd hc line slot g : Nat) : Mach :=
  let r := m.resvLine hd hc line
  let other := match m.liveLease hd r with
    | some l => (l.slot, l.group) != (slot, g)
    | none => false
  let list := if other && !r.list.contains (slot, g) && decide (r.list.length < 64) then r.list ++ [(slot, g)] else r.list
  let lease := match r.lease with
    | some l => if (l.slot, l.group) == (slot, g) then none else some l
    | none => none
  m.setResv hd hc line { r with holders := r.holders.filter (· != (slot, g)), lease := lease, list := list }

/-! ### Home ways -/

/-- The slice's tint way count (R235, R245). -/
def Mach.tintWays (m : Mach) (die ch : Nat) : Nat := m.fld (aSlice die ch Reg.SLICE_STATUS) 0 3
/-- Ways that a slice keeps from its home lines: its tint ways, or those of a change under way when they are more (R245). -/
def Mach.tintHeld (m : Mach) (die ch : Nat) : Nat := max (m.tintWays die ch) ((m.slice die ch).tintNew.getD 0)
/-- Ways that a slice fills with replicas: the fewer of its tint ways and those of a change under way (R245). -/
def Mach.tintOpen (m : Mach) (die ch : Nat) : Nat := min (m.tintWays die ch) ((m.slice die ch).tintNew.getD 14)

/-- The lines of a slice. -/
def Mach.sliceLines (m : Mach) (die ch : Nat) : List (Nat × HomeLine) :=
  m.lines.filter fun x => let h := homeOf m.interleave x.1; h.1 == die && h.2.1 == ch
/-- The lines of a set of a slice. -/
def Mach.setLines (m : Mach) (die ch set : Nat) : List (Nat × HomeLine) :=
  (m.sliceLines die ch).filter fun x => m.lineSet x.1 == set
/-- The pinned lines of a set. -/
def pinsIn (ls : List (Nat × HomeLine)) : Nat := (ls.filter fun x => x.2.pin.isSome).length
/-- Lines pinned by a partition in a slice (`SLICE_PIN_USED`). -/
def Mach.pinUsed (m : Mach) (die ch p : Nat) : Nat := ((m.sliceLines die ch).filter fun x => x.2.pin == some p).length

/-- The class of a victim (R238): Clean, Dirty, Combining. -/
def victimRank (l : HomeLine) : Nat :=
  match l.st with
  | .clean => 0 | .dirty => 1 | .combining => 2 | .filling => 3

/-- A line that may be chosen as a victim in one of the ways below `ways` (R238, R261, Table 10.6). -/
def HomeLine.victim (h : HomeLine) (ways : Nat) : Bool :=
  h.pin.isNone && h.pend.isNone && h.st != .filling && (match h.way with
    | some w => decide (w < ways)
    | none => false)

/-- The victim of a set: the least class, and in it the least recently used (R238). -/
def pickVictim (ls : List (Nat × HomeLine)) (ways : Nat) : Option Nat :=
  (ls.foldl (fun (best : Option (Nat × HomeLine)) x =>
    if !x.2.victim ways then best
    else match best with
      | none => some x
      | some b =>
        if victimRank x.2 < victimRank b.2 ∨ (victimRank x.2 = victimRank b.2 ∧ x.2.stamp < b.2.stamp) then some x
        else best) none).map (·.1)

/-- The lowest Invalid way of a set below `ways`. -/
def freeWay (ls : List (Nat × HomeLine)) (ways : Nat) : Option Nat :=
  (List.range ways).find? fun w => !ls.any fun x => x.2.way == some w

/-- A home line's entry. -/
def Mach.hline? (m : Mach) (line : Nat) : Option HomeLine := m.lines.get? line
def Mach.setHline (m : Mach) (line : Nat) (h : HomeLine) : Mach := { m with lines := m.lines.put line h }
def Mach.delHline (m : Mach) (line : Nat) : Mach := { m with lines := m.lines.del line }

/-- The line marked as the most recently used. -/
def Mach.touchLine (m : Mach) (line : Nat) : Mach :=
  { m with lines := m.lines.upd line (fun h => { h with stamp := m.lineStamp + 1 }), lineStamp := m.lineStamp + 1 }

/-- The channel of a line takes requests, or the status with which it refuses them (R292); one that drains before OFFLINE takes
none (R319). -/
def Mach.chanBar (m : Mach) (hd hc : Nat) : Option Status :=
  if (m.chan hd hc).toOff then some .busyCalibrating else chanRefuses (m.chanState hd hc)

/-- How many words a mark names. -/
def wordCount (x : BitVec 16) : Nat := ((List.range 16).filter fun i => x.getLsbD i).length

/-- `SLICE_ERR_STATUS` bit set with the line and the time of the event (Table 9.8). -/
def Mach.sliceErr (m : Mach) (hd hc line bit : Nat) : Mach :=
  ((m.setBit (aSlice hd hc Reg.SLICE_ERR_STATUS) bit true).wr64 (aSlice hd hc Reg.SLICE_ERR_ADDR)
    (BitVec.ofNat 64 (128 * line))).wr64 (aSlice hd hc Reg.SLICE_ERR_TIME) (BitVec.ofNat 64 (m.now hd))

/-- Words of a way of a slice read, with a correctable or an uncorrectable error in some: the events are counted and flagged
(Table 9.2); `keeps` says that the way holds the only copy. -/
def Mach.noteWay (m : Mach) (die ch line : Nat) (soft bad : BitVec 16) (keeps : Bool) : Mach :=
  let m := if soft = 0 then m else
    (m.count64 (aSlice die ch Reg.SLICE_ECC_CORR_CNT) (wordCount soft)).setBit (aSlice die ch Reg.SLICE_ERR_STATUS) 0 true
  if bad = 0 then m
  else
    let m := m.count64 (aSlice die ch Reg.SLICE_ECC_UNCORR_CNT) (wordCount bad)
    if keeps then m.sliceErr die ch line 2 else m.setBit (aSlice die ch Reg.SLICE_ERR_STATUS) 1 true

/-- The data of a line's way read (Table 9.2): corrected errors are gone, the words of a Dirty or Combining line that are lost
take the poison pattern, and those of a Clean line keep their mark until the line is read again. -/
def Mach.scanWay (m : Mach) (line : Nat) (h : HomeLine) : Mach × HomeLine :=
  if h.soft = 0 ∧ h.bad = 0 then (m, h)
  else
    let m := m.noteWay (m.hd line) (m.hc line) line h.soft h.bad (h.st != .clean)
    (m, if h.st = .clean then { h with soft := 0 } else { h with soft := 0, bad := 0, psn := h.psn ||| h.bad })

/-- A line's value written to its channel (R240). -/
def Mach.writeBack (m : Mach) (line : Nat) (h : HomeLine) : Mach :=
  let hd := m.hd line
  let hc := m.hc line
  let (m, h) := m.scanWay line h
  (m.chanPush hd hc (.write line h.img h.psn)).count64 (aSlice hd hc Reg.SLICE_WB_CNT) 1

/-- Sharers of a directory vector, in agent order. -/
def sharerList (v : BitVec 17) : List Nat := (List.range 17).filter fun e => v.getLsbD e

/-- Probes sent to agents, with the counters of Table 10.8; each is timed from now (R284). -/
def Mach.probe (m : Mach) (hd line code : Nat) (agents : List Nat) : Mach × List (Nat × Nat) :=
  let m := agents.foldl (fun m a => m.csend { code := code, fromA := hd, toA := a, line := line }) m
  let cnt := if code = 0x12 then Reg.HOME_SNP_CNT else Reg.HOME_INV_CNT
  (m.count64 (at_ hd cnt) agents.length, agents.map fun a => (a, m.now hd))

/-- A protocol error at a home (R273). -/
def Mach.homeProto (m : Mach) (hd hc line msg agent state : Nat) : Mach :=
  let m := if m.rd (at_ hd Reg.HOME_PROTO_ERR) ≠ 0 then m else
    (m.wr (at_ hd Reg.HOME_PROTO_ERR) (BitVec.ofNat 32 (msg + 256 * agent + 8192 * hc + 2 ^ 19 * state))).wr64
      (at_ hd Reg.HOME_PROTO_ADDR) (BitVec.ofNat 64 (128 * line))
  m.fatal hd 0x03 hd 0 0x03

/-- A protocol error at a tint controller (R273). -/
def Mach.tintProto (m : Mach) (die home line msg state : Nat) : Mach :=
  let m := if m.rd (at_ die Reg.TINT_PROTO_ERR) ≠ 0 then m else
    (m.wr (at_ die Reg.TINT_PROTO_ERR) (BitVec.ofNat 32 (msg + 256 * home + 4096 * state))).wr64
      (at_ die Reg.TINT_PROTO_ADDR) (BitVec.ofNat 64 (128 * line))
  m.fatal die 0x03 die 0 0x03

/-- The code of a directory state in `HOME_PROTO_ERR`: the column of Table 10.5. -/
def dcode (h : Option HomeLine) : Nat :=
  match h with
  | none => 0
  | some h => match h.pend with
    | some (.wM _) => 5
    | some (.wF _ _ _) => 6
    | some (.wA _ _ _ _) => 7
    | some (.wR _ _) => 0
    | none => match h.dir with
      | .h => 1 | .s => 2 | .x => 3 | .o => 4

/-! ### Performing a request on a stable line -/

/-- The status a read of some words gets: poisoned words rank before words found uncorrectable now (R16, R307). -/
def readStatus (mask : LineMask) (psn unc : BitVec 16) : Status :=
  if wordsIn mask (psn &&& ~~~unc) then .errPoison
  else if wordsIn mask (psn &&& unc) then .errUncorrectable
  else .ok

/-- The group that made a request. -/
def Req.owner (q : Req) : Option (Nat × Nat) :=
  match q.src with
  | .group s g => some (s, g)
  | _ => none

/-- Answers awaited from agents before an action (W_A). -/
def Mach.await (m : Mach) (line code : Nat) (agents : List Nat) (act : Act) (h : HomeLine) : Mach :=
  let (m, due) := m.probe (m.hd line) line code agents
  m.setHline line { h with pend := some (.wA code due act false) }

/-- The bitmap line and the bit of a line whose writes are logged (R418, R419): its granule's partition uses page logging. -/
def Mach.logBit (m : Mach) (line : Nat) : Option (Nat × Nat) :=
  match m.granuleOwner (line / 2 ^ 23) with
  | none => none
  | some p =>
    let base := (m.rd64 (aPart p Reg.PART_LOG_BASE)).toNat
    if m.fld (aPart p Reg.PART_CFG) 9 2 = 1 ∧ base ≠ 0 then some (base / 128 + line / 512 / 1024, line / 512 % 1024) else none

/-- A write that has been performed is logged before its answer is given (R419): its home writes the bit at the home of its
bitmap line, with a request of its own. -/
def Mach.logThen (m : Mach) (line : Nat) (d : After) : Mach :=
  match m.logBit line with
  | none => m.finish d
  | some (bl, bit) =>
    if bl ≥ allLines then m.finish d
    else (m.newReq { kind := .log, src := .log d, die := m.hd line, part := 0, tgt := .home bl, line := bl, func := bit,
                     sent := true, tick := m.now (m.hd line) }).1

/-- A line read by a request of the array, a fabric port or an engine, at its home; an LDR reserves. -/
def Mach.performRead (m : Mach) (hd hc line rid : Nat) (q : Req) (h : HomeLine) : Mach :=
  let st := readStatus q.mask h.psn h.unc
  let a : Answer := { status := st, img := h.img, psn := h.psn }
  match q.kind, q.owner with
  | .ldr, some (s, g) => if st = .ok then (m.reserve hd hc line s g).giveAnswer rid a else m.giveAnswer rid a
  | _, _ => m.giveAnswer rid a

/-- A line whose bytes a write has changed (R278): Dirty, with directory state H. -/
def HomeLine.dirtied (h : HomeLine) (img : LineImg) (psn : BitVec 16) : HomeLine :=
  { h with st := .dirty, dir := .h, sharers := 0, f := none, img := img, psn := psn }

/-- A line written by a request, every replica gone (R278): the line becomes Dirty with directory state H. -/
def Mach.performWrite (m : Mach) (hd hc line : Nat) (r : HReq) (h : HomeLine) : Mach :=
  match r with
  | .cmpWrite mask img =>
    let m := m.setHline line (h.dirtied (lmerge mask h.img img) (psnAfter mask h.psn))
    (m.breakResv hd hc line none).logThen line (.companion line)
  | .req rid =>
    match m.req? rid with
    | none => m
    | some q =>
      match q.kind with
      | .log =>
        (m.setHline line (h.dirtied (h.img ||| (1#1024 <<< q.func)) h.psn)).giveAnswer rid { status := .ok }
      | .store =>
        let m := m.setHline line (h.dirtied (lmerge q.mask h.img q.img) (psnAfter q.mask h.psn ||| q.psnW))
        (m.breakResv hd hc line q.owner).logThen line (.req rid { status := .ok })
      | .red =>
        let m := m.setHline line (h.dirtied (redLanes q.func q.ty h.psn q.elts h.img) (h.psn ||| q.psnW))
        let m := m.count64 (aSlice hd hc Reg.SLICE_RED_CNT) 1
        (m.breakResv hd hc line q.owner).logThen line (.req rid { status := .ok })
      | .atom =>
        match atomLanes q.func q.ty h.psn q.elts h.img with
        | none => (m.setHline line { h with dir := .h, sharers := 0, f := none }).giveAnswer rid { status := .errPoison }
        | some (rs, img) =>
          let m := m.setHline line (h.dirtied img h.psn)
          (m.breakResv hd hc line q.owner).logThen line (.req rid { status := .ok, res := rs })
      | .stc =>
        match q.owner with
        | none => m
        | some (s, g) =>
          if wordsIn q.mask h.psn then (m.stcEnd hd hc line s g).giveAnswer rid { status := .errPoison }
          else if q.func = 0 ∧ m.stcMay hd hc line s g then
            let m := m.setHline line (h.dirtied (lmerge q.mask h.img q.img) h.psn)
            ((m.breakResv hd hc line (some (s, g))).stcEnd hd hc line s g).logThen line (.req rid { status := .ok, res := [0] })
          else (m.stcEnd hd hc line s g).giveAnswer rid { status := .ok, res := [1] }
      | _ => m
  | _ => m

/-- Who answers a tint read in state S (R268): the F holder to forward to, when one is recorded and nearer. -/
def Mach.forwarder (m : Mach) (hd r : Nat) (h : HomeLine) : Option Nat :=
  match h.f with
  | some f =>
    if !m.bit (at_ hd Reg.HOME_CTRL) 0 && decide (hops f r < hops hd r) && f != r then some f else none
  | none => none

/-- A line's data granted to a die or to the companion. -/
def Mach.grant (m : Mach) (hd line code dst : Nat) (h : HomeLine) : Mach :=
  m.csend { code := code, fromA := hd, toA := dst, line := line, img := h.img, psn := h.psn }

/-- The companion made the owner of a line (the brackets of Table 10.5 that end in X). -/
def Mach.toX (m : Mach) (hd line code : Nat) (h : HomeLine) : Mach :=
  (m.grant hd line code 16 h).setHline line { h with dir := .x, sharers := BitVec.ofNat 17 65536, f := none, pend := none }

/-! ### Range line actions -/

/-- Why a PIN is refused (R260): the set limit, or the partition's quota or another partition's pin (`true`). -/
def Mach.pinRefused (m : Mach) (die ch line p : Nat) : Option Bool :=
  match (m.hline? line).bind (·.pin) with
  | some o => if o = p then none else some true
  | none =>
    let ls := m.setLines die ch (m.lineSet line)
    let q := aSlice die ch Reg.SLICE_PIN_QUOTA + 8 * p
    if pinsIn ls + 1 > 10 - m.tintHeld die ch then some false
    else if (ls.filter fun x => x.2.pin == some p).length + 1 > m.fld q 0 4 then some true
    else if m.pinUsed die ch p + 1 > m.fld q 16 16 then some true
    else none

/-- A refused PIN counted in the report and at its slice (R260). -/
def Mach.refusePin (m : Mach) (die ch q seq va : Nat) (quota : Bool) : Mach :=
  (m.count64 (aSlice die ch Reg.SLICE_PIN_REFUSED_CNT) 1).rangeEnd q seq fun o =>
    let o := if o.refQuota + o.refSet = 0 ∨ va < o.first then { o with first := va } else o
    if quota then { o with refQuota := o.refQuota + 1 } else { o with refSet := o.refSet + 1 }

/-- The replicas that a PREFETCH asks for of a line: of each named die other than the home die whose slice has tint ways
(Table 9.6). -/
def Mach.tintsFor (m : Mach) (line dies : Nat) : List (Nat × Nat × Bool) :=
  ((List.range 16).filter fun e => dies / 2 ^ e % 2 == 1 && e != m.hd line && m.tintOpen e (m.hc line) != 0).map
    fun e => (e, line, false)

/-- A line action performed: one line done, the replicas of a PREFETCH asked for from now on, and the write that the report
then waits for (R258). -/
def Mach.rangeDid (m : Mach) (line q seq : Nat) (wrote : Bool) : Mach :=
  match m.rangeOf? q with
  | none => m
  | some o =>
    let ts := if o.op = 0 then m.tintsFor line o.dies else []
    m.rangeEnd q seq fun o => { o with
      done := o.done + 1
      tints := o.tints ++ ts
      wrote := if wrote then line :: o.wrote else o.wrote }

/-- A range operation's action on a stable line that is Clean or Dirty (Table 9.6). A FLUSH of a line that the companion owns
reads its copy first, as a plain read does; one of a line in O writes nothing (R275); an INVALIDATE of a pinned line acts as
FLUSH (R257). A write that its channel would refuse is not made. -/
def Mach.rangeStable (m : Mach) (hd hc line : Nat) (r : HReq) (q seq : Nat) (h : HomeLine) : Mach :=
  match m.rangeOf? q with
  | none => m
  | some o =>
    let dirty : Bool := h.st == .dirty
    let flush (m : Mach) : Mach :=
      if h.dir = .x then m.await line 0x12 [16] (.serve r) h
      else if h.dir = .o ∨ dirty = false then m.rangeDid line q seq false
      else match m.chanBar hd hc with
        | some st => m.failReq line r st
        | none => ((m.writeBack line h).setHline line { h with st := .clean }).rangeDid line q seq true
    match o.op with
    | 1 => flush m
    | 2 =>
      if h.pin.isSome then flush m
      else if h.sharers ≠ 0 then m.await line 0x10 (sharerList h.sharers) (.serve r) h
      else if dirty = false then (m.delHline line).rangeDid line q seq false
      else (match m.chanBar hd hc with
        | some st => m.failReq line r st
        | none => ((m.writeBack line h).delHline line).rangeDid line q seq true)
    | 3 => (m.setHline line { h with pin := some (h.pin.getD o.part) }).rangeDid line q seq false
    | 4 => (m.setHline line { h with pin := if h.pin = some o.part then none else h.pin }).rangeDid line q seq false
    | _ => m.rangeDid line q seq false

/-! ### One request on a stable line (Table 10.5) -/

/-- An STC that must fail: it writes nothing, so it disturbs no replica. -/
def Mach.stcFails (m : Mach) (hd hc line : Nat) (r : HReq) : Bool :=
  m.askReq r fun q => q.kind == .stc && (match q.owner with
    | some (s, g) => q.func != 0 || !m.stcMay hd hc line s g
    | none => false)

/-- One request on a stable line that its home way holds (Table 10.5): what it does at once, or the transient state it
begins. The line is not Combining. -/
def Mach.stable (m : Mach) (hd hc line : Nat) (r : HReq) (h : HomeLine) : Mach :=
  let dies := (sharerList h.sharers).filter (· != 16)
  let all := sharerList h.sharers
  if m.hwrites r then
    if m.stcFails hd hc line r then m.performWrite hd hc line r h
    else match h.dir with
    | .h => m.performWrite hd hc line r h
    | .s => if all.isEmpty then m.performWrite hd hc line r h else m.await line 0x10 all (.serve r) h
    | .x => m.await line 0x10 [16] (.serve r) h
    | .o => m.await line 0x10 (16 :: dies) (.serve r) h
  else match r with
    | .rds d _ =>
      let bit : BitVec 17 := 1#17 <<< d
      match h.dir with
      | .x => m.await line 0x12 [16] (.serve r) h
      | .s =>
        let h' := { h with sharers := h.sharers ||| bit, f := some d }
        match m.forwarder hd d h with
        | some f =>
          let m := m.csend { code := 0x11, fromA := hd, toA := f, line := line, die := d }
          (m.count64 (at_ hd Reg.HOME_FWD_CNT) 1).setHline line { h' with pend := some (.wF f (m.now hd) d) }
        | none => (m.grant hd line 0x28 d h).setHline line h'
      | .h => (m.grant hd line 0x28 d h).setHline line { h with dir := .s, sharers := bit, f := some d }
      | .o => (m.grant hd line 0x28 d h).setHline line { h with sharers := h.sharers ||| bit, f := some d }
    | .cmpRds =>
      match h.dir with
      | .h => m.toX hd line 0x2A h
      | .s => (m.grant hd line 0x29 16 h).setHline line { h with sharers := h.sharers ||| BitVec.ofNat 17 65536 }
      | _ => m.homeProto hd hc line 0x01 16 (dcode (some h))
    | .cmpOwn =>
      match h.dir with
      | .h => m.toX hd line 0x2A h
      | .s => if dies.isEmpty then m.toX hd line 0x2A h else m.await line 0x10 dies .dataE h
      | _ => m.homeProto hd hc line 0x02 16 (dcode (some h))
    | .cmpUpg =>
      let has := h.sharers.getLsbD 16
      let code := if has then 0x21 else 0x2A
      match h.dir with
      | .h => m.toX hd line 0x2A h
      | .x => m.homeProto hd hc line 0x03 16 (dcode (some h))
      | _ => if dies.isEmpty then m.toX hd line code h
             else m.await line 0x10 dies (if has then .grantE else .dataE) h
    | .cmpRead a n =>
      match h.dir with
      | .x => m.await line 0x12 [16] (.serve r) h
      | _ => m.emit (.cmpAnswer a (readStatus (maskRange (a % 128) n) h.psn h.unc) h.img)
    | .req rid =>
      match m.req? rid with
      | none => m
      | some q => match h.dir with
        | .x => m.await line 0x12 [16] (.serve r) h
        | _ => m.performRead hd hc line rid q h
    | .range q seq _ => m.rangeStable hd hc line r q seq h
    | _ => m

/-- A reduce-store taken into a Combining line (R250, R251); words that it marks as poisoned stay so (R200, R254). -/
def Mach.combineInto (m : Mach) (hd hc line rid : Nat) (q : Req) (h : HomeLine) : Mach :=
  let (comb, img) := combAdd q.func q.ty q.elts (h.comb, h.img)
  let m := m.setHline line { h with st := .combining, comb := comb, img := img, psn := h.psn ||| q.psnW }
  ((m.breakResv hd hc line q.owner).count64 (aSlice hd hc Reg.SLICE_RED_CNT) 1).logThen line (.req rid { status := .ok })

/-! ### Reads of the channel, and ways -/

/-- A request that a full queue delays (R293, R277) is shown in its job's record. -/
def Mach.slow (m : Mach) (r : HReq) : Mach :=
  match r with
  | .req rid => m.markSlow rid
  | .range q seq _ => m.updJob q seq fun j => { j with slowed := true }
  | _ => m

/-- A line of a slice read from its channel for a request; one that does not enter the channel's queue at once is delayed
(R293). -/
def Mach.fetchFor (m : Mach) (line : Nat) (r : HReq) : Mach :=
  let hd := m.hd line
  let hc := m.hc line
  let m := m.chanPush hd hc (.read line (m.hcritical r) (m.hpart r line))
  if (m.chan hd hc).fifo.isEmpty then m else m.slow r

/-- The base of a Combining line that must leave its way, or be merged for no request, read from its channel (R252). -/
def Mach.fetchBase (m : Mach) (line : Nat) (h : HomeLine) (act : Act) : Mach :=
  (m.chanPush (m.hd line) (m.hc line) (.read line false 32)).setHline line { h with pend := some (.wM act) }

/-- A victim whose replicas are gone leaves its way: a Dirty line is written to memory (R238, Table 10.5). -/
def Mach.freeVictim (m : Mach) (v : Nat) (h : HomeLine) : Mach :=
  let m := if h.st = .dirty then m.writeBack v h else m
  m.delHline v

/-- The entry allocated in a way for a request whose line is Invalid (R238, R239, R250, R529). -/
def Mach.allocate (m : Mach) (line : Nat) (r : HReq) (way : Option Nat) : Mach :=
  let hd := m.hd line
  let hc := m.hc line
  let m := { m with lineStamp := m.lineStamp + 1 }
  match m.hred r, r with
  | some q, .req rid => m.combineInto hd hc line rid q { st := .combining, way := way, stamp := m.lineStamp }
  | _, _ =>
    if m.hwhole r then m.performWrite hd hc line r { st := .dirty, way := way, stamp := m.lineStamp }
    else match m.chanBar hd hc with
      | some st => (m.delHline line).failReq line r st
      | none =>
        (m.fetchFor line r).setHline line { st := .filling, way := way, pend := some (.wM (.serve r)), stamp := m.lineStamp }

/-- The write to memory of a victim that made room for a line action is one that its packet caused (R258). -/
def Mach.wroteFor (m : Mach) (r : HReq) (v : Nat) (h : HomeLine) : Mach :=
  match r with
  | .range q seq _ =>
    if h.st = .dirty then m.updRange q fun o => if o.seq = seq then { o with wrote := v :: o.wrote } else o else m
  | _ => m

/-- A line placed in its set for a request that found it Invalid: in an Invalid way, or in that of a victim (R237, R238).
A victim with replicas or contributions leaves first, and the request waits; so it does while no way can be freed. A
victim whose write its channel would refuse stays where it is (R303). -/
def Mach.place (m : Mach) (line : Nat) (r : HReq) : Mach :=
  let hd := m.hd line
  let hc := m.hc line
  let ls := m.setLines hd hc (m.lineSet line)
  let ways := 14 - m.tintHeld hd hc
  let wait (m : Mach) (v : Bool) : Mach :=
    m.setHline line { (m.hline? line).getD {} with st := .filling, pend := some (.wR r v), stamp := m.lineStamp }
  match freeWay ls ways with
  | some w => m.allocate line r (some w)
  | none =>
    match (pickVictim ls ways).bind fun v => (m.hline? v).map fun h => (v, h) with
    | none => wait m false
    | some (v, h) =>
      match if h.st = .clean then none else m.chanBar hd hc with
      | some st => (m.delHline line).failReq line r st
      | none =>
        if h.st = .combining then wait (m.fetchBase v h (.victimFor line)) true
        else if h.sharers ≠ 0 then wait (m.await v 0x10 (sharerList h.sharers) (.victimFor line) h) true
        else ((m.wroteFor r v h).freeVictim v h).allocate line r h.way

/-- A request that reads the line's value, and so needs the data of its way. -/
def Mach.hreads (m : Mach) (r : HReq) : Bool :=
  match r with
  | .range q _ _ => match m.rangeOf? q with
    | some o => o.op == 1 || o.op == 2
    | none => false
  | .cmpUpg => false
  | _ => true

/-- A line action on a Combining line that leaves it Combining: PREFETCH, PIN and UNPIN (Table 9.6). -/
def Mach.rangeComb (m : Mach) (line q seq : Nat) (h : HomeLine) : Option Mach :=
  match m.rangeOf? q with
  | none => none
  | some o =>
    match o.op with
    | 0 => some (m.rangeDid line q seq false)
    | 3 => some ((m.setHline line { h with pin := some (h.pin.getD o.part) }).rangeDid line q seq false)
    | 4 => some ((m.setHline line { h with pin := if h.pin = some o.part then none else h.pin }).rangeDid line q seq false)
    | _ => none

/-- A request on a Combining line: a fitting contribution is combined (R251); any other request is a merge trigger, and waits
for the base (R252). -/
def Mach.onCombining (m : Mach) (line : Nat) (r : HReq) (h : HomeLine) : Mach :=
  let hd := m.hd line
  let hc := m.hc line
  let merge (m : Mach) : Mach := match m.chanBar hd hc with
    | some st => m.failReq line r st
    | none => (m.fetchFor line r).setHline line { h with pend := some (.wM (.serve r)) }
  match m.hred r, r with
  | some q, .req rid => if combFits h.comb q.func q.ty q.elts then m.combineInto hd hc line rid q h else merge m
  | _, .range q seq _ => (m.rangeComb line q seq h).getD (merge m)
  | _, _ => merge m

/-- A request served on a line that is not transient: performed, or its transient state begun. -/
def Mach.serve (m : Mach) (line : Nat) (r : HReq) : Mach :=
  let hd := m.hd line
  let hc := m.hc line
  let pin : Option Bool := match r with
    | .range q _ _ => (match m.rangeOf? q with
      | some o => if o.op = 3 then m.pinRefused hd hc line o.part else none
      | none => none)
    | _ => none
  match pin, r with
  | some quota, .range q seq va => m.refusePin hd hc q seq va quota
  | _, _ =>
    match m.hline? line with
    | some h0 =>
      let m := if m.hstrm r then m else m.touchLine line
      let h0 := (m.hline? line).getD h0
      let (m, h) := if m.hreads r && h0.dir != .x then m.scanWay line h0 else (m, h0)
      let m := if h0.soft = 0 ∧ h0.bad = 0 then m else m.setHline line h
      if h.st = .combining then m.onCombining line r h
      else if h.bad ≠ 0 ∧ m.hreads r ∧ h.dir ≠ .x then
        match m.chanBar hd hc with
        | some st => m.failReq line r st
        | none => (m.fetchFor line r).setHline line { h with st := .filling, pend := some (.wM (.serve r)) }
      else m.stable hd hc line r h
    | none =>
      let none_ : Bool := match r with
        | .range q _ _ => (match m.rangeOf? q with
          | some o => o.op != 0 && o.op != 3
          | none => true)
        | _ => false
      match none_, r with
      | true, .range q seq _ => m.rangeDid line q seq false
      | _, _ =>
        match if (m.hred r).isSome || m.hwhole r then none else m.chanBar hd hc with
          | some st => m.failReq line r st
          | none => if m.hstrm r then m.allocate line r none else m.place line r

/-- A request that begins: a hit or a miss is counted (Table 9.8), and it is served. -/
def Mach.begin_ (m : Mach) (line : Nat) (r : HReq) : Mach :=
  let cnt := if (m.hline? line).isSome then Reg.SLICE_HIT_CNT else Reg.SLICE_MISS_CNT
  (m.count64 (aSlice (m.hd line) (m.hc line) cnt) 1).serve line r

end Sys2Proof.Machine
end

