-- ==== Sys2Proof/Machine/Arrive.lean ====
section
/-! DEFINITION. How requests arrive at a home, wait there and are begun (R244, R247, R270 to R282), and how transient states
complete (R252 to R254, Tables 10.5 and 10.6). -/
namespace Sys2Proof.Machine

/-! ### Messages in flight -/

/-- The class of a coherence message (Table 10.2): Req, Put, Prb, Rsp or Dat. -/
def msgClass (code : Nat) : Nat := if code < 0x20 then code / 8 else if code < 0x28 then 3 else 4

/-- Two messages that keep the order in which they were sent (R270): of one class, from one source to one destination; a home
receives the requests to each of its slices apart. -/
def Mach.inOrder (m : Mach) (x y : CMsg) : Bool :=
  msgClass x.code == msgClass y.code && x.fromA == y.fromA && x.toA == y.toA &&
    (msgClass x.code != 0 || m.hc x.line == m.hc y.line)

/-- The first message in flight that satisfies a test, when no earlier one must arrive before it, with the rest. -/
def Mach.firstMsg (m : Mach) (p : CMsg → Bool) : List CMsg → List CMsg → Option (CMsg × List CMsg)
  | _, [] => none
  | seen, x :: t =>
    if p x then (if seen.any (m.inOrder x) then none else some (x, seen.reverse ++ t))
    else m.firstMsg p (x :: seen) t

/-- The die at which an agent's messages enter and leave the die network: the companion's, die 0. -/
def agentDie (a : Nat) : Nat := if a < 16 then a else 0

/-- A message in flight that satisfies a test taken by its receiver: in its class's order, over an intact path (R21, R329), and
not by a die whose array stands still (R41). -/
def Mach.takeWhere (m : Mach) (p : CMsg → Bool) : Option (CMsg × Mach) :=
  match m.firstMsg p [] m.net with
  | none => none
  | some (x, t) =>
    if (x.toA < 16 ∧ m.still x.toA) ∨ m.intact (agentDie x.fromA) (agentDie x.toA) = false then none
    else some (x, { m with net := t })

/-- A message of a code from one agent to another about a line taken by its receiver. -/
def Mach.take (m : Mach) (code fromA toA line : Nat) : Option (CMsg × Mach) :=
  m.takeWhere fun x => x.code == code && x.fromA == fromA && x.toA == toA && x.line == line

/-- A message from an agent to a line's home: one in flight for a die; the companion's comes from outside, and one in
flight is taken with it. -/
def Mach.fromAgent (m : Mach) (code a line : Nat) : Option (CMsg × Mach) :=
  match m.take code a (m.hd line) line with
  | some r => some r
  | none =>
    if a = 16 ∧ m.still (m.hd line) = false ∧ m.intact 0 (m.hd line) = true then
      some ({ code := code, fromA := 16, toA := m.hd line, line := line }, m)
    else none

/-! ### Amber mode and the notes (R279 to R282) -/

/-- Amber mode of a slice (R279). -/
def Mach.amber (m : Mach) (die ch : Nat) : Bool := m.bit64 (at_ die Reg.HOME_AMBER_REQ) ch

/-- The notes of a line at its slice. -/
def Mach.notesOf (m : Mach) (hd hc line : Nat) : List Note :=
  ((m.slice hd hc).notes.filter (·.1 == line)).map (·.2)

/-- A die's RdS. -/
def HReq.isRds : HReq → Bool
  | .rds _ _ => true
  | _ => false

/-- A request refused in Amber mode: noted for its port and answered with Retry (R279). -/
def Mach.retryReq (m : Mach) (hd hc line : Nat) (r : HReq) : Mach :=
  let port := m.hport r hd
  let s := m.slice hd hc
  let m := m.setSlice hd hc { s with notes := s.notes ++ [(line, ⟨port, r, false⟩)] }
  let m := m.count64 (at_ hd Reg.HOME_RETRY_CNT) 1
  m.csend { code := 0x1F, fromA := hd, toA := port, line := line, rds := r.isRds }

/-- The first note of a line marked credited. -/
def creditFirst (line : Nat) : List (Nat × Note) → List (Nat × Note)
  | [] => []
  | (l, n) :: t => if l = line then (l, { n with credited := true }) :: t else (l, n) :: creditFirst line t

/-- Credit for the oldest note of a line that is stable and has none credited (R281). -/
def Mach.credit (m : Mach) (hd hc line : Nat) : Mach :=
  match m.notesOf hd hc line with
  | [] => m
  | n :: ns =>
    if (n :: ns).any (·.credited) then m
    else
      let s := m.slice hd hc
      let m := m.setSlice hd hc { s with notes := creditFirst line s.notes }
      let m := m.count64 (at_ hd Reg.HOME_CREDIT_CNT) 1
      m.csend { code := 0x20, fromA := hd, toA := n.port, line := line, rds := n.req.isRds }

/-- The retry entries in use of a port at a slice (R279, R280). -/
def Mach.portNotes (m : Mach) (hd hc port : Nat) : Nat := ((m.slice hd hc).notes.filter (·.2.port == port)).length

/-- A port holds back a request to a line (R280): two of its requests are noted at the slice, or one to that line is. -/
def Mach.portHolds (m : Mach) (hd hc line port : Nat) : Bool :=
  decide (m.portNotes hd hc port ≥ 2) || (m.notesOf hd hc line).any fun n => n.port == port

/-- A line is in a transient state. -/
def Mach.transient (m : Mach) (line : Nat) : Bool :=
  match m.hline? line with
  | some h => h.pend.isSome
  | none => false

/-- The queue of a slice: waiting requests over all its lines (R277). -/
def Mach.sliceQueue (m : Mach) (hd hc : Nat) : Nat :=
  (m.slice hd hc).behind.length + (m.sliceLines hd hc).foldl (fun n x => n + x.2.waiting.length) 0

/-- The Credit for a note of a line has reached its port. -/
def Mach.creditSeen (m : Mach) (hd line port : Nat) : Bool :=
  !m.net.any fun x => x.code == 0x20 && x.fromA == hd && x.toA == port && x.line == line

/-! ### Waiting requests begun (R253, R277, R281) -/

/-- The oldest line of a set that waits for a way with no victim chosen for it. -/
def Mach.roomless (m : Mach) (line : Nat) : Option Nat :=
  ((m.setLines (m.hd line) (m.hc line) (m.lineSet line)).foldl (fun (b : Option (Nat × Nat)) x =>
    match x.2.pend with
    | some (.wR _ false) => (match b with
      | none => some (x.2.stamp, x.1)
      | some y => if x.2.stamp < y.1 then some (x.2.stamp, x.1) else b)
    | _ => b) none).map (·.2)

/-- A line that waits for a way tried again: the lines whose waiting requests may then begin. -/
def Mach.retryPlace (m : Mach) (line : Nat) : Mach × List (Nat × List HReq) :=
  match m.hline? line with
  | some h => match h.pend with
    | some (.wR r false) =>
      let m' := (m.setHline line { h with waiting := [] }).place line r
      (match (m'.hline? line).bind (·.pend) with
       | some (.wR _ false) => (m, [])
       | _ => (m', [(line, h.waiting)]))
    | _ => (m, [])
  | none => (m, [])

/-- A line whose waiting requests have all begun and that is stable: its oldest note is credited (R281), and a line of its set
that found no way is tried again. -/
def Mach.rest (m : Mach) (line : Nat) : Mach × List (Nat × List HReq) :=
  let m := m.credit (m.hd line) (m.hc line) line
  match m.roomless line with
  | none => (m, [])
  | some l => m.retryPlace l

/-- The waiting requests of lines begun in order, each until its line is transient again (R253, R277); the lists are the
requests that waited at a line that has since left its way. -/
def Mach.settle : Nat → Mach → List (Nat × List HReq) → Mach
  | 0, m, _ => m
  | _, m, [] => m
  | n + 1, m, (line, ws) :: rest =>
    match m.hline? line with
    | some h =>
      let ws := h.waiting ++ ws
      if h.pend.isSome then Mach.settle n (m.setHline line { h with waiting := ws }) rest
      else match ws with
        | [] => let r := m.rest line; Mach.settle n r.1 (r.2 ++ rest)
        | r :: t => Mach.settle n ((m.setHline line { h with waiting := [] }).begin_ line r) ((line, t) :: rest)
    | none =>
      match ws with
      | [] => let r := m.rest line; Mach.settle n r.1 (r.2 ++ rest)
      | r :: t => Mach.settle n (m.begin_ line r) ((line, t) :: rest)

/-- Enough steps to begin every request that waits. -/
def Mach.settleFuel (m : Mach) (ws : List HReq) : Nat :=
  m.lines.foldl (fun n x => n + 3 + 2 * x.2.waiting.length) (2 * ws.length + 8)

/-- A line's waiting requests, and those given, begun as far as they can be. -/
def Mach.settled (m : Mach) (line : Nat) (ws : List HReq := []) : Mach := m.settle (m.settleFuel ws) [(line, ws)]

/-- Every line of a slice that waits for a way tried again. -/
def Mach.reseat (m : Mach) (die ch : Nat) : Mach :=
  (m.sliceLines die ch).foldl (fun m x =>
    let r := m.retryPlace x.1
    r.1.settle (r.1.settleFuel (r.2.flatMap (·.2))) r.2) m

/-! ### Arrivals (R244, R247, R265, R275 to R282) -/

/-- What becomes of a request that arrives: it stays in its port, it is answered with Retry, or its home takes it. -/
inductive Arrival where
  | held
  | noted (m : Mach)
  | taken (m : Mach)

/-- A request could arrive at its home now, but for the priority of R247: the home's array runs, the path to it is intact, and
neither its port (R280) nor the slice's full queues (R44, R277) hold it back. -/
def Mach.mayArrive (m : Mach) (line : Nat) (r : HReq) : Bool :=
  let hd := m.hd line
  let hc := m.hc line
  let port := m.hport r hd
  let mine := (m.notesOf hd hc line).find? fun n => n.port == port && n.req == r
  !m.still hd && m.intact (agentDie port) hd && (match mine with
    | some n => n.credited && m.creditSeen hd line port && !m.transient line
    | none => !m.portHolds hd hc line port && ((m.slice hd hc).stopped || (m.chan hd hc).held.isEmpty) &&
        (m.amber hd hc || decide (m.sliceQueue hd hc < 4640)))

/-- A request that no older one of its group holds back: a request of a group to a line waits until its home has taken every
older request of that group to the line, or has answered it (R208). A load need not wait for a store, whose bytes it has
been given. A read that may look in its die's tint ways goes there first (R243). -/
def Mach.outFirst (m : Mach) (rid : Nat) (q : Req) : Bool :=
  match q.src with
  | .group s g =>
    m.reqs.all fun x => x.1 ≥ rid || x.2.src != .group s g || x.2.tgt != q.tgt || x.2.ans.isSome ||
      (x.2.atHome && !x.2.joined) || (q.kind == .load && x.2.kind == .store)
  | _ => true

/-- Whether a read goes to its die's tint ways first (R243): one that may fill them, made on another die than its home. -/
def Req.tintable (q : Req) : Bool :=
  (q.kind == .load || q.kind == .fetch || q.kind == .pfL1 || q.kind == .pfSlice || q.kind == .walk) && !q.strm &&
    (match q.src with
     | .group _ _ | .walk (.cluster _ _) | .mover _ _ _ _ => true
     | _ => false)

/-- An LDR is sent once every store-buffer entry of its group that touches its line has been answered (R187). -/
def Mach.ldrClear (m : Mach) (q : Req) : Bool :=
  match q.src with
  | .group s g => match m.group? s g with
    | some x => x.outs.all fun o => match o with
      | .req rid => (match m.req? rid with
        | some p => p.tgt != q.tgt || p.ans.isSome
        | none => true)
      | .rel _ => true
    | none => true
  | _ => true

/-- A request that its requester has sent towards its home slice. -/
def Mach.atPort (m : Mach) (rid : Nat) (q : Req) : Bool :=
  m.outFirst rid q &&
  match q.kind with
  | .store | .red | .stc | .atom | .log => q.sent
  | .ldr => m.ldrClear q
  | _ => match q.tgt with
    | .home line => q.sent || !q.tintable || m.hd line == q.die
    | _ => false

/-- The requests of the array, the fabric ports and the engines that wait at a slice, and the RdS on their way to it. -/
def Mach.slicePort (m : Mach) (hd hc : Nat) : List (Nat × HReq) :=
  (m.reqs.filterMap fun x => match x.2.tgt with
    | .home l =>
      if m.hd l == hd && m.hc l == hc && !x.2.atHome && x.2.ans.isNone && m.atPort x.1 x.2 then some (l, HReq.req x.1) else none
    | _ => none) ++
  (m.net.filterMap fun x =>
    if x.code == 0x01 && x.fromA != 16 && m.hd x.line == hd && m.hc x.line == hc then some (x.line, HReq.rds x.fromA x.crit)
    else none)

/-- Latency-critical priority at a slice (R247): an ordinary request waits while a latency-critical read of another line could
be taken, and a latency-critical read after eight in a row while an ordinary request could. `urgent_off` ends it. -/
def Mach.givesWay (m : Mach) (line : Nat) (r : HReq) : Bool :=
  let hd := m.hd line
  let hc := m.hc line
  let crit := m.hcritical r
  if m.bit (aSlice hd hc Reg.SLICE_CTRL) 4 then false
  else
    let others := (m.slicePort hd hc).filter fun x =>
      m.hcritical x.2 != crit && x.1 != line && m.mayArrive x.1 x.2
    let full := decide ((m.slice hd hc).critRun ≥ 8)
    if crit then full && !others.isEmpty else !full && !others.isEmpty

/-- A latency-critical read taken while an ordinary request waits is one more in a row; any other request ends the row. -/
def Mach.countCrit (m : Mach) (line : Nat) (r : HReq) : Mach :=
  let hd := m.hd line
  let hc := m.hc line
  let waits := m.hcritical r && (m.slicePort hd hc).any fun x =>
    !m.hcritical x.2 && m.mayArrive x.1 x.2
  let s := m.slice hd hc
  m.setSlice hd hc { s with critRun := if waits then s.critRun + 1 else 0 }

/-- The retry entry of a credited request freed; behind the last note of a line, the arrivals that came after Amber mode was
left wait in its queue (R281, R282). -/
def Mach.freeNote (m : Mach) (line : Nat) (p : Note → Bool) : Mach × List HReq :=
  let hd := m.hd line
  let hc := m.hc line
  let s := m.slice hd hc
  let notes := s.notes.filter fun x => !(x.1 == line && p x.2)
  if notes.any (·.1 == line) then (m.setSlice hd hc { s with notes := notes }, [])
  else
    (m.setSlice hd hc { s with notes := notes, behind := s.behind.filter fun x => x.1 != line },
      (s.behind.filter fun x => x.1 == line).map (·.2))

/-- A request taken by its home: begun where its line is stable, queued behind it otherwise (R277). -/
def Mach.accept (m : Mach) (line : Nat) (r : HReq) : Mach :=
  let m := m.countCrit line r
  match m.hline? line with
  | some h => if h.pend.isSome then m.setHline line { h with waiting := h.waiting ++ [r] } else (m.begin_ line r).settled line
  | none => (m.begin_ line r).settled line

/-- A request that arrives at a home. -/
def Mach.arrive (m : Mach) (line : Nat) (r : HReq) : Arrival :=
  let hd := m.hd line
  let hc := m.hc line
  let port := m.hport r hd
  if !m.mayArrive line r then .held
  else if (m.slice hd hc).stopped then .taken (m.failReq line r .errUncorrectable)
  else if (m.notesOf hd hc line).any (fun n => n.port == port && n.req == r) then
    let (m, behind) := m.freeNote line fun n => n.port == port && n.req == r
    .taken (((m.countCrit line r).begin_ line r).settled line behind)
  else if m.givesWay line r then .held
  else
    let noted := (m.notesOf hd hc line) != []
    if m.amber hd hc then
      if noted || m.transient line then .noted (m.retryReq hd hc line r) else .taken (m.accept line r)
    else if noted then
      let s := m.slice hd hc
      .taken ((m.countCrit line r).setSlice hd hc { s with behind := s.behind ++ [(line, r)] })
    else .taken (m.accept line r)

/-- A request that its requester has given up leaves its note, and the next note of the line is credited (R281). -/
def Mach.unnote (m : Mach) (rid : Nat) : Mach :=
  match m.req? rid with
  | none => m
  | some q => match q.tgt with
    | .home line =>
      if (m.notesOf (m.hd line) (m.hc line) line).any (fun n => n.req == .req rid) then
        let (m, behind) := m.freeNote line fun n => n.req == .req rid
        if m.transient line then
          { m with lines := m.lines.upd line fun h => { h with waiting := h.waiting ++ behind } }
        else m.settled line behind
      else m
    | _ => m

/-! ### Completing transient states -/

/-- The directory once every probe has been answered: empty for a write, and H where no sharer is left (Table 10.5). -/
def Mach.probed (m : Mach) (act : Act) (h : HomeLine) : HomeLine :=
  let w := match act with
    | .serve r => m.hwrites r
    | _ => false
  if w || h.sharers == 0 then { h with dir := .h, sharers := 0, f := none } else h

/-- A line freed of its way for another line that waits for one (R237, R253): it takes that way; where the freed line's write
would be refused by its channel, it stays and the waiting request fails (R303). -/
def Mach.handOver (m : Mach) (line : Nat) (h : HomeLine) (other : Nat) : Mach × List (Nat × List HReq) :=
  let stays := if h.st = .dirty then m.chanBar (m.hd line) (m.hc line) else none
  match (m.hline? other).map fun (x : HomeLine) => (x, x.pend) with
  | some (x, some (.wR r true)) =>
    match stays with
    | some st =>
      (((m.setHline line h).delHline other).failReq other r st, [(line, []), (other, x.waiting)])
    | none =>
      let m := (m.wroteFor r line h).freeVictim line { h with waiting := [] }
      let m := (m.delHline other).allocate other r h.way
      (m, [(other, x.waiting), (line, h.waiting)])
  | _ =>
    match stays with
    | some _ => (m.setHline line h, [(line, [])])
    | none => (m.freeVictim line { h with waiting := [] }, [(line, h.waiting)])

/-- The bracketed action of a line whose answers or memory data have arrived, and the lines whose waiting requests may now
begin. `bad` says that a probe had no answer (R284). -/
def Mach.act (m : Mach) (line : Nat) (act : Act) (bad : Bool) (h : HomeLine) : Mach × List (Nat × List HReq) :=
  let h := { h with pend := none }
  let isRange : Bool := match act with
    | .serve (.range _ _ _) => true
    | _ => false
  match act with
  | .serve r =>
    if bad && !isRange then ((m.setHline line h).failReq line r .errPoison, [(line, [])])
    else
      let m := (m.setHline line h).serve line r
      match m.hline? line with
      | none => (m, [(line, h.waiting)])
      | some x =>
        if x.way.isNone && x.pend.isNone then (m.delHline line, [(line, x.waiting)])
        else (m.setHline line { x with unc := 0 }, [(line, [])])
  | .grantE => (m.toX (m.hd line) line 0x21 h, [(line, [])])
  | .dataE =>
    (if bad then (m.setHline line h).failReq line .cmpOwn .errPoison else m.toX (m.hd line) line 0x2A h, [(line, [])])
  | .victimFor other => m.handOver line h other
  | .drop =>
    if h.st = .dirty ∧ (m.chanBar (m.hd line) (m.hc line)).isSome then (m.setHline line h, [(line, [])])
    else (m.freeVictim line { h with waiting := [] }, [(line, h.waiting)])
  | .idle => (m.setHline line h, [(line, [])])

/-- A transient state completed, and what waited for it begun. -/
def Mach.complete (m : Mach) (line : Nat) (act : Act) (bad : Bool) (h : HomeLine) : Mach :=
  let r := m.act line act bad h
  r.1.settle (r.1.settleFuel (r.2.flatMap (·.2))) r.2

/-- An answer from an agent counted off (Table 10.6): none when no answer of that agent is due. -/
def dueWithout (due : List (Nat × Nat)) (a : Nat) : Option (List (Nat × Nat)) :=
  if due.any (·.1 == a) then some (due.eraseP (·.1 == a)) else none

/-- The line after one due answer, completed when none remains. `upd` is what the answer does to the line. -/
def Mach.answered (m : Mach) (line a : Nat) (bad : Bool) (upd : HomeLine → HomeLine) : Option Mach :=
  match m.hline? line with
  | none => none
  | some h =>
    match h.pend with
    | some (.wA code due act b) =>
      match dueWithout due a with
      | none => none
      | some rest =>
        let h := upd h
        if rest.isEmpty then some (m.complete line act (b || bad) (m.probed act h))
        else some (m.setHline line { h with pend := some (.wA code rest act (b || bad)) })
    | _ => none

/-- A line read for its slice by a channel that completes requests with a status instead (Table 11.2): the request that
waited for it fails; a Combining line, and one that was read again for an error (Table 9.2), stay as they are. -/
def Mach.readRefused (m : Mach) (line : Nat) (st : Status) : Mach :=
  match m.hline? line with
  | none => m
  | some h => match h.pend with
    | some (.wM act) =>
      let h' : HomeLine := { h with pend := none, waiting := [], st := if h.st = .filling then .clean else h.st }
      let m := if h.st = .combining ∨ h.bad ≠ 0 then m.setHline line h' else m.delHline line
      let (m, more) : Mach × List (Nat × List HReq) := match act with
        | .serve r => (m.failReq line r st, [])
        | .victimFor other => (match (m.hline? other).map fun (x : HomeLine) => (x, x.pend) with
          | some (x, some (.wR r true)) => ((m.delHline other).failReq other r st, [(other, x.waiting)])
          | _ => (m, []))
        | _ => (m, [])
      m.settle (m.settleFuel (h.waiting ++ more.flatMap (·.2))) ((line, h.waiting) :: more)
    | _ => m

/-- A line read for its slice arrives: it fills the way, or is the base of a merge (R252 to R254); the action that
waited for it is then carried out. -/
def Mach.lineData (m : Mach) (line : Nat) (img : LineImg) (psn unc : BitVec 16) : Mach :=
  match m.hline? line with
  | none => m
  | some h => match h.pend with
    | some (.wM act) =>
      if h.st = .combining then
        let hd := m.hd line
        let hc := m.hc line
        let (m, h) := m.scanWay line h
        let m := m.count64 (aSlice hd hc Reg.SLICE_MERGE_CNT) 1
        let m := if psn = 0 then m else m.sliceErr hd hc line 3
        m.complete line act false
          { h with st := .dirty, comb := [], img := combMerge h.comb h.img img (psn ||| h.psn), psn := psn ||| h.psn }
      else m.complete line act false { h with st := .clean, img := img, psn := psn, unc := unc, soft := 0, bad := 0 }
    | _ => m

/-- MEMORY_DATA's effect: the oldest line that its channel has sent back reaches the slice. -/
def Mach.memoryData (m : Mach) (die ch : Nat) : Mach :=
  let c := m.chan die ch
  match c.out with
  | [] => m
  | (line, img, psn, unc) :: rest => (m.setChan die ch { c with out := rest }).lineData line img psn unc

/-! ### What leaves a way, and what a home holds -/

/-- A home line that must leave its way: evicted as R238 evicts a victim; one with replicas or contributions completes
later. A transient or pinned line is left, and so is one whose write its channel would refuse. -/
def Mach.evict (m : Mach) (line : Nat) : Mach :=
  match m.hline? line with
  | none => m
  | some h =>
    if h.pend.isSome || h.pin.isSome || (h.st != .clean && (m.chanBar (m.hd line) (m.hc line)).isSome) then m
    else if h.st = .combining then m.fetchBase line h .drop
    else if h.sharers = 0 then (m.freeVictim line h).settled line
    else m.await line 0x10 (sharerList h.sharers) .drop h

/-- The value of a line as its home would give it to a reader now, without reading its channel: the home way, merged where
Combining, or memory behind the writes still on their way. Used by what measures or stores memory whole (R420, R474). -/
def Mach.peekLine (m : Mach) (line : Nat) : LineImg × BitVec 16 :=
  let base : LineImg × BitVec 16 :=
    match ((m.chan (m.hd line) (m.hc line)).sent.reverse).findSome? (fun c => match c with
        | .write l i p => if l = line then some (i, p) else none
        | _ => none) with
    | some x => x
    | none => let r := m.readLine (m.hd line) (m.hc line) line; (r.2.1, r.2.2.1)
  match m.hline? line with
  | none => base
  | some h => match h.st with
    | .combining => (combMerge h.comb h.img base.1 (base.2 ||| h.psn), base.2 ||| h.psn)
    | .filling => base
    | _ => (h.img, h.psn)

end Sys2Proof.Machine
end

