-- ==== Sys2Proof/Machine/Coherence.lean ====
section
/-! DEFINITION. The coherence commands (Tables 10.2 to 10.6): requests, evictions, probes, responses and grants as
they arrive at homes, at tint controllers and at the companion; the requests of the array at a home slice; and probes that go
unanswered (R284 to R286). -/
namespace Sys2Proof.Machine

/-- The Vilpin link is trained (R362). -/
def Mach.vlUp (m : Mach) : Bool := m.fld (at_ 0 Reg.VL_STATE) 0 3 == 2
/-- The companion has been excluded (R286). -/
def Mach.excluded (m : Mach) : Bool := m.bit (at_ 0 Reg.HOME_CMP_STATUS) 2
/-- The companion's compatibility mode (R269). -/
def Mach.compat (m : Mach) : Bool := m.bit (at_ 0 Reg.HOME_CMP_STATUS) 1

/-- The companion's messages count only while its link is trained; others always. -/
def Mach.agentUp (m : Mach) (a : Nat) : Bool := a != 16 || m.vlUp

/-- The machine after a request has arrived; one that stays in its port changes nothing. -/
def Arrival.machine (x : Arrival) (m : Mach) : Mach :=
  match x with
  | .held => m
  | .noted m => m
  | .taken m => m

/-! ### Requests at a home (Table 10.5) -/

/-- Why a request of the companion is refused: excluded (R286), an address that is no stacked memory (R27), or memory
of a Sable-mode partition (R479). -/
def Mach.cmpRefuse (m : Mach) (line : Nat) (write : Bool) : Option Status :=
  if m.excluded then some .errTimeout
  else if line ≥ allLines then some .errDecode
  else match m.granuleOwner (line / 2 ^ 23) with
    | some p => if m.sable p ∧ (write = false ∨ m.partState p ≥ pACTIVE) then some .errSecurity else none
    | none => none

/-- RdS, RdOwn or Upg as it reaches the home; one that stays in its port is still in flight. -/
def Mach.reqMsg (m : Mach) (code a line : Nat) (r : Bool → HReq) : Mach :=
  if !m.agentUp a then m
  else match if a = 16 then m.cmpRefuse line (code != 0x01) else none with
    | some st => m.emit (.cmpAnswer (128 * line) st 0)
    | none => match m.fromAgent code a line with
      | some (x, m') => (m'.arrive line (r x.crit)).machine m
      | none => m

/-- RDS (R268, R275). -/
def execRds (a : Agent) (line : Nat) : State → Host.Outcome State Fault Refusal :=
  whenOn fun m => m.reqMsg 0x01 a.val line fun crit => if a.val = 16 then .cmpRds else .rds a.val crit
/-- RDOWN (R275). -/
def execRdown (line : Nat) : State → Host.Outcome State Fault Refusal := whenOn fun m => m.reqMsg 0x02 16 line fun _ => .cmpOwn
/-- UPG (R275). -/
def execUpg (line : Nat) : State → Host.Outcome State Fault Refusal := whenOn fun m => m.reqMsg 0x03 16 line fun _ => .cmpUpg

/-! ### Evictions at a home -/

/-- A sharer's bit cleared, and the F role when it held it. -/
def HomeLine.clear (h : HomeLine) (a : Nat) : HomeLine :=
  { h with sharers := h.sharers &&& ~~~(1#17 <<< a), f := if h.f = some a then none else h.f }

/-- A stable S line with no sharer left is H (Table 10.5). -/
def HomeLine.settleS (h : HomeLine) : HomeLine := if h.dir = .s ∧ h.sharers = 0 then { h with dir := .h } else h

/-- PutAck to an agent. -/
def Mach.putAck (m : Mach) (line a : Nat) : Mach :=
  m.csend { code := 0x1E, fromA := m.hd line, toA := a, line := line }

/-- A message that its table marks "—" at a home (R273). -/
def Mach.homeErr (m : Mach) (line code a : Nat) : Mach :=
  if (m.slice (m.hd line) (m.hc line)).stopped then m
  else m.homeProto (m.hd line) (m.hc line) line code a (dcode (m.hline? line))

/-- Data that the companion encloses is written at the home: it ends reservations of the line (R188) and is logged (R419). -/
def Mach.cmpWrote (m : Mach) (line : Nat) : Mach := (m.breakResv (m.hd line) (m.hc line) line none).logThen line .nothing

/-- PutF and PutS (Tables 10.5, 10.6). -/
def Mach.putClean (m : Mach) (code a line : Nat) : Mach :=
  match m.fromAgent code a line with
  | none => m
  | some (_, m) =>
    match m.hline? line with
    | none => m.putAck line a
    | some h =>
      if h.pend.isSome then (m.setHline line (h.clear a)).putAck line a
      else match h.dir with
        | .h => m.putAck line a
        | .s => ((m.setHline line (h.clear a).settleS).putAck line a).settled line
        | .x => if code = 0x09 then m.homeErr line code a else m.putAck line a
        | .o => if code = 0x09 then m.homeErr line code a else (m.setHline line (h.clear a)).putAck line a

/-- PUTF. -/
def execPutf (e : Die) (line : Nat) : State → Host.Outcome State Fault Refusal := whenOn fun m => m.putClean 0x08 e.val line
/-- PUTS. -/
def execPuts (line : Nat) : State → Host.Outcome State Fault Refusal :=
  whenOn fun m => if m.vlUp then m.putClean 0x09 16 line else m

/-- The line enclosed by the companion enters the home way, Dirty. -/
def HomeLine.takeData (h : HomeLine) (img : LineImg) : HomeLine :=
  { h with st := .dirty, img := img, psn := 0, soft := 0, bad := 0 }

/-- PutE and PutM (Tables 10.5, 10.6): a PutE that crosses a probe clears the bit as a PutS does (log 33). -/
def Mach.putOwner (m : Mach) (code line : Nat) (data : Option LineImg) : Mach :=
  if !m.vlUp then m else
  match m.fromAgent code 16 line with
  | none => m
  | some (_, m) =>
    let take (h : HomeLine) := match data with
      | some img => h.takeData img
      | none => h
    let log (m : Mach) : Mach := if data.isSome then m.cmpWrote line else m
    match m.hline? line with
    | none => m.homeErr line code 16
    | some h =>
      match h.pend with
      | some (.wA _ _ _ _) => log ((m.setHline line (take (h.clear 16))).putAck line 16)
      | some _ => if data.isNone then (m.setHline line (h.clear 16)).putAck line 16 else m.homeErr line code 16
      | none => match h.dir with
        | .x => (log ((m.setHline line { take h with dir := .h, sharers := 0, f := none }).putAck line 16)).settled line
        | _ => m.homeErr line code 16

/-- PUTE. -/
def execPute (line : Nat) : State → Host.Outcome State Fault Refusal := whenOn fun m => m.putOwner 0x0A line none
/-- PUTM. -/
def execPutm (line : Nat) (img : LineImg) : State → Host.Outcome State Fault Refusal :=
  whenOn fun m => m.putOwner 0x0B line (some img)

/-- PutO (compatibility mode). -/
def Mach.putShared (m : Mach) (line : Nat) (img : LineImg) : Mach :=
  if !m.vlUp then m else
  match m.fromAgent 0x0C 16 line with
  | none => m
  | some (_, m) => match m.hline? line with
    | none => m.homeErr line 0x0C 16
    | some h =>
      let h' := (h.clear 16).takeData img
      match h.pend with
      | some (.wA _ _ _ _) => ((m.setHline line h').putAck line 16).cmpWrote line
      | some _ => m.homeErr line 0x0C 16
      | none => match h.dir with
        | .o => (((m.setHline line { h' with dir := if h'.sharers = 0 then .h else .s }).putAck line 16).cmpWrote line).settled line
        | _ => m.homeErr line 0x0C 16

/-- PUTO. -/
def execPuto (line : Nat) (img : LineImg) : State → Host.Outcome State Fault Refusal := whenOn fun m => m.putShared line img

/-! ### Responses at a home -/

/-- An answer to a probe that ended without one (R285): discarded and counted. None when the agent owes none. -/
def Mach.lateAnswer (m : Mach) (a line : Nat) : Option Mach :=
  let s := m.slice (m.hd line) (m.hc line)
  if s.late.contains (line, a) then
    some ((m.setSlice (m.hd line) (m.hc line) { s with late := s.late.erase (line, a) }).count64
      (at_ (m.hd line) Reg.HOME_LATE_CNT) 1)
  else none

/-- A response from an agent, with what it does to the line (Table 10.6); one that carries data is a write (R188, R419). One
that no transient state awaits is late (R285) or a protocol error (R273). -/
def Mach.response (m : Mach) (code a line : Nat) (upd : HomeLine → HomeLine) : Mach :=
  if !m.agentUp a then m else
  match m.fromAgent code a line with
  | none => m
  | some (_, m) => match m.lateAnswer a line with
    | some m => m
    | none =>
      let data : Bool := code == 0x19 || code == 0x1B || code == 0x1C
      let m' := if data then m.breakResv (m.hd line) (m.hc line) line none else m
      match m'.answered line a false upd with
      | some m' => if data then m'.logThen line .nothing else m'
      | none => m.homeErr line code a

/-- The directory after the companion gave up exclusivity: S while it keeps a copy. -/
def HomeLine.downgrade (h : HomeLine) : HomeLine :=
  if h.dir = .x then { h with dir := if h.sharers.getLsbD 16 then .s else .h } else h

/-- INVACK. -/
def execInvack (a : Agent) (line : Nat) : State → Host.Outcome State Fault Refusal :=
  whenOn fun m => m.response 0x18 a.val line fun h => h.clear a.val
/-- INVDATA. -/
def execInvdata (line : Nat) (img : LineImg) : State → Host.Outcome State Fault Refusal :=
  whenOn fun m => m.response 0x19 16 line fun h => (h.clear 16).takeData img
/-- SNPACK. -/
def execSnpack (line : Nat) : State → Host.Outcome State Fault Refusal :=
  whenOn fun m => m.response 0x1A 16 line HomeLine.downgrade
/-- SNPDATA. -/
def execSnpdata (line : Nat) (img : LineImg) : State → Host.Outcome State Fault Refusal :=
  whenOn fun m => m.response 0x1B 16 line fun h => (h.takeData img).downgrade
/-- SNPDATAO: the companion is now O. -/
def execSnpdatao (line : Nat) (img : LineImg) : State → Host.Outcome State Fault Refusal :=
  whenOn fun m => m.response 0x1C 16 line fun h => { h.takeData img with dir := .o }

/-- FwdDone (Table 10.6). -/
def Mach.fwdDone (m : Mach) (e line : Nat) : Mach :=
  match m.fromAgent 0x1D e line with
  | none => m
  | some (_, m) => match m.lateAnswer e line with
    | some m => m
    | none => match m.hline? line with
      | some h => match h.pend with
        | some (.wF d _ _) =>
          if d = e then (m.setHline line { h with pend := none }).settled line else m.homeErr line 0x1D e
        | _ => m.homeErr line 0x1D e
      | none => m.homeErr line 0x1D e

/-- FWDDONE. -/
def execFwddone (e : Die) (line : Nat) : State → Host.Outcome State Fault Refusal := whenOn fun m => m.fwdDone e.val line

/-! ### The tint controller (Table 10.3) -/

/-- The place of a line in the table of tint lines. -/
def tkey (die line : Nat) : Nat := die * 2 ^ 40 + line
def Mach.tint? (m : Mach) (die line : Nat) : Option TintLine := m.tints.get? (tkey die line)
def Mach.setTint (m : Mach) (die line : Nat) (t : TintLine) : Mach := { m with tints := m.tints.put (tkey die line) t }
def Mach.delTint (m : Mach) (die line : Nat) : Mach := { m with tints := m.tints.del (tkey die line) }

/-- The column of Table 10.3 in `TINT_PROTO_ERR`. -/
def tcode (t : Option TintLine) : Nat :=
  match t with
  | none => 0
  | some t => match t.st with
    | .isD => 1 | .isDI => 2 | .isR => 3 | .s => 4 | .f => 5 | .fiA => 6 | .iiA => 7

/-- A message the table marks "—" at a tint controller. -/
def Mach.tintErr (m : Mach) (die line code : Nat) : Mach := m.tintProto die (m.hd line) line code (tcode (m.tint? die line))

/-- A message of a die about a line. -/
def Mach.tintSend (m : Mach) (die line code : Nat) : Mach :=
  m.csend { code := code, fromA := die, toA := m.hd line, line := line }

/-- Reads waiting at a tint line answered. -/
def Mach.serveTint (m : Mach) (rids : List Nat) (v : LineImg × BitVec 16) : Mach :=
  rids.foldl (fun m rid => match m.req? rid with
    | some q => m.giveAnswer rid { status := readStatus q.mask v.2 0, img := v.1, psn := v.2 }
    | none => m) m

/-- The set of a line in a die's tint ways (R242). -/
def Mach.tintSet (m : Mach) (die line : Nat) : List (Nat × TintLine) :=
  m.tints.filter fun x =>
    let l := x.1 % 2 ^ 40
    x.1 / 2 ^ 40 == die && m.hc l == m.hc line && m.lineSet l == m.lineSet line

/-- The lowest free tint way of a line's set on a die, among those that fill (R235, R245). -/
def Mach.tintWay (m : Mach) (die line : Nat) : Option Nat :=
  let n := m.tintOpen die (m.hc line)
  let ls := m.tintSet die line
  ((List.range n).map (14 - n + ·)).find? fun w => !ls.any fun x => x.2.way == w

/-- A tint way replaced (the second row of Table 10.3): S is dropped, F is announced with PutF. -/
def Mach.dropTint (m : Mach) (die line : Nat) : Mach :=
  match m.tint? die line with
  | some t => match t.st with
    | .s => m.delTint die line
    | .f => ((m.setTint die line { t with st := .fiA }).tintSend die line 0x08).count64 (at_ die Reg.TINT_PUTF_CNT) 1
    | _ => m
  | none => m

/-- The least recently used S or F line of a set. -/
def pickTint (ls : List (Nat × TintLine)) : Option Nat :=
  (ls.foldl (fun (b : Option (Nat × TintLine)) x =>
    if x.2.st = .s ∨ x.2.st = .f then (match b with
      | none => some x
      | some y => if x.2.stamp < y.2.stamp then some x else b) else b) none).map (·.1 % 2 ^ 40)

/-- A replica asked for (Table 10.3, state I): RdS is sent and `rids` wait for it. None while no tint way is free; the least
recently used replica is then replaced, if one may be. -/
def Mach.askReplica (m : Mach) (e line : Nat) (rids : List Nat) (crit : Bool) : Option Mach :=
  match m.tintWay e line with
  | none => none
  | some w =>
    let m := { m with lineStamp := m.lineStamp + 1 }
    let m := m.setTint e line { st := .isD, way := w, waiting := rids, crit := crit, stamp := m.lineStamp }
    some (m.csend { code := 0x01, fromA := e, toA := m.hd line, line := line, crit := crit })

/-- A read that waits at its die's tint controller. -/
def Mach.joinTint (m : Mach) (rid : Nat) : Mach := m.updReq rid fun q => { q with atHome := true, joined := true }

/-- A tint line's data read at its slice (Table 9.2): whether it holds; a line with an uncorrectable word is replaced. -/
def Mach.tintData (m : Mach) (e line : Nat) (t : TintLine) : Mach × Bool :=
  if t.soft = 0 ∧ t.bad = 0 then (m, true)
  else
    let m := (m.noteWay e (m.hc line) line t.soft t.bad false).setTint e line { t with soft := 0, bad := 0 }
    if t.bad = 0 then (m, true) else (m.dropTint e line, false)

/-- A core's read at its die's tint controller (Table 10.3, R243): served, joined, sent on, or passed to the home. -/
def Mach.tintRead (m : Mach) (rid : Nat) : Mach :=
  match m.req? rid with
  | none => m
  | some q => match q.tgt with
    | .home line =>
      let e := q.die
      if m.still e || !q.tintable || q.sent || q.atHome || q.ans.isSome || m.hd line == e || !m.outFirst rid q then m
      else
        let ch := m.hc line
        match m.tint? e line with
        | some t => match t.st with
          | .s | .f =>
            let (m, ok) := m.tintData e line t
            if !ok then m
            else
              let m := { m with lineStamp := m.lineStamp + 1 }
              let m := (m.setTint e line { t with stamp := m.lineStamp, soft := 0 }).serveTint [rid] (t.img, t.psn)
              m.count64 (aSlice e ch Reg.SLICE_TINT_HIT_CNT) 1
          | .isD | .isDI | .isR => (m.setTint e line { t with waiting := t.waiting ++ [rid] }).joinTint rid
          | .fiA | .iiA => m
        | none =>
          if m.tintOpen e ch = 0 then m.updReq rid fun q => { q with sent := true }
          else match m.askReplica e line [rid] q.critical with
            | some m => m.joinTint rid
            | none => match pickTint (m.tintSet e line) with
              | some v => m.dropTint e v
              | none => m.updReq rid fun q => { q with sent := true }
    | _ => m

/-- TINT_READ. -/
def execTintRead (rid : Nat) : State → Host.Outcome State Fault Refusal := whenOn fun m => m.tintRead rid

/-- Inv at a die (Table 10.3). -/
def Mach.tintInv (m : Mach) (die line : Nat) : Mach :=
  let m := m.count64 (at_ die Reg.TINT_INV_CNT) 1
  let m := m.tintSend die line 0x18
  match m.tint? die line with
  | none => m
  | some t => match t.st with
    | .isD => m.setTint die line { t with st := .isDI }
    | .isDI | .isR | .iiA => m
    | .s | .f => m.delTint die line
    | .fiA => m.setTint die line { t with st := .iiA }

/-- Inv at an agent: a die's tint controller, or the companion, which answers by what it holds (Table 10.4). -/
def Mach.inv (m : Mach) (a line : Nat) (written : Option LineImg) : Mach :=
  match m.take 0x10 (m.hd line) a line with
  | none => m
  | some (_, m) =>
    if a = 16 then match written with
      | some img => m.csend { code := 0x19, fromA := 16, toA := m.hd line, line := line, img := img }
      | none => m.csend { code := 0x18, fromA := 16, toA := m.hd line, line := line }
    else m.tintInv a line

/-- INV. -/
def execInv (a : Agent) (line : Nat) (written : Option LineImg) : State → Host.Outcome State Fault Refusal :=
  whenOn fun m => m.inv a.val line written

/-- SnpRd at the companion (Table 10.4). -/
def Mach.snpRd (m : Mach) (line : Nat) (written : Option LineImg) : Mach :=
  match m.take 0x12 (m.hd line) 16 line with
  | none => m
  | some (_, m) => match written with
    | some img => m.csend { code := if m.compat then 0x1C else 0x1B, fromA := 16, toA := m.hd line, line := line, img := img }
    | none => m.csend { code := 0x1A, fromA := 16, toA := m.hd line, line := line }

/-- SNPRD. -/
def execSnprd (line : Nat) (written : Option LineImg) : State → Host.Outcome State Fault Refusal :=
  whenOn fun m => m.snpRd line written

/-- FwdRd answered by a die that holds the line; a word it cannot correct goes marked as poisoned (log 111). -/
def Mach.forwardLine (m : Mach) (e line r : Nat) (t : TintLine) : Mach :=
  let m := m.noteWay e (m.hc line) line t.soft t.bad false
  let m := m.csend { code := 0x28, fromA := e, toA := r, line := line, img := t.img, psn := t.psn ||| t.bad }
  (m.tintSend e line 0x1D).count64 (at_ e Reg.TINT_FWD_SERVED_CNT) 1

/-- FwdRd at a die (Table 10.3). -/
def Mach.fwdRd (m : Mach) (e line r : Nat) : Mach :=
  match m.takeWhere fun x => x.code == 0x11 && x.fromA == m.hd line && x.toA == e && x.line == line && x.die == r with
  | none => m
  | some (_, m) =>
    match m.tint? e line with
    | some t => match t.st with
      | .isD => m.setTint e line { t with heldFwd := some r }
      | .f => (m.forwardLine e line r t).setTint e line { t with st := .s }
      | .fiA => m.forwardLine e line r t
      | _ => m.tintErr e line 0x11
    | none => m.tintErr e line 0x11

/-- FWDRD. -/
def execFwdrd (e : Die) (line : Nat) (r : Die) : State → Host.Outcome State Fault Refusal :=
  whenOn fun m => m.fwdRd e.val line r.val

/-- DataF at a die (Table 10.3): it fills, unless the request was invalidated; a held FwdRd is served as F. -/
def Mach.dataF (m : Mach) (e line : Nat) : Mach :=
  match m.takeWhere fun x => x.code == 0x28 && x.toA == e && x.line == line with
  | none => m
  | some (x, m) =>
    match m.tint? e line with
    | some t => match t.st with
      | .isD =>
        let m := m.serveTint t.waiting (x.img, x.psn)
        let t' : TintLine := { t with st := .f, img := x.img, psn := x.psn, soft := 0, bad := 0, waiting := [], heldFwd := none }
        let m := m.count64 (aSlice e (m.hc line) Reg.SLICE_TINT_FILL_CNT) 1
        match t.heldFwd with
        | some r => (m.forwardLine e line r t').setTint e line { t' with st := .s }
        | none => m.setTint e line t'
      | .isDI =>
        ((m.serveTint t.waiting (x.img, x.psn)).delTint e line).count64 (at_ e Reg.TINT_RACE_CNT) 1
      | _ => m.tintErr e line 0x28
    | none => m.tintErr e line 0x28

/-- DATAF. -/
def execDataf (e : Die) (line : Nat) (_v : LineVal) : State → Host.Outcome State Fault Refusal :=
  whenOn fun m => m.dataF e.val line

/-- DataPsn at an agent: waiting reads receive ERR_POISON. -/
def Mach.dataPsn (m : Mach) (a line : Nat) : Mach :=
  match m.takeWhere fun x => x.code == 0x2B && x.toA == a && x.line == line with
  | none => m
  | some (_, m) =>
    if a = 16 then m
    else match m.tint? a line with
      | some t => match t.st with
        | .isD | .isDI =>
          (t.waiting.foldl (fun m rid => m.giveAnswer rid { status := .errPoison }) m).delTint a line
        | _ => m.tintErr a line 0x2B
      | none => m.tintErr a line 0x2B

/-- DATAPSN. -/
def execDatapsn (a : Agent) (line : Nat) : State → Host.Outcome State Fault Refusal := whenOn fun m => m.dataPsn a.val line

/-- PutAck at an agent. -/
def Mach.putAcked (m : Mach) (a line : Nat) : Mach :=
  match m.take 0x1E (m.hd line) a line with
  | none => m
  | some (_, m) =>
    if a = 16 then m
    else match m.tint? a line with
      | some t => if t.st = .fiA ∨ t.st = .iiA then m.delTint a line else m.tintErr a line 0x1E
      | none => m.tintErr a line 0x1E

/-- PUTACK. -/
def execPutack (a : Agent) (line : Nat) : State → Host.Outcome State Fault Refusal := whenOn fun m => m.putAcked a.val line

/-- Retry at a port: a tint request waits for its credit; other requests of the port stay noted at the home. -/
def Mach.retried (m : Mach) (a line : Nat) : Mach :=
  match m.take 0x1F (m.hd line) a line with
  | none => m
  | some (x, m) =>
    if a = 16 then m
    else
      let m := m.count64 (at_ a Reg.TINT_RETRY_CNT) 1
      if !x.rds then m
      else match m.tint? a line with
        | some t => if t.st = .isD then m.setTint a line { t with st := .isR } else m.tintErr a line 0x1F
        | none => m.tintErr a line 0x1F

/-- RETRY. -/
def execRetry (a : Agent) (line : Nat) : State → Host.Outcome State Fault Refusal := whenOn fun m => m.retried a.val line

/-- Credit at a port (R281): a tint request is sent again at once, ahead of the requests that its port holds back; any other
request of the port may now be accepted. -/
def Mach.credited (m : Mach) (a line : Nat) : Mach :=
  match m.take 0x20 (m.hd line) a line with
  | none => m
  | some (x, m) =>
    if a = 16 ∨ x.rds = false then m
    else match m.tint? a line with
      | some t =>
        if t.st = .isR then
          let m := m.setTint a line { t with st := .isD }
          { m with net := { code := 0x01, fromA := a, toA := m.hd line, line := line, crit := t.crit } :: m.net }
        else m.tintErr a line 0x20
      | none => m.tintErr a line 0x20

/-- CREDIT. -/
def execCredit (a : Agent) (line : Nat) : State → Host.Outcome State Fault Refusal := whenOn fun m => m.credited a.val line

/-- A grant that reaches the companion: it leaves the module's links. -/
def Mach.atCompanion (m : Mach) (code line : Nat) : Mach :=
  match m.take code (m.hd line) 16 line with
  | some (_, m) => m
  | none => m

/-- GRANTE. -/
def execGrante (line : Nat) : State → Host.Outcome State Fault Refusal := whenOn fun m => m.atCompanion 0x21 line
/-- DATAS. -/
def execDatas (line : Nat) (_v : LineVal) : State → Host.Outcome State Fault Refusal := whenOn fun m => m.atCompanion 0x29 line
/-- DATAE. -/
def execDatae (line : Nat) (_v : LineVal) : State → Host.Outcome State Fault Refusal := whenOn fun m => m.atCompanion 0x2A line

/-! ### Requests of the array, the fabric and the companion at a home slice -/

/-- A request of the array, a fabric port or an engine taken by its home, or noted there; one that stays in its port is shown as
delayed where a queue is full (R277, R293). -/
def Mach.homeReq (m : Mach) (rid : Nat) (ok : Req → Bool) : Mach :=
  match m.req? rid with
  | none => m
  | some q => match q.tgt with
    | .home line =>
      if q.atHome || q.ans.isSome || !ok q || m.still q.die || !m.atPort rid q then m
      else match m.arrive line (.req rid) with
        | .taken m' => m'.updReq rid fun q => { q with atHome := true }
        | .noted m' => m'
        | .held =>
          if m.sliceQueue (m.hd line) (m.hc line) ≥ 4640 ∨ (m.chan (m.hd line) (m.hc line)).held ≠ [] then m.markSlow rid else m
    | _ => m

/-- Why the companion may not reach a local-array window: excluded (R286, R363), or of a Sable-mode partition (R479). -/
def Mach.cmpWindow (m : Mach) (slot : Nat) (write : Bool) : Option Status :=
  if m.excluded then some .errTimeout
  else match m.clusterOwner (clusterOfSlot slot) with
    | some p => if m.sable p ∧ (write = false ∨ m.partState p ≥ pACTIVE) then some .errSecurity else none
    | none => none

/-- A local-array window that the companion's accesses can reach now: its die's array runs and the path to it is intact. -/
def Mach.cmpPath (m : Mach) (die : Nat) : Bool := !m.still die && m.intact 0 die

/-- A plain read of the companion (R275, R364, R479). -/
def Mach.cmpReadAt (m : Mach) (addr bytes : Nat) : Mach :=
  if !m.vlUp then m
  else match windowAt addr with
  | some (slot, off) =>
    (match m.cmpWindow slot false with
     | some st => m.emit (.cmpAnswer addr st 0)
     | none =>
       if !m.cmpPath (dieOfSlot slot) then m
       else
         let (m, a) := m.windowRead slot off (maskRange (addr % 128) bytes)
         m.emit (.cmpAnswer addr a.status a.img))
  | none => match m.cmpRefuse (addr / 128) false with
    | some st => m.emit (.cmpAnswer addr st 0)
    | none => (m.arrive (addr / 128) (.cmpRead addr bytes)).machine m

/-- PLAIN_READ: a load, fetch, walk or prefetch that its home serves (R239, R275). -/
def execPlainRead (r : HomeRead) : State → Host.Outcome State Fault Refusal :=
  whenOn fun m => match r with
    | .req rid => m.homeReq rid fun q =>
        q.kind == .load || q.kind == .fetch || q.kind == .pfL1 || q.kind == .pfSlice || q.kind == .walk
    | .companion addr bytes => m.cmpReadAt addr bytes.val

/-- A write of the companion (R275, R366). -/
def Mach.cmpWriteAt (m : Mach) (line : Nat) (mask : LineMask) (img : LineImg) : Mach :=
  if !m.vlUp then m
  else match windowAt (128 * line) with
  | some (slot, off) =>
    (match m.cmpWindow slot true with
     | some st => m.emit (.cmpAnswer (128 * line) st 0)
     | none =>
       if !m.cmpPath (dieOfSlot slot) then m
       else
         let (m, st) := m.windowWrite slot off mask img
         m.emit (.cmpAnswer (128 * line) st 0))
  | none => match m.cmpRefuse line true with
    | some st => m.emit (.cmpAnswer (128 * line) st 0)
    | none => (m.arrive line (.cmpWrite mask img)).machine m

/-- WRITE: a store, the logging of a page, or a write of the companion, performed under R278. -/
def execWrite (r : HomeWrite) : State → Host.Outcome State Fault Refusal :=
  whenOn fun m => match r with
    | .req rid => m.homeReq rid fun q => q.kind == .store || q.kind == .log
    | .companion line mask img => m.cmpWriteAt line mask img

/-- REDUCE_STORE (R249 to R251). -/
def execReduceStore (rid : Nat) : State → Host.Outcome State Fault Refusal :=
  whenOn fun m => m.homeReq rid fun q => q.kind == .red
/-- ATOM_REQUEST (R180, R185). -/
def execAtomRequest (rid : Nat) : State → Host.Outcome State Fault Refusal :=
  whenOn fun m => m.homeReq rid fun q => q.kind == .atom
/-- LDR_REQUEST (R187). -/
def execLdrRequest (rid : Nat) : State → Host.Outcome State Fault Refusal :=
  whenOn fun m => m.homeReq rid fun q => q.kind == .ldr
/-- STC_REQUEST (R187). -/
def execStcRequest (rid : Nat) : State → Host.Outcome State Fault Refusal :=
  whenOn fun m => m.homeReq rid fun q => q.kind == .stc

/-- LEASE_EXPIRY (R189): a lease that has run out ends. -/
def Mach.leaseEnd (m : Mach) (line : Nat) : Mach :=
  let hd := m.hd line
  let r := m.resvLine hd (m.hc line) line
  match r.lease with
  | some l => if m.now hd ≤ l.until_ then m else m.setResv hd (m.hc line) line { r with lease := none }
  | none => m

/-- LEASE_EXPIRY. -/
def execLeaseExpiry (line : Nat) : State → Host.Outcome State Fault Refusal := whenOn fun m => m.leaseEnd line

/-! ### Probes that go unanswered (R284 to R286) -/

/-- Every word of a line poisoned (R284); the line is Dirty. -/
def HomeLine.poisoned (h : HomeLine) : HomeLine := { h with st := .dirty, img := 0, psn := allPoison, soft := 0, bad := 0, comb := [] }

/-- A request of the companion. -/
def HReq.isCmp : HReq → Bool
  | .cmpRds | .cmpOwn | .cmpUpg | .cmpRead _ _ | .cmpWrite _ _ => true
  | _ => false

/-- Requests of the companion among those given complete with ERR_TIMEOUT (R286). -/
def Mach.cmpTimeouts (m : Mach) (line : Nat) (rs : List HReq) : Mach :=
  (rs.filter HReq.isCmp).foldl (fun m r => m.failReq line r .errTimeout) m

/-- The action of a transient state once the companion is excluded: one that served the companion serves no one. -/
def Mach.actLess (m : Mach) (line : Nat) (act : Act) : Mach × Act :=
  match act with
  | .serve r => if r.isCmp then (m.failReq line r .errTimeout, .idle) else (m, act)
  | .grantE => (m.failReq line .cmpUpg .errTimeout, .idle)
  | .dataE => (m.failReq line .cmpOwn .errTimeout, .idle)
  | _ => (m, act)

/-- A probe of an agent has ended without its answer, which would now be late (R285). -/
def Mach.owesLate (m : Mach) (line a : Nat) : Mach :=
  let s := m.slice (m.hd line) (m.hc line)
  m.setSlice (m.hd line) (m.hc line) { s with late := s.late ++ [(line, a)] }

/-- The exclusion sweep at one line (R286): a line in X or O is poisoned and becomes H, its replicas on dies given up first; bit
16 is cleared in every other; the companion's requests complete with ERR_TIMEOUT. -/
def Mach.sweepLine (m : Mach) (line : Nat) : Mach :=
  match m.hline? line with
  | none => m
  | some h =>
    let m := m.cmpTimeouts line h.waiting
    let own := h.dir = .x ∨ h.dir = .o
    let h := { h.clear 16 with waiting := h.waiting.filter fun r => !r.isCmp }
    let h := if own then { h.poisoned with dir := if h.sharers = 0 then .h else .s } else h
    match h.pend with
    | none =>
      if own ∧ h.sharers ≠ 0 then m.await line 0x10 (sharerList h.sharers) .idle h
      else m.setHline line h.settleS
    | some (.wM act) => let (m, act) := m.actLess line act; m.setHline line { h with pend := some (.wM act) }
    | some (.wF _ _ _) => m.setHline line h
    | some (.wR r v) =>
      if !r.isCmp then m.setHline line h
      else
        let m := m.failReq line r .errTimeout
        (match h.waiting with
         | [] => m.delHline line
         | x :: t => m.setHline line { h with pend := some (.wR x v), waiting := t })
    | some (.wA code due act bad) =>
      let (m, act) := m.actLess line act
      let m := if due.any (·.1 == 16) then m.owesLate line 16 else m
      let due := due.filter (·.1 != 16)
      let bad := bad || decide own
      if due.isEmpty then m.complete line act bad (m.probed act h)
      else m.setHline line { h with pend := some (.wA code due act bad) }

/-- The companion's notes, and its arrivals behind notes, given up at one slice (R286). -/
def Mach.sweepNotes (m : Mach) (die ch : Nat) : Mach :=
  let s := m.slice die ch
  let m := (s.notes.filter (·.2.req.isCmp)).foldl (fun m x => m.failReq x.1 x.2.req .errTimeout) m
  let m := (s.behind.filter (·.2.isCmp)).foldl (fun m x => m.failReq x.1 x.2 .errTimeout) m
  let s := m.slice die ch
  let m := m.setSlice die ch { s with behind := s.behind.filter fun x => !x.2.isCmp }
  ((s.notes.filter (·.2.req.isCmp)).map (·.1)).foldl (fun m line =>
    let (m, ws) := m.freeNote line fun n => n.req.isCmp
    if m.transient line then { m with lines := m.lines.upd line fun h => { h with waiting := h.waiting ++ ws } }
    else m.settled line ws) m

/-- The companion excluded on every die, and the sweep of every slice, in Amber mode (R283, R286). -/
def Mach.exclude (m : Mach) : Mach :=
  let m := (List.range 16).foldl (fun m d =>
    let m := m.setBit (at_ d Reg.HOME_CMP_STATUS) 2 true
    let st := m.dieSt d
    let m := m.setDie d { st with sweep := some (st.sweep.getD (m.rd64 (at_ d Reg.HOME_AMBER_REQ))) }
    m.wr64 (at_ d Reg.HOME_AMBER_REQ) (BitVec.allOnes 64)) m
  let m := m.slices.foldl (fun m x => m.sweepNotes (x.1 / 64) (x.1 % 64)) m
  m.lines.foldl (fun m x => m.sweepLine x.1) m

/-- The probe log of a die takes an entry (Table 10.8). -/
def Mach.logProbe (m : Mach) (hd hc line a kind : Nat) : Mach :=
  let st := at_ hd Reg.HOME_LOG_STATUS
  let n := m.fld st 0 4
  if n ≥ 8 then m.setBit st 4 true
  else
    let b := at_ hd (Reg.HOME_PROBE_LOG + 0x20 * n)
    let m := (m.wr64 b (BitVec.ofNat 64 (128 * line))).wr (b + 8) (BitVec.ofNat 32 (a + 32 * kind + 128 * hc))
    (m.wr64 (b + 16) (BitVec.ofNat 64 (m.now hd))).setFld st 0 4 (n + 1)

/-- The code of a line's probe to an agent and when it was sent. -/
def HomeLine.probeTo (h : HomeLine) (a : Nat) : Option (Nat × Nat) :=
  match h.pend with
  | some (.wA code due _ _) => (due.find? (·.1 == a)).map fun x => (if code = 0x12 then 2 else 0, x.2)
  | some (.wF d t _) => if d = a then some (1, t) else none
  | _ => none

/-- A probe whose bound of 200,000 ticks has expired (R284 to R286). -/
def Mach.probeTimeout (m : Mach) (line a : Nat) : Mach :=
  let hd := m.hd line
  let hc := m.hc line
  match m.hline? line with
  | none => m
  | some h => match h.probeTo a with
    | none => m
    | some (kind, t) =>
      if !expired (m.now hd) t 200000 then m
      else
        let m := m.logProbe hd hc line a kind
        let m := m.count64 (at_ hd Reg.HOME_TIMEOUT_CNT) 1
        let m := m.setBit (at_ hd Reg.HOME_AGENT_SILENT) a true
        let m := (m.logFault hd 0x05 .errTimeout 1 false hc (128 * line) a).owesLate line a
        let m := match h.pend with
          | some (.wF _ _ dst) =>
            let m := m.setHline line { ((h.clear a).clear dst).poisoned with pend := none }
            (m.csend { code := 0x2B, fromA := hd, toA := dst, line := line }).settled line
          | _ => (m.answered line a true fun h => (h.clear a).poisoned).getD m
        if a = 16 then m.exclude else m.fatal hd 0x04 hd 0 0x04

/-- PROBE_TIMEOUT. -/
def execProbeTimeout (line : Nat) (a : Agent) : State → Host.Outcome State Fault Refusal :=
  whenOn fun m => m.probeTimeout line a.val

/-- The bit that a slice test of a die holds set (R283). -/
def Mach.amberTest (m : Mach) (die : Nat) : W64 := match (m.dieSt die).sliceTest with
  | some (ch, _) => 1#64 <<< ch
  | none => 0
/-- The Amber bits that a die returns to once neither a slice test nor the exclusion sweep holds any (R283, R286). -/
def Mach.amberBase (m : Mach) (die : Nat) : W64 :=
  let v := (m.dieSt die).sweep.getD (m.rd64 (at_ die Reg.HOME_AMBER_REQ))
  match (m.dieSt die).sliceTest with
  | some (_, true) => v ||| m.amberTest die
  | some (_, false) => v &&& ~~~(m.amberTest die)
  | none => v

/-- The Amber bits of a die restored, one slice at a time, once its exclusion sweep is over (R286); a slice test still holds its
own. -/
def Mach.sweepOver (m : Mach) (die ch : Nat) : Mach :=
  match (m.dieSt die).sweep with
  | none => m
  | some _ =>
    if !m.bit64 (at_ die Reg.HOME_AMBER_ACTIVE) ch then m
    else
      let want := m.amberBase die ||| m.amberTest die
      let m := m.setBit64 (at_ die Reg.HOME_AMBER_REQ) ch (want.getLsbD ch)
      if m.rd64 (at_ die Reg.HOME_AMBER_REQ) = want then m.setDie die { m.dieSt die with sweep := none } else m

/-- The transition of a slice into or out of Amber mode is complete (R282): its queue, or its notes, are empty. -/
def Mach.amberDone (m : Mach) (die ch : Nat) : Mach :=
  let a := at_ die Reg.HOME_AMBER_ACTIVE
  let want := m.amber die ch
  let m := if want == m.bit64 a ch then m
    else if want then (if m.sliceQueue die ch = 0 then m.setBit64 a ch true else m)
    else (if (m.slice die ch).notes.isEmpty then m.setBit64 a ch false else m)
  m.sweepOver die ch

/-- AMBER_TRANSITION_DONE. -/
def execAmberTransitionDone (die : Die) (ch : Chan) : State → Host.Outcome State Fault Refusal :=
  whenOn fun m => m.amberDone die.val ch.val

end Sys2Proof.Machine
end

