-- ==== Sys2Proof/Machine/Transport.lean ====
section
/-! DEFINITION. The transport layer (R333 to R349): routes, the choice of a port, outstanding entries, and the sending
and completing of requests to other devices. -/
namespace Sys2Proof.Machine

/-- The message of a request (Tables 12.4, 12.5). -/
def reqMessage (dev epoch : Nat) (sable : Bool) (q : Req) (port entry : Nat) (d line : Nat) : TMsg :=
  { typ := match q.kind with
      | .store => .wr
      | .red => .red
      | .atom => .atom
      | _ => .rd
    dst := BitVec.ofNat 18 d, src := BitVec.ofNat 18 dev, status := .ok, hops := 31, failed := false, urg := q.urg
    enc := sable, addr := BitVec.ofNat 46 (128 * line), entry := BitVec.ofNat 11 entry, port := BitVec.ofNat 5 port
    kslot := BitVec.ofNat 5 q.part, epoch := BitVec.ofNat 16 epoch
    func := BitVec.ofNat 4 q.func, ty := BitVec.ofNat 4 q.ty
    words := if q.kind = .red then (q.elts.foldl (fun (w : W32) e => (eltWords q.ty e).foldl (fun w i => w ||| (1#32 <<< i)) w) 0) else 0
    mask := if q.kind = .store then q.mask else 0
    img := if q.kind = .store then q.img
           else if q.kind = .red then q.elts.foldl (fun i e => lput i e.off (atomBytes q.ty) e.op0.toNat) 0 else 0
    entries := if q.kind = .atom then q.elts.map fun e => ⟨BitVec.ofNat 8 e.off, e.op0, e.op1⟩ else []
    results := [], tagOk := true, wellFormed := true }

/-- The lowest number not in use. -/
def freeEntry (used : Tab PortEnt) : Option Nat := (List.range 2048).find? fun i => (used.get? i).isNone

/-- A request put in a port's list of those that wait. -/
def Mach.waitAt (m : Mach) (fp rid : Nat) : Mach :=
  let p := m.port fp
  let m := m.setPort fp { p with waiting := if p.waiting.contains rid then p.waiting else p.waiting ++ [rid] }
  m.updReq rid fun q => { q with wtick := if q.wtick = 0 then m.now (fpDie fp) else q.wtick }

/-- A request of this device sent to another (R339, R342, R343, R345, R348): it takes an entry and leaves, or waits,
or completes without leaving. -/
def Mach.remoteSend (m : Mach) (rid : Nat) : Mach :=
  match m.req? rid with
  | none => m
  | some q => match q.tgt with
    | .remote dev line =>
      if m.dead dev then m.giveAnswer rid { status := .errPartnerDead }
      else match m.choosePort dev line with
        | none => m.giveAnswer rid { status := .errDecode }
        | some (fp, false) => m.waitAt fp rid
        | some (fp, true) =>
          let busy := m.ports.any fun x => x.2.ents.any fun e => e.2.dev == dev
          if (m.rerouted.contains dev && busy) || !m.intact q.die (fpDie fp) then m.waitAt fp rid
          else match freeEntry (m.port fp).ents with
            | none => (m.markSlow rid).waitAt fp rid
            | some i =>
              let m := { m with rerouted := m.rerouted.filter (· != dev) }
              let p := m.port fp
              let m := m.setPort fp { p with
                ents := p.ents.put i ⟨dev, q.part, rid, m.now (fpDie fp)⟩
                waiting := p.waiting.filter (· != rid) }
              let m := m.updReq rid fun q => { q with atHome := true, entry := some (fp, i) }
              let sealed := m.sable q.part && (q.kind == .store || q.kind == .red || q.kind == .atom)
              let x := reqMessage m.device (m.epoch q.part) sealed q fp i dev line
              let r := m.wireOwn q.part q.die x
              r.1.transmit fp ⟨x, some rid, true, q.die, r.2⟩
    | _ => m

/-- Requests that wait at a port tried in turn: the shared pool's entries are granted to partitions by their weights (R403). -/
def Mach.grantPort (m : Mach) (fp : Nat) : Nat → List Nat → Mach
  | 0, _ => m
  | n + 1, rids =>
    let part (rid : Nat) : Nat := ((m.req? rid).map (·.part)).getD 32
    match m.drrPick (m.port fp).drr (rids.map part) with
    | none => m
    | some (k, d) => match rids.find? fun rid => part rid == k with
      | none => m
      | some rid =>
        let m' := m.remoteSend rid
        let p := m'.port fp
        Mach.grantPort (if p.waiting.contains rid then m' else m'.setPort fp { p with drr := d }) fp n (rids.erase rid)

/-- Requests that wait at a port tried again. -/
def Mach.retryWaiting (m : Mach) (fp : Nat) : Mach :=
  let p := m.port fp
  (m.setPort fp { p with waiting := [] }).grantPort fp p.waiting.length p.waiting

/-- The entry of a completed request freed, and a waiting request sent in its place (R343, R344). -/
def Mach.freeEnt (m : Mach) (rid : Nat) : Mach :=
  match m.req? rid with
  | none => m
  | some q => match q.entry with
    | none => { m with ports := m.ports.mapV fun p => { p with waiting := p.waiting.filter (· != rid) } }
    | some (fp, i) =>
      let p := m.port fp
      let other (t : TxMsg) : Bool := t.rid != some rid
      let m := m.setPort fp { p with ents := p.ents.del i, tx := p.tx.filter other, held := p.held.filter other }
      (m.updReq rid fun q => { q with entry := none }).retryWaiting fp

/-- Every request for a device, held or queued at a port, completes with a status (R348). -/
def Mach.failDevice (m : Mach) (fp dev : Nat) (st : Status) : Mach :=
  let p := m.port fp
  let held := (p.ents.filter fun e => e.2.dev == dev).map fun e => e.2.rid
  let queued := p.waiting.filter fun rid => match m.req? rid with
    | some q => (match q.tgt with
      | .remote d _ => d == dev
      | _ => false)
    | none => false
  (held ++ queued).foldl (fun m rid => (m.freeEnt rid).giveAnswer rid { status := st }) m

end Sys2Proof.Machine
end

