-- ==== Sys2Proof/Machine/Operands.lean ====
section
/-! DEFINITION. A group's registers, faults (R78 to R83), translation and permission (R168 to R171, R389, R395, R396),
and the issue of one instruction: the checks every instruction passes (R65, R88 to R95, R100) and what issuing does. -/
namespace Sys2Proof

/-- Fields of Format R (Table 4.2). -/
def IW.b (w : IW) : Nat := (w.lo >>> 26).toNat
def IW.c (w : IW) : Nat := Sys2Proof.Machine.bitsOf w.lo.toNat 20 6
def IW.bs (w : IW) : Bool := w.lo.getLsbD 19
def IW.resR (w : IW) : Bool := w.lo.toNat % 2 ^ 19 == 0
def IW.t (w : IW) : Nat := w.ty.toNat
def IW.dn (w : IW) : Nat := w.d.toNat
def IW.an (w : IW) : Nat := w.a.toNat
def IW.pn (w : IW) : Nat := w.pred.toNat

end Sys2Proof
namespace Sys2Proof.Machine

/-! ### Registers of a group (R87 to R91) -/

/-- Scalar register; s0 reads as zero (R88). -/
def Group.rs (g : Group) (n : Nat) : W64 := if n = 0 then 0 else g.s.get n 0
/-- Scalar register written; s0 discards (R88). -/
def Group.ws (g : Group) (n : Nat) (x : W64) : Group := if n = 0 then g else { g with s := g.s.put n x }
/-- Vector register. -/
def Group.rv (g : Group) (n : Nat) : Vec := g.v.get n []
/-- Vector register written in the lanes of a mask (R65, R100). -/
def Group.wv (g : Group) (m : W32) (n : Nat) (x : Vec) : Group := { g with v := g.v.put n (vmerge m (g.rv n) x) }
/-- Predicate register; p0 reads as all ones (R88). -/
def Group.rp (g : Group) (n : Nat) : W32 := if n = 0 then 0xFFFFFFFF else g.p.get n 0
/-- Predicate register written in the bits of active lanes (R90). -/
def Group.wp (g : Group) (m : W32) (n : Nat) (x : W32) : Group :=
  if n = 0 then g else { g with p := g.p.put n ((g.rp n &&& ~~~m) ||| (x &&& m)) }

/-- The end of an instruction that goes on to the next address: a step of a debugger ends here (R497). -/
def Group.advance (g : Group) : Group :=
  let g := { g with lead := g.pc, pc := g.pc + 8, ir := none }
  if g.stepping then { g with stat := .haltDebug, back := .ready, stepping := false, reason := 2 } else g

/-- The end of a wait: the instruction that waited goes on to the next address. A halted or parked group stays so. -/
def Group.finish (g : Group) : Group :=
  if g.stat = .haltDebug ∨ g.stat = .parked then
    { g with back := .ready, lead := g.pc, pc := g.pc + 8, ir := none }
  else { g with stat := .ready }.advance

/-- What a group waits for, behind a halt of a debugger or a pre-emption. -/
def Group.cur (g : Group) : GStat := if g.stat = .haltDebug ∨ g.stat = .parked then g.back else g.stat

/-! ### Launch fields (Table 3.1) -/

/-- `n` bytes of a launch descriptor. -/
def Launch.f (l : Launch) (o n : Nat) : Nat := ofBytes ((l.desc.drop o).take n)
def Launch.codeBase (l : Launch) : W64 := BitVec.ofNat 64 (l.f 8 8)
def Launch.gridX (l : Launch) : Nat := l.f 24 2
def Launch.gridY (l : Launch) : Nat := l.f 26 2
def Launch.gridZ (l : Launch) : Nat := l.f 28 2
def Launch.bcX (l : Launch) : Nat := l.f 30 1 % 8 + 1
def Launch.bcY (l : Launch) : Nat := l.f 30 1 / 16 % 8 + 1
def Launch.nGroups (l : Launch) : Nat := l.f 31 1 % 8 + 1
def Launch.share (l : Launch) : Nat := l.f 32 1 % 16
def Launch.acc (l : Launch) : Nat := l.f 33 1 % 32
def Launch.haltOnFault (l : Launch) : Bool := l.f 34 2 % 2 == 1
/-- The barrier timeout applied: 0 selects 1,000,000 ticks. -/
def Launch.barTimeout (l : Launch) : Nat := if l.f 36 4 = 0 then 1000000 else l.f 36 4
def Launch.total (l : Launch) : Nat := l.gridX * l.gridY * l.gridZ
/-- The launch tag from the packet header (bytes 4 to 7 of Table 13.2). -/
def Launch.tag (l : Launch) : Nat := l.f 4 4
/-- The partition of a launch: that of its queue (R368). -/
def Launch.part (l : Launch) : Nat := l.queue / 64

/-- The launch a core holds. -/
def Mach.coreLaunch (m : Mach) (slot : Nat) : Option Launch :=
  match (m.core slot).launch with
  | some l => m.launch? l
  | none => none

/-! ### Faults (R78 to R83) -/

/-- Causes of Table 3.5. -/
inductive Cause where
  | illegalOpcode | illegalOperand | predicatedBarrier | fetchFault | dataTranslation | dataPermission
  | misalignedAtomic | scratchpadRange | barrierTimeout | dataUncorrectable | dataPoison | localArray
  | partnerDead | launchInvalid | accessError
deriving DecidableEq, Repr

/-- The cause's code. -/
def Cause.code : Cause → Nat
  | .illegalOpcode => 1 | .illegalOperand => 2 | .predicatedBarrier => 3 | .fetchFault => 4 | .dataTranslation => 5
  | .dataPermission => 6 | .misalignedAtomic => 7 | .scratchpadRange => 8 | .barrierTimeout => 9
  | .dataUncorrectable => 10 | .dataPoison => 11 | .localArray => 12 | .partnerDead => 13 | .launchInvalid => 14
  | .accessError => 15

/-- The status a cause always has; FETCH_FAULT and ACCESS_ERROR carry their own (Table 3.5). -/
def Cause.status : Cause → Status
  | .dataPermission => .errSecurity
  | .barrierTimeout => .errTimeout
  | .dataUncorrectable => .errUncorrectable
  | .dataPoison => .errPoison
  | .localArray => .errUncorrectable
  | .partnerDead => .errPartnerDead
  | _ => .errDecode

/-- Causes that are precise (R79). -/
def Cause.precise : Cause → Bool
  | .partnerDead => false
  | .launchInvalid => false
  | _ => true

/-- A fault as it is raised: cause, status, the address of the instruction, `info` and the lanes. -/
structure FaultInfo where
  cause : Cause
  status : Status
  pc : W64
  info : W64 := 0
  lanes : W32 := 0
deriving DecidableEq, Repr

/-- A fault with its cause's own status. -/
def faultOf (c : Cause) (pc : W64) (info : W64 := 0) (lanes : W32 := 0) : FaultInfo := ⟨c, c.status, pc, info, lanes⟩

/-- The first fault of a core in a launch is recorded, later ones counted (R83, Tables 3.6, 3.7, 18.4). DESIGN CHOICE (log 102,
unsafe): once the driver has cleared the core's bit, its next fault is recorded as a first one again. -/
def Mach.recordFault (m : Mach) (slot g : Nat) (x : FaultInfo) : Mach :=
  let cl := clusterOfSlot slot
  let i := indexOfSlot slot
  let die := cl / 36
  let b := aCsup cl Reg.CSUP_REC_0 + i * 0x20
  if m.bit64 (aCsup cl Reg.CSUP_CORE_FAULT) i then m.countFld b 16 8 1
  else
    let m := m.wr b (BitVec.ofNat 32 (x.cause.code + 256 * g + 16777216 * x.status.code.toNat))
    let m := m.wr64 (b + 8) x.pc
    let m := m.wr64 (b + 16) x.info
    let m := (m.wr (b + 24) x.lanes).wr (b + 28) (BitVec.ofNat 32 (m.now die))
    let m := m.setBit64 (aCsup cl Reg.CSUP_CORE_FAULT) i true
    let ff := aCsup cl Reg.CSUP_FAULT_FIRST
    let m := if m.fld ff 0 8 = 0 then m.wr ff (BitVec.ofNat 32 (x.cause.code + 256 * i + 16384 * g)) else m
    let tag := match m.coreLaunch slot with
      | some l => l.tag
      | none => 0
    m.logFault die 0x01 x.status 1 (m.sableCluster cl) slot x.info.toNat (x.cause.code + 256 * g + 65536 * tag)

/-- A group stops at its instruction boundary for a fault: results in flight are discarded, buffered stores stay to
drain, the reservation is lost, and a status held against it reaches its launch (R79, R80, R117, R188, R226). -/
def Mach.haltGroup (m : Mach) (slot g : Nat) (cause : Nat) : Mach :=
  match m.group? slot g with
  | none => m
  | some x =>
    if x.stat = .exited ∨ x.stat = .haltFault then m
    else
      let m := (m.loseResv slot g).updGroup slot g fun x =>
        { x with stat := .haltFault, loads := [], fetchRid := none, reason := 4, cause := cause, stepping := false }
      match x.held, (m.core slot).launch with
      | some h, some l => m.updLaunch l fun y => { y with faults := y.faults ++ [h] }
      | _, _ => m

/-- The groups of a core. -/
def groupsOf (m : Mach) (slot : Nat) : List Nat := (List.range 8).filter fun g => (m.group? slot g).isSome

/-- Every core slot of a cluster. -/
def slotsOfCluster (cl : Nat) : List Nat := (List.range 64).map (slotOfIndex cl)

/-- The barrier timers of a cluster stop: no group of it will arrive any more (R73, R80). -/
def Mach.stopBars (m : Mach) (cl : Nat) : Mach :=
  let c := m.cluster cl
  let m := m.setCluster cl { c with slots := c.slots.mapV fun r => { r with barStart := none, barKept := 0 } }
  (slotsOfCluster cl).foldl (fun m slot =>
    let c := m.core slot
    if c.barStart.isSome ∨ c.barKept ≠ 0 then m.setCore slot { c with barStart := none, barKept := 0 } else m) m

/-- A cluster halts every group of its launch (R80). -/
def Mach.haltCluster (m : Mach) (cl : Nat) : Mach :=
  let m := m.setFld (aCsup cl Reg.CSUP_STATE) 0 3 4
  let m := m.setCluster cl (stopMover (m.cluster cl) (fun t => t.queue.isNone) .abortSquashed)
  (slotsOfCluster cl).foldl (fun m slot => (groupsOf m slot).foldl (fun m g => m.haltGroup slot g 0) m) (m.stopBars cl)

/-- The barrier timers that a group takes part in pause (R74): its block's and its block-cluster's. -/
def Mach.pauseBars (m : Mach) (slot : Nat) : Mach :=
  let now := m.now (dieOfSlot slot)
  let c := m.core slot
  let m := match c.barStart with
    | some v => m.setCore slot { c with barStart := none, barKept := now - v }
    | none => m
  let cl := clusterOfSlot slot
  let k := m.cluster cl
  m.setCluster cl { k with slots := k.slots.mapV fun r => if r.index = c.bc then
    (match r.barStart with
      | some v => { r with barStart := none, barKept := now - v }
      | none => r) else r }

/-- A group halted so that a debugger may go on from its instruction boundary (R82, R497). -/
def Mach.debugHalt (m : Mach) (slot g reason cause : Nat) : Mach :=
  let m := (m.loseResv slot g).pauseBars slot
  m.updGroup slot g fun x =>
    { x with stat := .haltDebug, back := x.cur, reason := reason, cause := cause, stepping := false }

/-- A fault raised by a group (R79, R80, R82): under `halt_on_fault` with a debugger attached only the group halts, and what it
issued before the fault completes. -/
def Mach.raise (m : Mach) (slot g : Nat) (x : FaultInfo) : Mach :=
  let cl := clusterOfSlot slot
  let m := m.recordFault slot g x
  match m.coreLaunch slot, (m.core slot).launch with
  | some y, some l =>
    let m := m.updLaunch l fun y => { y with faults := y.faults ++ [x.status] }
    if x.cause.precise && y.haltOnFault && y.attached && !m.sableCluster cl then
      let m := m.updGroup slot g fun z => { z with fetchRid := none, stat := .ready }
      m.debugHalt slot g 4 x.cause.code
    else ((m.haltGroup slot g x.cause.code).haltCluster cl).updLaunch l fun y => { y with halted := true }
  | _, _ => m.haltGroup slot g x.cause.code

/-! ### Performance counters (R505) -/

/-- An event counted by every counter of the die that selects it (Table 18.2). -/
def Mach.event (m : Mach) (slot ev n : Nat) : Mach :=
  let cl := clusterOfSlot slot
  let die := cl / 36
  if m.sableCluster cl then m
  else (List.range 16).foldl (fun m k =>
    let a := at_ die (Reg.DBG_CNT_CFG + 0x10 * k)
    let w := (m.rd a).toNat
    let scope := bitsOf w 8 2
    let unit := bitsOf w 10 12
    let inScope := scope == 0 || (scope == 1 && unit == cl % 36) || (scope == 2 && unit == slot % 2304)
    let inPart := bitsOf w 27 1 == 0 || m.clusterOwner cl == some (bitsOf w 22 5)
    if bitsOf w 28 1 = 1 ∧ bitsOf w 0 8 = ev ∧ inScope ∧ inPart then m.count64 (at_ die (Reg.DBG_CNT_VAL + 0x10 * k)) n else m) m

/-! ### Translation and permission -/

/-- What a translation gives: an address, a wait for a walk read, or a fault's cause, status and address. -/
inductive TrRes where
  | ok (gpa : Nat)
  | wait
  | bad (c : Cause) (st : Status)
deriving DecidableEq, Repr

/-- Table sizes, index bits and shifts of levels 4 to 0 (Table 14.4). -/
def levelShift (lvl : Nat) : Nat := if lvl = 0 then 16 else 21 + 9 * (lvl - 1)
def levelEntries (lvl : Nat) : Nat := if lvl = 0 then 32 else 512

/-- The read by which a walk looks in a table: latency-critical, and in no L1 (R395). A table that is misaligned for its level,
or outside this device's stacked memory, ends the walk (R396). -/
def Mach.walkAsk (m : Mach) (src : WalkFor) (die part va lvl table : Nat) : Mach × WalkRes :=
  if table % (8 * levelEntries lvl) ≠ 0 ∨ table ≥ 128 * allLines then (m, .bad none)
  else
    let a := table + 8 * (va / 2 ^ levelShift lvl % levelEntries lvl)
    let (m, rid) := m.newReq { kind := .walk, src := .walk src, die := die, part := part, tgt := .home (a / 128), line := a / 128
                               mask := maskRange (a % 128) 8, critical := true, tick := m.now die }
    (m, .more { part := part, va := va, lvl := lvl, table := table, rid := rid })

/-- A walk begun at the table of `PART_PT_ROOT` (R395). -/
def Mach.walkStart (m : Mach) (src : WalkFor) (die part va : Nat) : Mach × WalkRes :=
  m.walkAsk src die part va 4 (m.rd64 (aPart part Reg.PART_PT_ROOT)).toNat

/-- A walk carried on with the answer of its read (R395, R396). -/
def Mach.walkNext (m : Mach) (src : WalkFor) (die : Nat) (w : Walk) (a : Answer) : Mach × WalkRes :=
  if a.status.failed then (m, .bad (some a.status))
  else
    let lvl := w.lvl
    let e := lnum a.img (8 * (w.va / 2 ^ levelShift lvl % levelEntries lvl) % 128) 8
    if e % 2 = 0 then (m, .bad none)
    else if e / 2 % 2 = 0 then
      if lvl = 0 ∨ e / 4 % 64 ≠ 0 ∨ e / 2 ^ 46 ≠ 0 then (m, .bad none)
      else
        let r := m.walkAsk src die w.part w.va (lvl - 1) (e / 256 % 2 ^ 38 * 256)
        (r.1, match r.2 with
              | .more x => .more { x with old := w.old }
              | x => x)
    else if lvl ≥ 3 ∨ e / 32 % 2048 ≠ 0 ∨ e / 65536 * 65536 % 2 ^ levelShift lvl ≠ 0 then (m, .bad none)
    else (m, .leaf (e / 65536 * 65536) (2 ^ levelShift lvl) (e / 4 % 8))

/-- A walk of a cluster's unit as it now stands: under way, or over, with what it found kept for the access that waits for it. The
result of one that began before its partition's translations were invalidated is not used (R397). -/
def Mach.keepWalk (m : Mach) (cl who part va : Nat) (old : Bool) (r : WalkRes) : Mach :=
  let c := m.cluster cl
  let c := { c with walks := c.walks.del who }
  match r with
  | .more w => m.setCluster cl { c with walks := c.walks.put who w }
  | .leaf frame bytes perm =>
    if old || m.clusterOwner cl != some part then m.setCluster cl c
    else m.setCluster cl { c with tlb := c.tlb.put (va / 65536) ⟨frame + va % bytes / 65536 * 65536, 65536, perm⟩ }
  | .bad st =>
    if old then m.setCluster cl c
    else m.setCluster cl { c with failed := c.failed.put who (c.failed.get who [] ++ [(va / 65536, st)]) }

/-- The answer of a walk read taken by the walk that made it. -/
def Mach.walkAnswer (m : Mach) (rid die : Nat) (src : WalkFor) (a : Answer) : Mach :=
  match src with
  | .cluster cl who => match (m.cluster cl).walks.get? who with
    | some w => if w.rid = rid then let r := m.walkNext src die w a; r.1.keepWalk cl who w.part w.va w.old r.2 else m
    | none => m
  | .queue q key => match (m.queue q).eng.get? key with
    | some (.tr (.more w)) =>
      if w.rid = rid then
        let r := m.walkNext src die w a
        let x := r.1.queue q
        r.1.setQueue q { x with eng := if w.old && (match r.2 with
            | .more _ => false
            | _ => true) then x.eng.del key else x.eng.put key (.tr r.2) }
      else m
    | _ => m
  | .range q => match (m.rangeOf? q).bind (·.page) with
    | some (.more w) =>
      if w.rid = rid then
        let r := m.walkNext src die w a
        r.1.updRange q fun o => { o with page := if w.old && (match r.2 with
            | .more _ => false
            | _ => true) then none else some r.2 }
      else m
    | _ => m

/-- The physical base of the 64 KiB piece that holds a virtual address, with its permissions, for an access that `who` makes: from
the cluster's cached translations, or by a walk, for which the access waits and which caches what it finds (R395 to R397). -/
def Mach.translate (m : Mach) (cl who part va : Nat) (need : Nat) : Mach × TrRes :=
  if va / 2 ^ 57 ≠ 0 then (m, .bad .dataTranslation .errDecode)
  else
    let c := m.cluster cl
    match c.tlb.get? (va / 65536) with
    | some t => (m, if Nat.land t.perm need = need then .ok (t.frame + va % 65536) else .bad .dataPermission .errSecurity)
    | none => match (c.failed.get who []).find? (·.1 == va / 65536) with
      | some (_, none) => (m, .bad .dataTranslation .errDecode)
      | some (_, some st) => (m, .bad .accessError st)
      | none =>
        if (c.walks.get? who).isSome then (m, .wait)
        else
          let r := m.walkStart (.cluster cl who) (cl / 36) part va
          (r.1.keepWalk cl who part va false r.2, .wait)

/-- An access is over: the walks that failed for it are forgotten. -/
def Mach.endWalks (m : Mach) (cl who : Nat) : Mach :=
  let c := m.cluster cl
  if (c.failed.get? who).isSome then m.setCluster cl { c with failed := c.failed.del who } else m

/-- The units of a cluster that walk: a group for its data, the same for its fetch, and a transfer. -/
def whoData (slot g : Nat) : Nat := slot * 8 + g
def whoFetch (slot g : Nat) : Nat := 2 ^ 20 + slot * 8 + g
def whoMover (ticket : Nat) : Nat := 2 ^ 21 + ticket

/-- Where a global address leads for a partition, or why not (R27, R30, R34, R171, R345, R389). -/
def Mach.reach (m : Mach) (part gpa : Nat) : Target ⊕ (Cause × Status) :=
  let dev := gpa / 2 ^ 46
  let a := gpa % 2 ^ 46
  if dev = m.device then
    if a < 0x030000000000 then
      if m.granuleOwner (a / 2 ^ 30) == some part then .inl (.home (a / 128)) else .inr (.dataPermission, .errSecurity)
    else if 0x200000000000 ≤ a ∧ a < 0x200240000000 then
      let slot := (a - 0x200000000000) / 2 ^ 18
      if m.clusterOwner (clusterOfSlot slot) == some part then
        let off := a % 2 ^ 18
        if (m.core slot).launch.isSome ∧ off < 32768 * (m.core slot).share then .inl (.spad slot off)
        else .inr (.accessError, .errDecode)
      else .inr (.dataPermission, .errSecurity)
    else if 0x380000000000 ≤ a ∧ a < 0x3C0000000000 then
      if m.bit (aPart part Reg.PART_CFG) 12 then .inl (.companion a) else .inr (.dataPermission, .errSecurity)
    else .inr (.dataPermission, .errSecurity)
  else if m.epoch part = 0 then .inr (.dataPermission, .errSecurity)
  else if m.routeMask dev = 0 then .inr (.accessError, .errDecode)
  else .inl (.remote dev (a / 128))

/-! ### Issue of one instruction -/

/-- A register that an outstanding load has yet to write. -/
def LoadRec.writes (r : LoadRec) (vector : Bool) (n : Nat) : Bool :=
  r.vector == vector && (n == r.dst || (vector && r.width == 5 && n == r.dst + 1))

/-- No result of an outstanding load is wanted (R92): a load or a prefetch waits for the loads that write its base or its index;
every other instruction waits for all of them (log 35). -/
def Group.loadClear (x : Group) (w : W64) : Bool :=
  let mj := wordMajor w
  let iw := wordIW w
  if mj = 0x48 ∨ mj = 0x49 ∨ mj = 0x4A ∨ mj = 0x4E then
    x.loads.all fun r => (iw.an == 0 || !r.writes false iw.an) && !(mj == 0x4A && r.writes true iw.b)
  else x.loads.isEmpty

/-- Some group of a core has requests of a TST.S that wait for store-buffer entries (R530). -/
def Mach.tstWaits (m : Mach) (slot : Nat) : Bool :=
  (groupsOf m slot).any fun g => match m.group? slot g with
    | some y => y.full.any fun r => (match m.req? r with
      | some q => q.kind == .store && q.func == 1
      | none => false)
    | none => false

/-- The matrix engine takes the instruction of a word (R116, R152, R530, R425): its earlier work is over, no TST.S waits for
entries, and for an MMA the limiter lets it. A word of no matrix or tile instruction does not ask. -/
def Mach.engineTakes (m : Mach) (slot : Nat) (w : W64) : Bool :=
  let mj := wordMajor w
  if mj = 0x30 ∨ mj = 0x31 ∨ mj = 0x32 then
    (m.core slot).flight.isEmpty && !m.tstWaits slot && (mj == 0x32 || (m.core slot).hold == 0)
  else true

/-- A group is ready to issue: it waits for nothing, its next word is fetched, no store of it waits for room, no interlock and no
walk holds that word back. -/
def Mach.canIssue (m : Mach) (slot g : Nat) (x : Group) : Bool :=
  x.stat == .ready && x.full.isEmpty && ((m.cluster (clusterOfSlot slot)).walks.get? (whoData slot g)).isNone &&
    (match x.ir with
     | some w => x.loadClear w && m.engineTakes slot w
     | none => false)

/-- The group that a core issues next (R64): the first that is ready, in rotating order from the one after that which issued
last. -/
def Mach.nextGroup (m : Mach) (slot : Nat) : Option Nat :=
  ((List.range 8).map fun i => ((m.core slot).last + 1 + i) % 8).find? fun g => match m.group? slot g with
    | some x => m.canIssue slot g x
    | none => false

/-- A group may issue: it is ready and its core's turn is its own (R64), its array runs, and its core holds a launch and is not
being reset. -/
def Mach.mayIssue (m : Mach) (slot g : Nat) (x : Group) : Bool :=
  m.canIssue slot g x && m.nextGroup slot == some g && !(m.dieSt (dieOfSlot slot)).halted &&
    !(m.core slot).reset && (m.core slot).launch.isSome

/-- One step of the core, in which a group issues: its counter advances by one (R38), with the sum of its launch (R384), the
limiter's hold by one (R425), and events are counted: a step, an instruction, and a step in which some group waits for a
store-buffer entry. -/
def Mach.stepCore (m : Mach) (slot g : Nat) : Mach :=
  let c := m.core slot
  let m := m.setCore slot { c with steps := c.steps + 1, last := g, hold := c.hold - 1 }
  let m := match c.launch with
    | some l => m.updLaunch l fun y => { y with steps := y.steps + 1 }
    | none => m
  let waits := (groupsOf m slot).any fun g => match m.group? slot g with
    | some x => !x.full.isEmpty
    | none => false
  let m := (m.event slot 0x01 1).event slot 0x02 1
  if waits then m.event slot 0x08 1 else m

/-- The outcome of an instruction's checks and effect: the machine after, a fault, or nothing done yet. -/
inductive IssRes where
  | done (m : Mach)
  | fault (m : Mach) (x : FaultInfo)
  | hold (m : Mach)
deriving Repr

/-- One instruction issued by a group: the effect runs on the group as it stood (R91); a fault is precise (R79). One that must
wait for a walk is not issued. -/
def Mach.issueAs (m : Mach) (gr : GRef) (f : Mach → Group → IssRes) : Mach :=
  let slot := gr.slot.val
  let g := gr.group.val
  match m.group? slot g with
  | none => m
  | some x =>
    if m.mayIssue slot g x then
      match f (m.stepCore slot g) x with
      | .done m => m
      | .fault m x => m.raise slot g x
      | .hold m' => { m with clusters := m'.clusters, reqs := m'.reqs, nextReq := m'.nextReq }
    else m

/-- The group of a command has fetched the word that spells it (R93, R111). -/
def Mach.fetchedAs (m : Mach) (gr : GRef) (c : Instr) : Bool :=
  match m.group? gr.slot.val gr.group.val with
  | none => false
  | some x => match x.ir with
    | none => false
    | some w => decide (groupInstr gr w = some c)

/-- The outcome of a command by which a group issues an instruction: it acts once the group has fetched its word. -/
def asFetched (gr : GRef) (c : Instr) (f : Mach → Mach) (s : State) : Host.Outcome State Fault Refusal :=
  whenOn (fun m => if m.fetchedAs gr c then f m else m) s

/-- Why an instruction's word is refused: the fault of R95, or that of its operands. -/
inductive Refuse where
  | opcode | operand | barrier
deriving DecidableEq, Repr

/-- The cause a refusal raises. -/
def Refuse.cause : Refuse → Cause
  | .opcode => .illegalOpcode | .operand => .illegalOperand | .barrier => .predicatedBarrier

/-- The kinds of operand a field may hold (R94, R139): a vector register and how many follow it, a scalar or predicate
register, a predicate destination, a tile, a vector or scalar by `bs`, a scalar with `bs` required, a control field,
or nothing. -/
inductive Opd where
  | none | v (n : Nat) | s | p | pd | t | vs | sReq | ctl
deriving DecidableEq, Repr

/-- A field that must be zero is (R95). -/
def Opd.zeroOk (k : Opd) (x : Nat) : Bool := k != .none || x == 0
/-- A field names a register of its kind (R94, R88, R143). -/
def Opd.fits (k : Opd) (x : Nat) (bs : Bool) : Bool :=
  match k with
  | .none => true
  | .v n => decide (x + n ≤ 64)
  | .s => decide (x < 32)
  | .p => decide (x < 16)
  | .pd => decide (x < 16) && x != 0
  | .t => decide (x < 16)
  | .vs => if bs then decide (x < 32) else decide (x < 64)
  | .sReq => decide (x < 32)
  | .ctl => true

/-- The word checks of a Format R instruction (R94, R95): type, res0, unused fields, `bs`, then the operands. -/
def checkR (w : IW) (tyOk : Bool) (d a b c : Opd) : Option Refuse :=
  let bsOk := match b with
    | .vs => true
    | .sReq => w.bs
    | _ => !w.bs
  if !(tyOk && w.resR && bsOk && d.zeroOk w.dn && a.zeroOk w.an && b.zeroOk w.b && c.zeroOk w.c) then some .opcode
  else if d.fits w.dn w.bs && a.fits w.an w.bs && b.fits w.b w.bs && c.fits w.c w.bs then none else some .operand

/-- The word checks of a Format I instruction: `imm` tells whether the immediate is used. -/
def checkI (w : IW) (tyOk : Bool) (d a : Opd) (imm : Bool) : Option Refuse :=
  if !(tyOk && d.zeroOk w.dn && a.zeroOk w.an && (imm || w.lo == 0)) then some .opcode
  else if d.fits w.dn false && a.fits w.an false then none else some .operand

/-- An instruction with its word checks: the effect runs only when they pass. -/
def Mach.issue (m : Mach) (gr : GRef) (chk : Option Refuse) (f : Mach → Group → IssRes) : Mach :=
  m.issueAs gr fun m x =>
    match chk with
    | some r => .fault m (faultOf r.cause x.pc)
    | none => f m x

/-- An instruction that only changes its group's registers and goes on to the next address. -/
def Mach.issueReg (m : Mach) (gr : GRef) (chk : Option Refuse) (f : Group → Group) : Mach :=
  m.issue gr chk fun m x => .done (m.setGroup gr.slot.val gr.group.val (f x).advance)

/-- A scalar result: written once when some governing bit is set (R100). -/
def Group.scalarOut (g : Group) (w : IW) (x : W64) : Group := if g.rp w.pn = 0 then g else g.ws w.dn x
/-- A vector result: written in active lanes. -/
def Group.vectorOut (g : Group) (w : IW) (x : Vec) : Group := g.wv (g.rp w.pn) w.dn x
/-- A predicate result: written in the bits of active lanes. -/
def Group.predOut (g : Group) (w : IW) (x : W32) : Group := g.wp (g.rp w.pn) w.dn x
/-- The second operand of a vector Format R instruction: a scalar in every lane when `bs` is set. -/
def Group.vOrS (g : Group) (w : IW) : Vec := if w.bs then vsplat ((g.rs w.b).setWidth 32) else g.rv w.b

end Sys2Proof.Machine
end

