-- ==== Sys2Proof/Machine/Access.lean ====
section
/-! DEFINITION. A core's L1 (R209, R216, R221, R229 to R231), its scratchpad (R30, R232), the outgoing order of a group
(R177, R205, R215, R225), and the loads whose results have not been written (R169, R191). -/
namespace Sys2Proof.Machine

/-! ### The L1 -/

/-- Units of 32 KiB that the L1 has (R229). -/
def Core.units (c : Core) : Nat := 8 - c.share
/-- A global line number carries the fabric tag when another device is its home (R229). -/
def Mach.fabricLine (m : Mach) (line : Nat) : Bool := line / 2 ^ 39 != m.device
/-- A line that L1 caches: stacked memory, on this device or another (R209, R230). -/
def Target.cached (t : Target) : Bool :=
  match t with
  | .home _ => true
  | .remote _ l => decide (l < allLines)
  | _ => false
/-- The set of a line (R229). -/
def Core.l1Set (c : Core) (line : Nat) : Nat := line % (64 * c.units)

/-- A line looked up in the L1; a hit is the most recent use. Its words are inspected (R232): single-bit errors are corrected,
and a line with an uncorrectable one is discarded, to be fetched again; both are counted as corrected. -/
def Mach.l1Find (m : Mach) (slot line : Nat) : Mach × Option LineImg :=
  let c := m.core slot
  match c.l1.get? line with
  | none => (m, none)
  | some x =>
    let m := if x.soft = 0 ∧ x.bad = 0 then m
      else m.count64 (at_ (dieOfSlot slot) Reg.DBG_LA_CORR_CNT) (wordCount (x.soft ||| x.bad))
    if x.bad ≠ 0 then (m.setCore slot { c with l1 := c.l1.del line }, none)
    else (m.setCore slot { c with l1 := c.l1.put line { x with stamp := c.stamp + 1, soft := 0 }, stamp := c.stamp + 1 },
          some x.img)

/-- The least recently used way of a full set (R229). -/
def Core.l1Victim (c : Core) (line : Nat) : Option Nat :=
  let ls := c.l1.filter fun x => c.l1Set x.1 == c.l1Set line
  if ls.length < 4 then none
  else (ls.foldl (fun (b : Option (Nat × L1Line)) x => match b with
    | none => some x
    | some y => if x.2.stamp < y.2.stamp then some x else b) none).map (·.1)

/-- A line filled into the L1 (R229, R230); a core with none is left as it is. -/
def Mach.l1Fill (m : Mach) (slot line : Nat) (img : LineImg) : Mach :=
  let c := m.core slot
  if c.units = 0 then m
  else
    let l1 := match c.l1Victim line with
      | some v => if (c.l1.get? line).isSome then c.l1 else c.l1.del v
      | none => c.l1
    m.setCore slot { c with l1 := l1.put line { img := img, stamp := c.stamp + 1 }, stamp := c.stamp + 1 }

/-- Fills of a core that were asked for before an invalidation and must be discarded (R209). -/
def Mach.markInv (m : Mach) (slot : Nat) (p : Nat → Bool) : Mach :=
  { m with reqs := m.reqs.mapV fun q => match q.src with
      | .group s _ => if s == slot && p q.line then { q with inv := true } else q
      | _ => q }

/-- L1 lines and fetch lines of a core that satisfy a test are invalidated, with their outstanding fills. -/
def Mach.l1Drop (m : Mach) (slot : Nat) (p : Nat → Bool) : Mach :=
  let c := m.core slot
  let m := m.setCore slot { c with l1 := c.l1.filter fun x => !p x.1 }
  let m := { m with groups := m.groups.map fun (x : Nat × Group) =>
    if x.1 / 8 == slot then (x.1, { x.2 with fline := match x.2.fline with
      | some f => if p f.1 then none else some f
      | none => none }) else x }
  m.markInv slot p

/-- One line invalidated (R177, R209). -/
def Mach.l1Inv (m : Mach) (slot line : Nat) : Mach := m.l1Drop slot fun l => l == line

/-- The L1 action of a scope (R216). -/
def Mach.l1Action (m : Mach) (slot scope : Nat) : Mach :=
  if scope < 2 then m
  else if scope < 5 then m.l1Drop slot fun l => !m.fabricLine l
  else m.l1Drop slot fun _ => true

/-! ### The outgoing order of a group -/

/-- A location lies within a scope (Table 8.1); the scope GROUP takes in every location. -/
def Target.inScope (t : Target) (scope : Nat) : Bool :=
  match t with
  | .home _ | .spad _ _ => true
  | .companion _ => scope == 4 || scope == 5 || scope == 0
  | .remote _ _ => scope == 5 || scope == 0

/-- What a REL of a scope waits for: at GROUP, only accesses to local arrays (R215). -/
def Target.relScope (t : Target) (scope : Nat) : Bool :=
  if scope = 0 then (match t with
    | .spad _ _ => true
    | _ => false)
  else t.inScope scope

/-- The requests of an outgoing order. -/
def outRids (outs : List OutItem) : List Nat := outs.filterMap fun o => match o with
  | .req r => some r
  | .rel _ => none

/-- Some request of a group that satisfies a test has not been answered. -/
def Mach.outPending (m : Mach) (x : Group) (p : Target → Bool) : Bool :=
  (outRids x.outs ++ x.full).any fun r => match m.req? r with
    | some q => p q.tgt
    | none => false

/-- The markers that hold nothing more back removed from the front of an outgoing order (R215). -/
def Mach.pruneRel (m : Mach) : List Target → List OutItem → List OutItem
  | _, [] => []
  | seen, .req r :: t =>
    match m.req? r with
    | some q => .req r :: m.pruneRel (seen ++ [q.tgt]) t
    | none => m.pruneRel seen t
  | seen, .rel s :: t => if seen.any (·.relScope s) then .rel s :: m.pruneRel seen t else m.pruneRel seen t

/-- The first request of an order that may be sent now: no marker stands before it (R215). -/
def Mach.firstUnsent (m : Mach) : List OutItem → Option Nat
  | [] => none
  | .rel _ :: _ => none
  | .req r :: t =>
    match m.req? r with
    | some q => if q.sent || q.ans.isSome then m.firstUnsent t else some r
    | none => m.firstUnsent t

/-- Store-buffer entries in use: stores and STCs (R177, R183). -/
def Mach.entriesUsed (m : Mach) (x : Group) : Nat :=
  ((outRids x.outs).filter fun r => match m.req? r with
    | some q => q.kind == .store || q.kind == .stc
    | none => false).length

/-- The youngest entry of a group's buffer, when a store that enters now merges into it (R206): it touches the same line
in the same way and has not been sent. -/
def Mach.mergeInto (m : Mach) (x : Group) (q : Req) : Option Nat :=
  match x.outs.getLast? with
  | some (.req r) => match m.req? r with
    | some p =>
      if p.kind = .store ∧ q.kind = .store ∧ !p.sent ∧ p.tgt = q.tgt ∧ p.space = q.space ∧ p.rank = q.rank ∧
          p.line = q.line ∧ p.strm = q.strm ∧ p.ord = q.ord then some r else none
    | none => none
  | _ => none

/-- Requests that wait for entries enter while there is room (R177); a store is timed from then, an STC from its issue (R224). A
store may merge into the youngest entry (R206). -/
def Mach.enterFull (m : Mach) (slot g : Nat) : Nat → Mach
  | 0 => m
  | n + 1 =>
    match m.group? slot g with
    | none => m
    | some x => match x.full with
      | [] => m
      | r :: rest =>
        match (m.req? r).bind fun q => (m.mergeInto x q).map fun p => (p, q) with
        | some (p, q) =>
          let m := m.updReq p fun o => { o with mask := o.mask ||| q.mask, img := lmerge q.mask o.img q.img }
          ((m.dropReq r).setGroup slot g { x with full := rest }).enterFull slot g n
        | none =>
        if m.entriesUsed x ≥ 16 then m
        else
          let m := m.updReq r fun q => if q.kind = .store then { q with tick := m.now (dieOfSlot slot) } else q
          (m.setGroup slot g { x with full := rest, outs := x.outs ++ [.req r] }).enterFull slot g n

/-- An error status held against a group, the first under R16 (R192); one that reaches a group that has ended is
recorded against its launch (R81). -/
def Mach.holdStatus (m : Mach) (slot g : Nat) (ord : Nat) (st : Status) : Mach :=
  match m.group? slot g with
  | none => m
  | some x =>
    let m := m.setGroup slot g { x with
      held := some (match x.held with
        | some h => h.first st
        | none => st)
      heldOrd := if x.held.isSome then min x.heldOrd ord else ord }
    match x.stat, (m.core slot).launch with
    | .exited, some l => m.updLaunch l fun y => { y with faults := y.faults ++ [st] }
    | .haltFault, some l => m.updLaunch l fun y => { y with faults := y.faults ++ [st] }
    | _, _ => m

/-! ### Loads whose results are not written -/

/-- The cause that an error status raises for a load, ATOM, LDR or STC (R191); a squash raises ACCESS_ERROR (R225). -/
def loadCause (st : Status) (squash : Bool) : Cause :=
  if squash then .accessError else match st with
  | .errUncorrectable => .dataUncorrectable
  | .errPoison => .dataPoison
  | _ => .accessError

/-- The fault an instruction raises when lanes met different ones (R169): the status first under R16, then the lowest
lane; every lane that met any is named. -/
def pickFault (pc : W64) (xs : List (Nat × W64 × Cause × Status)) : Option FaultInfo :=
  match xs with
  | [] => none
  | x :: t =>
    let b := t.foldl (fun b y =>
      if y.2.2.2.rank < b.2.2.2.rank ∨ (y.2.2.2.rank = b.2.2.2.rank ∧ y.1 < b.1) then y else b) x
    some ⟨b.2.2.1, b.2.2.2, pc, b.2.1, maskOf fun l => xs.any fun y => y.1 == l⟩

/-- The value of a loaded element: its bytes, extended by the width code (R174). -/
def loadValue (width : Nat) (bs : List Byte) : W64 :=
  let x := BitVec.ofNat 64 (ofBytes bs)
  match width with
  | 1 => (x.setWidth 8 : BitVec 8).signExtend 64
  | 3 => (x.setWidth 16 : BitVec 16).signExtend 64
  | _ => x

/-- The known bytes of a lane. -/
def laneBytes (l : LaneLoad) : List Byte := l.bytes.map fun b => match b with
  | .val v => v
  | .at _ _ => 0

/-- The registers a completed load writes. -/
def Group.writeLoad (g : Group) (r : LoadRec) : Group :=
  if r.vector then
    r.lanes.foldl (fun g l =>
      let x := loadValue r.width (laneBytes l)
      let m := 1#32 <<< l.lane
      let g := g.wv m r.dst (vsplat (x.setWidth 32))
      if r.width = 5 then g.wv m (r.dst + 1) (vsplat ((x >>> 32).setWidth 32)) else g) g
  else match r.lanes with
    | l :: _ => g.ws r.dst (loadValue r.width (laneBytes l))
    | [] => g

/-- The oldest loads of a group that have every answer are carried out, in program order: registers are written, or
the fault of their statuses is raised, and what is younger takes no effect (R79, R92, R191). -/
def Mach.commitLoads (m : Mach) (slot g : Nat) : Nat → Mach
  | 0 => m
  | n + 1 =>
    match m.group? slot g with
    | none => m
    | some x => match x.loads with
      | [] => m
      | r :: rest =>
        if !r.rids.isEmpty then m
        else
          let va (l : Nat) : W64 := ((r.lanes.find? (·.lane == l)).map (·.va)).getD 0
          match pickFault r.pc (r.errs.map fun e => (e.1, va e.1, loadCause e.2.1 e.2.2, e.2.1)) with
          | some f => (m.setGroup slot g { x with
              pc := r.pc, lead := r.lead, ir := none, fetchRid := none, loads := [] }).raise slot g f
          | none => (m.setGroup slot g ({ x with loads := rest }.writeLoad r)).commitLoads slot g n

/-- Byte `off` of an answer: of its atomic results, eight bytes each, or of its line. -/
def Answer.byte (a : Answer) (off : Nat) : Byte :=
  if a.res.isEmpty then lbyte a.img off else (a.res.getD (off / 8) 0 >>> (8 * (off % 8))).setWidth 8

/-- An answer's bytes put into one load, with the status of the lanes that it concerns: those that read a poisoned
word, or every lane of the request. -/
def LoadRec.deliver (r : LoadRec) (rid : Nat) (a : Answer) : LoadRec :=
  let mine (b : BSrc) : Bool := match b with
    | .at i _ => i == rid
    | .val _ => false
  let hurt (l : LaneLoad) : Bool := l.bytes.any fun b => match b with
    | .at i o => i == rid && (a.psn == 0 || a.psn.getLsbD (o / 8))
    | .val _ => false
  { r with
    lanes := r.lanes.map fun l => { l with bytes := l.bytes.map fun b => match b with
        | .at i o => if i = rid then .val (a.byte o) else b
        | .val _ => b }
    rids := r.rids.filter (· != rid)
    errs := r.errs ++ (if a.status.failed then
      (r.lanes.filter fun l => l.bytes.any mine && hurt l).map fun l => (l.lane, a.status, a.squash) else []) }

/-- An answer delivered to the group that waits for it. A group that has halted reads no result, but the failure of what it has
written reaches its launch (R80, R193, R226). -/
def Mach.deliver (m : Mach) (slot g rid : Nat) (kind : RKind) (ord : Nat) (a : Answer) : Mach :=
  let gone : Bool := match m.group? slot g with
    | some x => x.stat == .haltFault
    | none => false
  if gone && kind.writes && a.status.failed && !a.squash then m.holdStatus slot g ord a.status
  else
    let m := m.updGroup slot g fun x => { x with loads := x.loads.map fun r => if r.rids.contains rid then r.deliver rid a else r }
    m.commitLoads slot g 64

/-- An answer of the companion (R367): an error completes the access with ERR_DECODE. -/
def extAnswer (e : ExtAns) : Answer := if e.failed then { status := .errDecode } else { status := .ok, img := e.img }

end Sys2Proof.Machine
end

