-- ==== Sys2Proof/Machine/Control.lean ====
section
/-! DEFINITION. Instruction fetch, branches, loops, system instructions and barriers (R66 to R75, R93 to R96,
R107 to R115), and the halting of a launch (R80). -/
namespace Sys2Proof.Machine

/-! ### Fetch (R110, R111, R231) -/

/-- FETCH_FAULT: `info` is the address that could not be fetched, `pc` that of the instruction that led there (R110). -/
def fetchFault (x : Group) (st : Status) : FaultInfo := ⟨.fetchFault, st, x.lead, x.pc, 0⟩

/-- The word at an address of a line. -/
def wordAt (img : LineImg) (addr : Nat) : W64 := lword img (addr % 128 / 8)

/-- The word of a line given to a group. -/
def Mach.gotWord (m : Mach) (slot g : Nat) (img : LineImg) (addr : Nat) : Mach :=
  m.updGroup slot g fun x => { x with ir := some (wordAt img addr), fetchRid := none }

/-- A fetched line kept: in the L1, or as the group's fetch line when the core has none (R231). A line that holds a poisoned
word is not, since a later fetch of that word must fail (R111). -/
def Mach.keepFetched (m : Mach) (slot g line : Nat) (a : Answer) : Mach :=
  if a.psn ≠ 0 then m
  else if (m.core slot).units = 0 then m.updGroup slot g fun x => { x with fline := some (line, a.img) }
  else (m.l1Inv slot line).l1Fill slot line a.img

/-- A line looked up where the group fetches from. -/
def Mach.findFetch (m : Mach) (slot g line : Nat) : Mach × Option LineImg :=
  if (m.core slot).units = 0 then
    match (m.group? slot g).bind (·.fline) with
    | some f => (m, if f.1 = line then some f.2 else none)
    | none => (m, none)
  else m.l1Find slot line

/-- A request for the line that holds a group's next word (R111, R224, R231). -/
def Mach.askFetch (m : Mach) (slot g part gpa : Nat) (t : Target) : Mach × Nat :=
  let (m, rid) := m.newReq { kind := .fetch, src := .group slot g, die := dieOfSlot slot, part := part, tgt := t,
                             line := gpa / 128, mask := maskRange (gpa % 128) 8, critical := true, tick := m.now (dieOfSlot slot) }
  (m.updGroup slot g fun y => { y with fetchRid := some rid }, rid)

/-- A fetch that has no request yet: translated with execute permission, looked up, or asked of its home (R111). -/
def Mach.fetchNew (m : Mach) (slot g : Nat) (x : Group) (part : Nat) : Mach :=
  let cl := clusterOfSlot slot
  if x.pc.toNat % 8 ≠ 0 then m.raise slot g (fetchFault x .errDecode)
  else match m.translate cl (whoFetch slot g) part x.pc.toNat 4 with
    | (m, .wait) => m
    | (m, .bad c st) =>
      (m.endWalks cl (whoFetch slot g)).raise slot g (fetchFault x (if c = .accessError then st else .errDecode))
    | (m, .ok gpa) =>
      match m.reach part gpa with
      | .inr _ => m.raise slot g (fetchFault x .errDecode)
      | .inl t =>
        let find (m : Mach) : Mach × Bool := match m.findFetch slot g (gpa / 128) with
          | (m, some img) => ((m.event slot 0x06 1).gotWord slot g img gpa, true)
          | (m, none) => (m.event slot 0x07 1, false)
        match t with
        | .home _ => let (m, hit) := find m; if hit then m else (m.askFetch slot g part gpa t).1
        | .remote _ l =>
          let (m, hit) := if l < allLines then find m else (m, false)
          if hit then m else let (m, rid) := m.askFetch slot g part gpa t; m.remoteSend rid
        | .spad s off =>
          let (m, a) := m.windowRead s (off / 128 * 128) (maskRange (off % 128) 8)
          if a.status.failed then m.raise slot g (fetchFault x a.status) else m.gotWord slot g a.img gpa
        | .companion a =>
          if m.sable part then m.raise slot g (fetchFault x .errDecode)
          else (m.askFetch slot g part gpa t).1.emit (.readCmp a 8)

/-- The answer of a fetch that has come back: of its home, or of the companion. -/
def fetchAns (q : Req) (ext : Option ExtAns) : Option Answer :=
  match q.ans, q.tgt with
  | some a, _ => some a
  | none, .companion _ => ext.map extAnswer
  | none, _ => none

/-- FETCH: a fetch completes through the L1 or the fetch line, is asked for, or raises FETCH_FAULT (R111). -/
def Mach.fetchStep (m : Mach) (slot g : Nat) (ext : Option ExtAns) : Mach :=
  match m.group? slot g, m.coreLaunch slot with
  | some x, some l =>
    if x.stat ≠ .ready ∨ x.ir.isSome ∨ (m.dieSt (dieOfSlot slot)).halted ∨ (m.core slot).reset then m
    else match x.fetchRid with
      | none => m.fetchNew slot g x l.part
      | some rid => match m.req? rid with
        | none => m.updGroup slot g fun y => { y with fetchRid := none }
        | some q => match fetchAns q ext with
          | none => m
          | some a =>
            let m := (m.freeEnt rid).dropReq rid
            if a.status.failed then (m.updGroup slot g fun y => { y with fetchRid := none }).raise slot g (fetchFault x a.status)
            else
              let m := if q.inv || !q.tgt.cached then m else m.keepFetched slot g q.line a
              m.gotWord slot g a.img x.pc.toNat
  | _, _ => m

/-- FETCH. -/
def execFetch (g : GRef) (ext : Option ExtAns) : State → Host.Outcome State Fault Refusal :=
  whenOn fun m => m.fetchStep g.slot.val g.group.val ext

/-- ILLEGAL_OPCODE. -/
def execIllegalOpcode (g : GRef) (word : W64) : State → Host.Outcome State Fault Refusal :=
  whenOn fun m => match m.group? g.slot.val g.group.val with
    | some x => if x.ir = some word ∧ (groupInstr g word).isNone then m.issue g (some .opcode) fun m _ => .done m else m
    | none => m

/-! ### Branches and loops (R107 to R109) -/

/-- The fields of a branch word (Table 4.3). -/
def bwCond (w : BW) : Nat := bitsOf w.mid.toNat 19 2
def bwLink (w : BW) : Nat := bitsOf w.mid.toNat 14 5
def bwTarget (w : BW) : Nat := bitsOf w.mid.toNat 9 5
/-- pc + 8 × `offset`, sign-extended (R108). -/
def branchDest (pc : W64) (off : W32) : W64 := pc + 8 * off.signExtend 64

/-- A group that goes on at another address; a debugger's step ends there. -/
def Group.jump (g : Group) (dest : W64) : Group :=
  let g := { g with lead := g.pc, pc := dest, ir := none }
  if g.stepping then { g with stat := .haltDebug, back := .ready, stepping := false, reason := 2 } else g

/-- A branch taken or not, and its link register (R107, R108). -/
def Mach.branch (m : Mach) (gr : GRef) (w : BW) (res0 : Bool) (dest : Group → W64) (ind : Bool) : Mach :=
  let chk := if bwCond w = 3 ∨ !res0 then some Refuse.opcode else none
  m.issue gr chk fun m x =>
    let slot := gr.slot.val
    let g := gr.group.val
    if condHolds (bwCond w) (x.rp w.pred.toNat) then
      let d := dest x
      if ind ∧ d.toNat % 8 ≠ 0 then .fault m ⟨.fetchFault, .errDecode, x.pc, d, 0⟩
      else .done (m.setGroup slot g ((x.ws (bwLink w) (x.pc + 8)).jump d))
    else .done (m.setGroup slot g x.advance)

/-- BR. -/
def execBr (g : GRef) (w : BW) : State → Host.Outcome State Fault Refusal :=
  asFetched g (.br g w) fun m => m.branch g w (bitsOf w.mid.toNat 0 14 == 0) (fun x => branchDest x.pc w.off) false
/-- BR.IND. -/
def execBrInd (g : GRef) (w : BW) : State → Host.Outcome State Fault Refusal :=
  asFetched g (.brInd g w) fun m => m.branch g w (bitsOf w.mid.toNat 0 9 == 0 && w.off == 0) (fun x => x.rs (bwTarget w)) true

/-- The word checks of LOOP (R109). -/
def loopCheck (w : BW) : Option Refuse :=
  if bwCond w ≠ 0 ∨ bitsOf w.mid.toNat 0 14 ≠ 0 then some .opcode
  else if w.pred ≠ 0 ∨ bwLink w = 0 then some .operand else none

/-- LOOP: the counter falls by one, modulo 2⁶⁴; a result that is not zero branches. -/
def execLoop (g : GRef) (w : BW) : State → Host.Outcome State Fault Refusal :=
  asFetched g (.loop g w) fun m => m.issue g (loopCheck w) fun m x =>
    let v := x.rs (bwLink w) - 1
    let y := x.ws (bwLink w) v
    .done (m.setGroup g.slot.val g.group.val (if v ≠ 0 then y.jump (branchDest x.pc w.off) else y.advance))

/-! ### System instructions (R112 to R115) -/

/-- NOP. -/
def execNop (g : GRef) (w : IW) : State → Host.Outcome State Fault Refusal :=
  asFetched g (.nop g w) fun m => m.issueReg g (checkI w (w.t == 0) .none .none false) fun x => x

/-- The word checks of EXIT and the barriers: p0 alone may govern them (R67). -/
def barCheck (w : IW) : Option Refuse :=
  match checkI w (w.t == 0) .none .none false with
  | some r => some r
  | none => if w.pred = 0 then none else some .barrier

/-- The statuses of a group's transfers that ended in error without having been waited on (R200). -/
def ticketFaults (c : ClusterSt) (slot g : Nat) : List Status :=
  c.mover.filterMap fun t => if t.slot = slot ∧ t.group = g then
    (match t.status with
      | some s => if s.failed then some s else none
      | none => none) else none

/-- EXIT (R72, R192): the group ends; its buffered stores still drain, and its transfers stay for the block-cluster (R199). -/
def Mach.exitGroup (m : Mach) (slot g : Nat) : Mach :=
  let cl := clusterOfSlot slot
  let m := m.loseResv slot g
  let errs := (match m.group? slot g with
    | some x => (match x.held with
      | some h => [h]
      | none => [])
    | none => []) ++ ticketFaults (m.cluster cl) slot g
  let m := m.updGroup slot g fun x => { x with stat := .exited, stepping := false, ir := none, fetchRid := none }
  match (m.core slot).launch with
  | some l => m.updLaunch l fun y => { y with faults := y.faults ++ errs }
  | none => m

/-- BRK halts the group when a debugger is attached to its launch and some governing bit is set; in a Sable-mode
partition, and otherwise, it is a NOP (R115). -/
def Mach.brkAt (m : Mach) (slot g : Nat) (w : IW) (x : Group) : Mach :=
  let att := match m.coreLaunch slot with
    | some l => l.attached
    | none => false
  let m := m.setGroup slot g x.advance
  if att && x.rp w.pn != 0 && !m.sableCluster (clusterOfSlot slot) then
    (m.debugHalt slot g 3 0).updGroup slot g fun y => { y with brk := w.lo, back := .ready }
  else m

/-- BRK. -/
def execBrk (g : GRef) (w : IW) : State → Host.Outcome State Fault Refusal :=
  asFetched g (.brk g w) fun m => m.issue g (checkI w (w.t == 0) .none .none true) fun m x =>
    .done (m.brkAt g.slot.val g.group.val w x)

/-- The special registers of Table 4.11. -/
def Mach.special (m : Mach) (slot g : Nat) (x : Group) (i : Nat) : W64 :=
  let l := m.coreLaunch slot
  match i with
  | 0 => (m.core slot).steps
  | 1 => m.rd64 (at_ (dieOfSlot slot) Reg.CLK_RIM_TIMER)
  | 2 => x.pc
  | 3 => BitVec.ofNat 64 (dieOfSlot slot)
  | 4 => BitVec.ofNat 64 slot
  | 5 => BitVec.ofNat 64 g
  | 6 => BitVec.ofNat 64 ((l.map Launch.tag).getD 0)
  | 7 => BitVec.ofNat 64 (32768 * (m.core slot).share)
  | 8 => BitVec.ofNat 64 ((l.map Launch.acc).getD 0)
  | 9 => BitVec.ofNat 64 m.device
  | _ => BitVec.ofNat 64 ((l.map Launch.part).getD 0)

/-- The word checks of RDSR: an index that the table does not list is ILLEGAL_OPERAND (R113). -/
def rdsrCheck (w : IW) : Option Refuse :=
  match checkI w (w.t == 0) .s .none true with
  | some r => some r
  | none => if w.lo.toNat ≤ 0x0A then none else some .operand

/-- RDSR. -/
def execRdsr (g : GRef) (w : IW) : State → Host.Outcome State Fault Refusal :=
  asFetched g (.rdsr g w) fun m => m.issue g (rdsrCheck w) fun m x =>
    .done (m.setGroup g.slot.val g.group.val
      (x.scalarOut w (m.special g.slot.val g.group.val x w.lo.toNat)).advance)

/-! ### Barriers (R68 to R75) -/

/-- The groups of a block. -/
def Mach.blockGroups (m : Mach) (slot : Nat) : List (Nat × Nat) := (groupsOf m slot).map fun g => (slot, g)

/-- The core slots of the block-cluster in a slot of a cluster, by its shape (R58): `i` is the slot's number. -/
def bcSlots (cl bcX bcY i : Nat) : List Nat :=
  let perRow := 8 / bcX
  let ox := i % perRow * bcX
  let oy := i / perRow * bcY
  (List.range (bcX * bcY)).map fun r => slotOfIndex cl (8 * (oy + r / bcX) + ox + r % bcX)

/-- The shape of the launch that a cluster holds. -/
def Mach.bcShape (m : Mach) (cl : Nat) : Nat × Nat :=
  match (m.cluster cl).launch with
  | some l => (match m.launch? l with
    | some y => (y.bcX, y.bcY)
    | none => (1, 1))
  | none => (1, 1)

/-- The core slots of a resident block-cluster. -/
def Mach.residentSlots (m : Mach) (cl i : Nat) : List Nat := bcSlots cl (m.bcShape cl).1 (m.bcShape cl).2 i

/-- The slot of a cluster whose block-cluster has its origin or another of its blocks at a core. -/
def Mach.residentOf (m : Mach) (slot : Nat) : Option Nat :=
  let cl := clusterOfSlot slot
  ((m.cluster cl).slots.find? fun x => (m.residentSlots cl x.1).contains slot).map (·.1)

/-- The groups of a block-cluster. -/
def Mach.bcGroups (m : Mach) (cl i : Nat) : List (Nat × Nat) := (m.residentSlots cl i).flatMap fun s => m.blockGroups s

/-- The participants of a barrier. -/
def Mach.barGroups (m : Mach) (b : BarRef) : List (Nat × Nat) :=
  match b with
  | .block s => m.blockGroups s.val
  | .cluster cl i => if ((m.cluster cl.val).slots.get? i.val).isSome then m.bcGroups cl.val i.val else []

/-- A group waits at the kind of barrier. -/
def Mach.waitsAt (m : Mach) (cluster : Bool) (p : Nat × Nat) : Bool :=
  match m.group? p.1 p.2 with
  | some x => x.cur == (if cluster then .waitCluster else .waitBlock)
  | none => false

/-- A group's release for a barrier is complete: every in-scope entry has been answered (R69, R219). -/
def Mach.released (m : Mach) (p : Nat × Nat) : Bool :=
  match m.group? p.1 p.2 with
  | some x => x.loads.isEmpty && !m.outPending x (·.inScope 2)
  | none => true

/-- A group has exited. -/
def Mach.hasExited (m : Mach) (p : Nat × Nat) : Bool :=
  match m.group? p.1 p.2 with
  | some x => x.stat == .exited
  | none => true

/-- The kind of a barrier. -/
def barIsCluster : BarRef → Bool
  | .block _ => false
  | .cluster _ _ => true

/-- The timer of a barrier started or stopped. -/
def Mach.setBar (m : Mach) (b : BarRef) (start : Option Nat) (kept : Nat) : Mach :=
  match b with
  | .block s => let c := m.core s.val; m.setCore s.val { c with barStart := start, barKept := kept }
  | .cluster cl i =>
    let c := m.cluster cl.val
    m.setCluster cl.val { c with slots := c.slots.upd i.val fun r => { r with barStart := start, barKept := kept } }

/-- When a barrier became pending, unless its timer is paused. -/
def Mach.barStartOf (m : Mach) (b : BarRef) : Option Nat :=
  match b with
  | .block s => (m.core s.val).barStart
  | .cluster cl i => (((m.cluster cl.val).slots.get? i.val).map (·.barStart)).getD none

/-- The die whose timer times a barrier. -/
def barDie : BarRef → Nat
  | .block s => dieOfSlot s.val
  | .cluster cl _ => cl.val / 36

/-- A group arrives at its next barrier and waits (R68); the first to do so makes it pending (R73), its timer paused
while a participant is halted by a debugger (R74). -/
def Mach.arriveBar (m : Mach) (slot g : Nat) (b : BarRef) (x : Group) : Mach :=
  let cluster := barIsCluster b
  let first := !(m.barGroups b).any (m.waitsAt cluster)
  let halted := (m.barGroups b).any fun p => match m.group? p.1 p.2 with
    | some y => y.stat == .haltDebug || y.stepping
    | none => false
  let m := if first then m.setBar b (if halted then none else some (m.now (barDie b))) 0 else m
  m.setGroup slot g { x with
    stat := if cluster then .waitCluster else .waitBlock
    nBlock := if cluster then x.nBlock else x.nBlock + 1
    nCluster := if cluster then x.nCluster + 1 else x.nCluster
    order := x.order + 1 }

/-- BAR.BLOCK. -/
def execBarBlock (g : GRef) (w : IW) : State → Host.Outcome State Fault Refusal :=
  asFetched g (.barBlock g w) fun m => m.issue g (barCheck w) fun m x => .done (m.arriveBar g.slot.val g.group.val (.block g.slot) x)

/-- BAR.CLUSTER. -/
def execBarCluster (g : GRef) (w : IW) : State → Host.Outcome State Fault Refusal :=
  asFetched g (.barCluster g w) fun m => m.issue g (barCheck w) fun m x =>
    let cl : Cluster := Fin.ofNat 576 (clusterOfSlot g.slot.val)
    match m.residentOf g.slot.val with
    | some i => .done (m.arriveBar g.slot.val g.group.val (.cluster cl (Fin.ofNat 64 i)) x)
    | none => .hold m

/-- Every participant has arrived or exited, each with its release complete, and some group waits (R69). -/
def Mach.barReady (m : Mach) (b : BarRef) : Bool :=
  let gs := m.barGroups b
  let c := barIsCluster b
  gs.any (m.waitsAt c) && gs.all fun p => (m.waitsAt c p || m.hasExited p) && m.released p

/-- The barrier completes: waiting groups become ready after the acquire of its scope (R69, R70, R216). -/
def Mach.barComplete (m : Mach) (b : BarRef) : Mach :=
  let c := barIsCluster b
  let gs := (m.barGroups b).filter (m.waitsAt c)
  let m := if c then gs.foldl (fun m p => m.l1Action p.1 2) m else m
  let m := gs.foldl (fun m p => m.updGroup p.1 p.2 Group.finish) m
  m.setBar b none 0

/-- BARRIER_COMPLETE. -/
def execBarrierComplete (b : BarRef) : State → Host.Outcome State Fault Refusal :=
  whenOn fun m => if m.barReady b && !m.still (barDie b) then m.barComplete b else m

/-- A group has arrived at a barrier, its release complete (R219), or has exited. -/
def Mach.arrived (m : Mach) (cluster : Bool) (p : Nat × Nat) : Bool :=
  (m.waitsAt cluster p && m.released p) || m.hasExited p

/-- The mask of a core's groups that have arrived or exited. -/
def Mach.arrivedMask (m : Mach) (cluster : Bool) (slot : Nat) : Nat :=
  ((groupsOf m slot).filter fun g => m.arrived cluster (slot, g)).foldl (fun a g => a + 2 ^ g) 0

/-- The timeout of a barrier's launch. -/
def Mach.barLimit (m : Mach) (b : BarRef) : Nat :=
  match b with
  | .block s => ((m.coreLaunch s.val).map Launch.barTimeout).getD 1000000
  | .cluster cl _ => match (m.cluster cl.val).launch with
    | some l => ((m.launch? l).map Launch.barTimeout).getD 1000000
    | none => 1000000

/-- BARRIER_TIMEOUT (R73 to R75): each group that has neither arrived nor exited is faulted. The timer then stands still; where
the groups go on under a debugger, it counts from 0 again once the barrier is resumed (log 91). -/
def Mach.barTimeoutAt (m : Mach) (b : BarRef) : Mach :=
  match m.barStartOf b with
  | none => m
  | some v =>
    if !expired (m.now (barDie b)) v (m.barLimit b) then m
    else
      let c := barIsCluster b
      let late := (m.barGroups b).filter fun p => !m.arrived c p
      if late.isEmpty then m
      else
        let info (p : Nat × Nat) : W64 := BitVec.ofNat 64 (m.arrivedMask c p.1 + if c then 256 else 0)
        let pc (m : Mach) (p : Nat × Nat) : W64 := ((m.group? p.1 p.2).map (·.pc)).getD 0
        (late.foldl (fun m' p => m'.raise p.1 p.2 (faultOf .barrierTimeout (pc m' p) (info p))) m).setBar b none 0

/-- BARRIER_TIMEOUT. -/
def execBarrierTimeout (b : BarRef) : State → Host.Outcome State Fault Refusal := whenOn fun m => m.barTimeoutAt b

/-- The timers of a cluster's pending barriers run on (R74), but for those with a participant that a debugger has halted
or lets step. -/
def Mach.resumeBars (m : Mach) (cl : Nat) : Mach :=
  let now := m.now (cl / 36)
  let held (ps : List (Nat × Nat)) : Bool := ps.any fun p => match m.group? p.1 p.2 with
    | some x => x.stat == .haltDebug || x.stepping
    | none => false
  let c := m.cluster cl
  let m := m.setCluster cl { c with slots := c.slots.map fun (x : Nat × Resident) =>
    let gs := m.bcGroups cl x.1
    if x.2.barStart.isNone && gs.any (fun p => m.waitsAt true p) && !held gs then
      (x.1, { x.2 with barStart := some (now - x.2.barKept), barKept := 0 }) else x }
  (slotsOfCluster cl).foldl (fun m s =>
    let gs := m.blockGroups s
    let k := m.core s
    if k.barStart.isNone && gs.any (fun p => m.waitsAt false p) && !held gs then
      m.setCore s { k with barStart := some (now - k.barKept), barKept := 0 } else m) m

/-- EXIT: a group that a debugger let step has gone, and the barriers it held up run on (R74). -/
def execExit (g : GRef) (w : IW) : State → Host.Outcome State Fault Refusal :=
  asFetched g (.exit g w) fun m => m.issue g (barCheck w) fun m x =>
    let m := m.exitGroup g.slot.val g.group.val
    .done (if x.stepping then m.resumeBars (clusterOfSlot g.slot.val) else m)

/-- A halted group still completes what it has issued: loads, and matrix work on its tiles (R497). -/
def Mach.groupHalting (m : Mach) (slot g : Nat) (x : Group) : Bool :=
  let acc := ((m.coreLaunch slot).map Launch.acc).getD 0
  !x.loads.isEmpty || (m.core slot).flight.any fun f => f.tile / acc == g

/-- A HALT or STEP that is not over, of a group that satisfies a test, completes with a status (Table 18.1). -/
def Mach.dbgCut (m : Mach) (p : Nat → Bool) (st : Status) : Mach :=
  (List.range 16).foldl (fun m d => match (m.dieSt d).dbgReq with
    | none => m
    | some (slot, g) =>
      let live := match m.group? slot g with
        | some x => x.stepping || (x.stat == .haltDebug && m.groupHalting slot g x)
        | none => false
      if live && p slot then
        (m.setFld (at_ d Reg.DBG_CMD) 8 8 st.code.toNat).setDie d { m.dieSt d with dbgReq := none }
      else m) m

end Sys2Proof.Machine
end

