-- ==== Sys2Proof/Machine/Memory.lean ====
section
/-! DEFINITION. Memory instructions (R167 to R193): loads, stores, prefetches, atomics, reduce-stores, the reserved
pair and fences, the store buffer, and the answers that come back. -/
namespace Sys2Proof.Machine

/-! ### Addresses and pieces -/

/-- A part of one lane's access that lies within one line: the lane, its address, where the part begins in the element,
its bytes, the line key that L1 and forwarding use, the offset in the line, and the target line. -/
structure Piece where
  lane : Nat
  va : W64
  start : Nat
  n : Nat
  key : Nat
  rank : Nat
  off : Nat
  tgt : Target
deriving DecidableEq, Repr

/-- A fault of one lane: lane, address, cause, status. -/
abbrev LaneFault := Nat × W64 × Cause × Status

/-- What the lanes of an instruction resolve to. -/
inductive Resolved where
  | wait
  | ok (ps : List Piece) (fs : List LaneFault)
deriving DecidableEq, Repr

/-- The parts of an element of n bytes at an address: cut at a line boundary (R176, R177). -/
def cutAt (va : W64) (n : Nat) : List (Nat × Nat) :=
  let o := va.toNat % 128
  if o + n ≤ 128 then [(0, n)] else [(0, 128 - o), (128 - o, n - (128 - o))]

/-- One part of a .GLB access (R169, R171). -/
def Mach.resolveGlb (m : Mach) (cl who part lane : Nat) (va : W64) (need s n : Nat) : Mach × Resolved :=
  let a := va + BitVec.ofNat 64 s
  match m.translate cl who part a.toNat need with
  | (m, .wait) => (m, .wait)
  | (m, .bad c st) => (m, .ok [] [(lane, va, c, st)])
  | (m, .ok gpa) =>
    match m.reach part gpa with
    | .inr (c, st) => (m, .ok [] [(lane, va, c, st)])
    | .inl t =>
      let t := match t with
        | .spad s o => Target.spad s (o / 128 * 128)
        | .companion a => Target.companion (a / 128 * 128)
        | t => t
      (m, .ok [⟨lane, va, s, n, gpa / 128, 0, gpa % 128, t⟩] [])

/-- The results of several parts together. -/
def Resolved.and (a b : Resolved) : Resolved :=
  match a, b with
  | .wait, _ => .wait
  | _, .wait => .wait
  | .ok p f, .ok q g => .ok (p ++ q) (f ++ g)

/-- Every part of every lane of a .GLB access. -/
def Mach.resolveLanes (m : Mach) (cl who part need n : Nat) : List (Nat × W64) → Mach × Resolved
  | [] => (m, .ok [] [])
  | (lane, va) :: t =>
    let (m, r) := (cutAt va n).foldl (fun (acc : Mach × Resolved) p =>
      let (m, r) := acc.1.resolveGlb cl who part lane va need p.1 p.2
      (m, acc.2.and r)) (m, .ok [] [])
    let (m, r') := m.resolveLanes cl who part need n t
    (m, r.and r')

/-- The parts of an access to a scratchpad of the issuing core's block-cluster (R76, R170). -/
def spadPieces (slot rank share lane : Nat) (va : W64) (off n : Nat) : Resolved :=
  if off + n > 32768 * share then .ok [] [(lane, va, .scratchpadRange, .errDecode)]
  else .ok ((cutAt (BitVec.ofNat 64 off) n).map fun p =>
    ⟨lane, va, p.1, p.2, (off + p.1) / 128, rank, (off + p.1) % 128, .spad slot ((off + p.1) / 128 * 128)⟩) []

/-- The core slot of a peer's rank in the issuing core's block-cluster (R76). -/
def Mach.peerSlot (m : Mach) (slot rank : Nat) : Option Nat :=
  match m.residentOf slot with
  | some i => (m.residentSlots (clusterOfSlot slot) i)[rank]?
  | none => none

/-- One lane of a .SPD or .CSP access. -/
def Mach.resolveSpad (m : Mach) (slot space n lane : Nat) (va : W64) : Resolved :=
  let share := (m.core slot).share
  if space = 1 then spadPieces slot 0 share lane va va.toNat n
  else if va.toNat / 2 ^ 38 ≠ 0 then .ok [] [(lane, va, .scratchpadRange, .errDecode)]
  else
    let rank := va.toNat / 2 ^ 32
    match m.peerSlot slot rank with
    | none => .ok [] [(lane, va, .scratchpadRange, .errDecode)]
    | some s => spadPieces s rank share lane va (va.toNat % 2 ^ 32) n

/-- What lanes resolve to, the walks that failed for them forgotten once none is under way. -/
def Mach.settleWalks (cl who : Nat) (r : Mach × Resolved) : Mach × Resolved :=
  match r.2 with
  | .wait => r
  | _ => (r.1.endWalks cl who, r.2)

/-- Every part of the active lanes of a load or store (R168 to R172, R176). -/
def Mach.resolve (m : Mach) (slot g part space need n : Nat) (ls : List (Nat × W64)) : Mach × Resolved :=
  let cl := clusterOfSlot slot
  if space = 0 then Mach.settleWalks cl (whoData slot g) (m.resolveLanes cl (whoData slot g) part need n ls)
  else (m, ls.foldl (fun r l => r.and (m.resolveSpad slot space n l.1 l.2)) (.ok [] []))

/-! ### Loads and stores -/

/-- The major of a load or store. -/
inductive LsForm where
  | s | v | g
deriving DecidableEq, Repr

/-- Bytes of a width code (Table 7.4). -/
def widthBytes (w : Nat) : Nat := if w < 2 then 1 else if w < 4 then 2 else if w = 4 then 4 else 8

/-- The word checks of loads and stores (R168, R172 to R174). -/
def lsCheck (form : LsForm) (store : Bool) (func : Nat) (w : IW) : Option Refuse :=
  let width := func % 8
  let hint := func / 8 % 4
  let fOk := decide (func < 32) && decide (width < 6) && hint != 3 && decide (w.t < 3) &&
    (!store || (width == 0 || width == 2 || width == 4 || width == 5)) && !(store && hint == 1) &&
    !(w.t != 0 && hint != 0)
  let d := match form with
    | .s => Opd.s
    | _ => Opd.v (if width = 5 then 2 else 1)
  match form with
  | .g => if w.c / 8 ≠ 0 then some .opcode else checkR w fOk d .s (.v 1) .ctl
  | _ => checkI w fOk d .s true

/-- The active lanes with their addresses (Table 7.3); a scalar form acts once, as lane 0. -/
def Group.lsLanes (x : Group) (form : LsForm) (w : IW) (n : Nat) : List (Nat × W64) :=
  let p := x.rp w.pn
  let base := x.rs w.an
  match form with
  | .s => if p = 0 then [] else [(0, base + w.lo.signExtend 64)]
  | .v => ((List.range 32).filter fun l => p.getLsbD l).map fun l => (l, base + w.lo.signExtend 64 + BitVec.ofNat 64 (l * n))
  | .g => ((List.range 32).filter fun l => p.getLsbD l).map fun l =>
      let i := vget (x.rv w.b) l
      let e : W64 := if w.c / 4 % 2 = 1 then i.signExtend 64 else i.setWidth 64
      (l, base + (e <<< (w.c % 4)))

/-- The byte of a group's own store buffer that a load of the same address form reads: the youngest (R207). -/
def Mach.forwarded (m : Mach) (x : Group) (space rank key off : Nat) : Option Byte :=
  ((outRids x.outs).reverse).findSome? fun r => match m.req? r with
    | some q => if q.kind = .store ∧ q.space = space ∧ q.rank = rank ∧ q.line = key ∧ q.mask.getLsbD off then
        some (lbyte q.img off) else none
    | none => none

/-- The byte of an own-scratchpad offset as its group reads it. -/
def Mach.spadByte (m : Mach) (slot : Nat) (x : Group) (off : Nat) : Byte :=
  (m.forwarded x 1 0 (off / 128) (off % 128)).getD (Cells.read (m.core slot).spad off)

/-- A request of a group for a line that one of its parts names, timed from now (R224). -/
def Mach.groupReq (m : Mach) (slot g part : Nat) (kind : RKind) (p : Piece) : Req :=
  { kind := kind, src := .group slot g, die := dieOfSlot slot, part := part, tgt := p.tgt, rank := p.rank, line := p.key
    tick := m.now (dieOfSlot slot) }

/-- The requests of a load's lines: those that L1 does not hold, one a line (R177, R178). -/
def Mach.askLine (m : Mach) (slot g : Nat) (part space : Nat) (urg strm : Bool) (acc : Tab Nat) (ps : List Piece) (p : Piece) :
    Mach × Tab Nat :=
  match acc.get? (p.key * 64 + p.rank) with
  | some _ => (m, acc)
  | none =>
    let mask := ps.foldl (fun (k : LineMask) q => if q.key = p.key ∧ q.rank = p.rank then k ||| maskRange q.off q.n else k) 0
    let (m, rid) := m.newReq { m.groupReq slot g part .load p with
                                 space := space, mask := mask, urg := urg, strm := strm, critical := urg }
    let m := match p.tgt with
      | .remote _ _ => m.remoteSend rid
      | .companion a => m.emit (.readCmp a 128)
      | _ => m
    (m, acc.put (p.key * 64 + p.rank) rid)

/-- A group has an access to a line outstanding whose value a later load of that line may not precede (R208): any but a store,
whose bytes are forwarded. -/
def Mach.ownOut (m : Mach) (slot g line : Nat) : Bool :=
  m.reqs.any fun x => x.2.src == .group slot g && x.2.line == line && x.2.space == 0 &&
    (x.2.kind == .load || x.2.kind == .ldr || x.2.kind == .atom || x.2.kind == .red || x.2.kind == .stc)

/-- The L1 copies that a load finds, with the hits and misses counted; a .STRM load uses none and ends one (R209), and a line for
which its group already waits is asked for again. -/
def Mach.l1Look (m : Mach) (slot g space : Nat) (strm : Bool) : List Piece → Tab LineImg → Mach × Tab LineImg
  | [], acc => (m, acc)
  | p :: t, acc =>
    if space ≠ 0 ∨ !p.tgt.cached ∨ (acc.get? p.key).isSome then m.l1Look slot g space strm t acc
    else if strm then (m.l1Inv slot p.key).l1Look slot g space strm t acc
    else match if m.ownOut slot g p.key then (m, none) else m.l1Find slot p.key with
      | (m, some img) => (m.event slot 0x06 1).l1Look slot g space strm t (acc.put p.key img)
      | (m, none) => (m.event slot 0x07 1).l1Look slot g space strm t acc

/-- The bytes of one part of a load: forwarded, from L1, or of a request. -/
def Mach.pieceBytes (m : Mach) (x : Group) (space : Nat) (hits : Tab LineImg) (rids : Tab Nat) (p : Piece) : List BSrc :=
  (List.range p.n).map fun k =>
    match m.forwarded x space p.rank p.key (p.off + k) with
    | some b => .val b
    | none => match hits.get? p.key with
      | some img => .val (lbyte img (p.off + k))
      | none => .at ((rids.get? (p.key * 64 + p.rank)).getD 0) (p.off + k)

/-- A part needs its request: neither forwarding nor L1 gives all of its bytes. -/
def Mach.pieceAsks (m : Mach) (x : Group) (space : Nat) (hits : Tab LineImg) (p : Piece) : Bool :=
  (hits.get? p.key).isNone && (List.range p.n).any fun k => (m.forwarded x space p.rank p.key (p.off + k)).isNone

/-- A .SPD load: its scratchpad bytes, or the error of R232. -/
def Mach.loadSpad (m : Mach) (slot g : Nat) (x : Group) (w : IW) (form : LsForm) (width : Nat) (ps : List Piece)
    (ls : List (Nat × W64)) : IssRes :=
  let (m, bad) := (ps.filter fun p => m.pieceAsks x 1 [] p).foldl (fun (acc : Mach × List Piece) p =>
    let (m, b) := acc.1.spadCheck slot (spadTouch (p.key * 128) (maskRange p.off p.n) false)
    (m, if b then acc.2 ++ [p] else acc.2)) (m, [])
  match pickFault x.pc (bad.map fun p => (p.lane, p.va, Cause.localArray, Status.errUncorrectable)) with
  | some f => .fault m f
  | none =>
    let lanes := ls.map fun l => (⟨l.1, l.2, ((ps.filter (·.lane == l.1)).flatMap fun p =>
      (List.range p.n).map fun k => .val (m.spadByte slot x (p.key * 128 + p.off + k)))⟩ : LaneLoad)
    let r : LoadRec := { vector := form != .s, dst := w.dn, width := width, pc := x.pc, lead := x.lead, lanes := lanes, rids := [] }
    .done ((m.setGroup slot g { x.advance with loads := x.loads ++ [r] }).commitLoads slot g 64)

/-- A load of the other spaces: parts not found in the store buffer or in L1 are asked for, one request a line. -/
def Mach.loadAsk (m : Mach) (slot g part : Nat) (x : Group) (w : IW) (form : LsForm) (func : Nat) (ps : List Piece)
    (ls : List (Nat × W64)) : IssRes :=
  let strm := func / 8 % 4 == 2
  let urg := func / 8 % 4 == 1
  let (m, hits) := m.l1Look slot g w.t strm ps []
  let asks := ps.filter fun p => m.pieceAsks x w.t hits p
  let (m, rids) := asks.foldl (fun (acc : Mach × Tab Nat) p => acc.1.askLine slot g part w.t urg strm acc.2 ps p) (m, [])
  let lanes := ls.map fun l => (⟨l.1, l.2, (ps.filter (·.lane == l.1)).flatMap (m.pieceBytes x w.t hits rids)⟩ : LaneLoad)
  let r : LoadRec := { vector := form != .s, dst := w.dn, width := func % 8, pc := x.pc, lead := x.lead, lanes := lanes, rids := rids.map (·.2) }
  let y := match m.group? slot g with
    | some y => y
    | none => x
  .done ((m.setGroup slot g { y.advance with loads := y.loads ++ [r] }).commitLoads slot g 64)

/-- A load instruction. -/
def Mach.loadInstr (m : Mach) (gr : GRef) (form : LsForm) (func : Nat) (w : IW) : Mach :=
  m.issue gr (lsCheck form false func w) fun m x =>
    let slot := gr.slot.val
    let g := gr.group.val
    let n := widthBytes (func % 8)
    let ls := x.lsLanes form w n
    let part := ((m.coreLaunch slot).map Launch.part).getD 0
    if ls.isEmpty then .done (m.setGroup slot g x.advance)
    else match m.resolve slot g part w.t 1 n ls with
      | (m, .wait) => .hold m
      | (m, .ok ps fs) => match pickFault x.pc fs with
        | some f => .fault m f
        | none => if w.t = 1 then m.loadSpad slot g x w form (func % 8) ps ls
                  else m.loadAsk slot g part x w form func ps ls

/-- LD.S. -/
def execLdS (g : GRef) (func : BitVec 6) (w : IW) : State → Host.Outcome State Fault Refusal :=
  asFetched g (.ldS g func w) fun m => m.loadInstr g .s func.toNat w
/-- LD.V. -/
def execLdV (g : GRef) (func : BitVec 6) (w : IW) : State → Host.Outcome State Fault Refusal :=
  asFetched g (.ldV g func w) fun m => m.loadInstr g .v func.toNat w
/-- LD.G. -/
def execLdG (g : GRef) (func : BitVec 6) (w : IW) : State → Host.Outcome State Fault Refusal :=
  asFetched g (.ldG g func w) fun m => m.loadInstr g .g func.toNat w

/-- The data of a lane of a store: the low bytes of its register, or of a pair for .B64 (R174). -/
def Group.storeData (x : Group) (form : LsForm) (w : IW) (width lane : Nat) : W64 :=
  match form with
  | .s => x.rs w.dn
  | _ =>
    let lo : W64 := (vget (x.rv w.dn) lane).setWidth 64
    if width = 5 then lo ||| ((vget (x.rv (w.dn + 1)) lane).setWidth 64 <<< 32) else lo

/-- The line requests of a store: mask and image a line, later lanes over earlier ones (R175, R177). -/
def mergeStore (data : Nat → W64) : List Piece → Tab (Piece × LineMask × LineImg) → Tab (Piece × LineMask × LineImg)
  | [], acc => acc
  | p :: t, acc =>
    let k := p.key * 64 + p.rank
    let cur := acc.get k (p, 0, 0)
    let x := (data p.lane).toNat / 2 ^ (8 * p.start)
    mergeStore data t (acc.put k (cur.1, cur.2.1 ||| maskRange p.off p.n, lput cur.2.2 p.off p.n x))

/-- A request put behind those that wait for store-buffer entries, which then enter while there is room (R177). -/
def Mach.bufferReq (m : Mach) (slot g rid : Nat) : Mach :=
  (m.updGroup slot g fun x => { x with full := x.full ++ [rid] }).enterFull slot g 64

/-- A store's requests: each invalidates its line in the core's L1 and enters the store buffer. `func` is 1 for those of a TST.S
(R530). -/
def Mach.bufferStores (m : Mach) (slot g part space : Nat) (strm : Bool) (ord : Nat)
    (ls : List (Piece × LineMask × LineImg)) (func : Nat := 0) : Mach :=
  ls.foldl (fun m s =>
    let p := s.1
    let m := if space = 0 ∧ p.tgt.cached then m.l1Inv slot p.key else m
    let (m, rid) := m.newReq { m.groupReq slot g part .store p with
                                 space := space, mask := s.2.1, img := s.2.2, strm := strm, ord := ord, func := func }
    m.bufferReq slot g rid) m

/-- A store instruction. -/
def Mach.storeInstr (m : Mach) (gr : GRef) (form : LsForm) (func : Nat) (w : IW) : Mach :=
  m.issue gr (lsCheck form true func w) fun m x =>
    let slot := gr.slot.val
    let g := gr.group.val
    let n := widthBytes (func % 8)
    let ls := x.lsLanes form w n
    let part := ((m.coreLaunch slot).map Launch.part).getD 0
    if ls.isEmpty then .done (m.setGroup slot g x.advance)
    else match m.resolve slot g part w.t 2 n ls with
      | (m, .wait) => .hold m
      | (m, .ok ps fs) => match pickFault x.pc fs with
        | some f => .fault m f
        | none =>
          let lines := (mergeStore (x.storeData form w (func % 8)) ps []).map (·.2)
          .done ((m.setGroup slot g x.advance).bufferStores slot g part w.t (func / 8 % 4 == 2) x.order lines)

/-- ST.S. -/
def execStS (g : GRef) (func : BitVec 6) (w : IW) : State → Host.Outcome State Fault Refusal :=
  asFetched g (.stS g func w) fun m => m.storeInstr g .s func.toNat w
/-- ST.V. -/
def execStV (g : GRef) (func : BitVec 6) (w : IW) : State → Host.Outcome State Fault Refusal :=
  asFetched g (.stV g func w) fun m => m.storeInstr g .v func.toNat w
/-- ST.G. -/
def execStG (g : GRef) (func : BitVec 6) (w : IW) : State → Host.Outcome State Fault Refusal :=
  asFetched g (.stG g func w) fun m => m.storeInstr g .g func.toNat w

/-! ### Prefetch (R179, R230, R231) -/

/-- A prefetch dropped: the die's counter advances (R179, R506). -/
def Mach.dropPrefetch (m : Mach) (slot : Nat) : Mach := m.count64 (at_ (dieOfSlot slot) Reg.DBG_PF_DROP_CNT) 1

/-- The line of a prefetch asked for. -/
def Mach.prefetchLine (m : Mach) (slot g part gpa : Nat) (t : Target) (l1 : Bool) : Mach :=
  let line := gpa / 128
  if l1 && ((m.core slot).units == 0 || ((m.core slot).l1.get? line).isSome) then m
  else
    let (m, rid) := m.newReq (m.groupReq slot g part (if l1 then .pfL1 else .pfSlice) ⟨0, 0, 0, 0, line, 0, 0, t⟩)
    match t with
    | .remote _ _ => m.remoteSend rid
    | _ => m

/-- A PF instruction. -/
def Mach.prefetch (m : Mach) (gr : GRef) (l1 : Bool) (w : IW) : Mach :=
  m.issue gr (checkI w (w.t == 0) .none .s true) fun m x =>
    let slot := gr.slot.val
    let g := gr.group.val
    let part := ((m.coreLaunch slot).map Launch.part).getD 0
    let cl := clusterOfSlot slot
    if x.rp w.pn = 0 then .done (m.setGroup slot g x.advance)
    else match m.translate cl (whoData slot g) part (x.rs w.an + w.lo.signExtend 64).toNat 1 with
      | (m, .wait) => .hold m
      | (m, .bad _ _) => .done (((m.endWalks cl (whoData slot g)).setGroup slot g x.advance).dropPrefetch slot)
      | (m, .ok gpa) =>
        let m := m.setGroup slot g x.advance
        match m.reach part gpa with
        | .inl t => if t.cached then .done (m.prefetchLine slot g part gpa t l1) else .done (m.dropPrefetch slot)
        | .inr _ => .done (m.dropPrefetch slot)

/-- PF.L1. -/
def execPfL1 (g : GRef) (w : IW) : State → Host.Outcome State Fault Refusal := asFetched g (.pfL1 g w) fun m => m.prefetch g true w
/-- PF.SLICE. -/
def execPfSlice (g : GRef) (w : IW) : State → Host.Outcome State Fault Refusal := asFetched g (.pfSlice g w) fun m => m.prefetch g false w

/-! ### Atomics, reduce-stores and the reserved pair (R180 to R189) -/

/-- The data types of Table 7.5. -/
def atomTypes (func t : Nat) : Bool :=
  match func with
  | 0 | 1 | 2 => tyU t || tyS t || t == 6
  | 3 | 4 | 5 | 6 | 7 => tyB t
  | 8 => t == 4
  | _ => false

/-- The word checks of ATOM and RED. -/
def atomCheck (red : Bool) (func : Nat) (w : IW) : Option Refuse :=
  let wide := tyWidth w.t == 64
  let fOk := if red then func < 6 || func == 8 else decide (func < 8)
  let cn := if func = 7 ∧ !red then (if wide then 4 else 2) else if wide then 2 else 1
  checkR w (fOk && atomTypes func w.t) (if red then .none else .v (if wide then 2 else 1)) .s .vs (.v cn)

/-- The addresses of the active lanes (R181). -/
def Group.atomLanes (x : Group) (w : IW) : List (Nat × W64) :=
  let p := x.rp w.pn
  ((List.range 32).filter fun l => p.getLsbD l).map fun l =>
    (l, x.rs w.an + (if w.bs then x.rs w.b else (vget (x.rv w.b) l).setWidth 64))

/-- A 64-bit or 32-bit operand of a lane from a register, or a pair. -/
def Group.operand (x : Group) (wide : Bool) (r l : Nat) : W64 :=
  let lo : W64 := (vget (x.rv r) l).setWidth 64
  if wide then lo ||| ((vget (x.rv (r + 1)) l).setWidth 64 <<< 32) else lo

/-- The checks of each lane in the order of R171. -/
def Mach.atomParts (m : Mach) (cl who part need n : Nat) (own : Bool) : List (Nat × W64) → Mach × Resolved
  | [] => (m, .ok [] [])
  | (lane, va) :: t =>
    let (m, r) :=
      if va.toNat % n ≠ 0 then (m, Resolved.ok [] [(lane, va, Cause.misalignedAtomic, Status.errDecode)])
      else match m.resolveGlb cl who part lane va need 0 n with
        | (m, .ok [p] []) =>
          let bad : Bool := match p.tgt with
            | .home _ => false
            | .remote _ l => own || decide (l ≥ allLines)
            | _ => true
          (m, if bad then Resolved.ok [] [(lane, va, Cause.accessError, Status.errDecode)] else .ok [p] [])
        | r => r
    let (m, r') := m.atomParts cl who part need n own t
    (m, r.and r')

/-- The parts of an ATOM, RED, LDR or STC, and the faults of its lanes (R171). -/
def Mach.atomResolve (m : Mach) (slot g part need n : Nat) (own : Bool) (ls : List (Nat × W64)) : Mach × Resolved :=
  let cl := clusterOfSlot slot
  Mach.settleWalks cl (whoData slot g) (m.atomParts cl (whoData slot g) part need n own ls)

/-- The line requests of an ATOM or RED: one a line, its elements in lane order (R184). -/
def atomLines (elt : Piece → Elt) : List Piece → Tab (Piece × List Elt) → Tab (Piece × List Elt)
  | [], acc => acc
  | p :: t, acc =>
    let cur := acc.get p.key (p, [])
    atomLines elt t (acc.put p.key (cur.1, cur.2 ++ [elt p]))

/-- RED's lanes that share one address combined in lane order (R186). -/
def coalesce (func ty : Nat) : List Elt → List Elt → List Elt
  | [], acc => acc
  | e :: t, acc =>
    if acc.any (·.off == e.off) then
      coalesce func ty t (acc.map fun a => if a.off = e.off then { a with op0 := atomCombine func ty a.op0 e.op0 } else a)
    else coalesce func ty t (acc ++ [e])

/-- A request made ready to be sent: at once, unless a release marker of its group stands before it (R215). -/
def Mach.sendable (m : Mach) (slot g : Nat) : Bool :=
  match m.group? slot g with
  | some x => (m.pruneRel [] x.outs).all fun o => match o with
    | .req _ => true
    | .rel _ => false
  | none => true

/-- Whether a request of a group is squashed when it would be sent (R225). -/
def Mach.squashed (m : Mach) (slot g ord : Nat) : Bool :=
  match m.group? slot g with
  | some x => x.held.isSome && decide (x.heldOrd < ord)
  | none => false

/-- The global physical line address of a request, for a log record (R227). -/
def Mach.lineAddr (m : Mach) (q : Req) : Nat :=
  match q.tgt with
  | .spad s off => if q.space = 0 then 128 * q.line else m.device * 2 ^ 46 + 0x200000000000 + s * 2 ^ 18 + off
  | _ => 128 * q.line

/-- A squashed store or RED completes with ABORT_SQUASHED and is logged; an ATOM or STC with the status held (R225). -/
def Mach.squashReq (m : Mach) (slot g rid : Nat) (q : Req) : Mach :=
  let held := ((m.group? slot g).bind (·.held)).getD .abortSquashed
  let m := m.giveAnswer rid { status := if q.kind = .store ∨ q.kind = .red then .abortSquashed else held, squash := true }
  if q.kind = .store ∨ q.kind = .red then
    m.logFault (dieOfSlot slot) 0x04 .abortSquashed 1 (m.sableCluster (clusterOfSlot slot)) slot (m.lineAddr q) g
  else m

/-- The writes by which masked bytes of a line reach the companion: one for each run of consecutive bytes. -/
def maskRuns (a : Nat) (mask : LineMask) (img : LineImg) : List OutMsg :=
  (List.range 128).filterMap fun k =>
    if mask.getLsbD k && (k == 0 || !mask.getLsbD (k - 1)) then
      some (.writeCmp (a + k) (((List.range (128 - k)).takeWhile fun j => mask.getLsbD (k + j)).map fun j => lbyte img (k + j)))
    else none

/-- A local array that an access of another die can reach now: its die's array runs, and the path to it is intact (R21, R41). -/
def Mach.arrayPath (m : Mach) (die slot : Nat) : Bool := !m.still (dieOfSlot slot) && m.intact die (dieOfSlot slot)

/-- A request of a group sent to its endpoint (R206, R211): a home takes it, a local array performs it, another
device or the companion receives it. -/
def Mach.sendReq (m : Mach) (slot g rid : Nat) : Mach :=
  match m.req? rid with
  | none => m
  | some q =>
    if m.squashed slot g q.ord then m.squashReq slot g rid q
    else
      let go (m : Mach) : Mach := m.updReq rid fun q => { q with sent := true }
      match q.tgt with
      | .home _ => go m
      | .spad s off =>
        if !m.arrayPath q.die s then m
        else
          let c := m.core s
          if c.launch.isNone ∨ off ≥ 32768 * c.share then (go m).giveAnswer rid { status := .errDecode }
          else ((go m).spadWrite s off q.mask q.img).giveAnswer rid { status := .ok }
      | .remote _ _ => (go m).remoteSend rid
      | .companion a => (maskRuns a q.mask q.img).foldl Mach.emit (go m)

/-- The requests of an ATOM or RED made and, where no marker holds them, sent. -/
def Mach.atomSend (m : Mach) (slot g part : Nat) (kind : RKind) (func ty ord : Nat) (go : Bool) :
    List (Piece × List Elt) → List Nat → Mach × List Nat
  | [], acc => (m, acc)
  | (p, es) :: t, acc =>
    let m := m.l1Inv slot p.key
    let (m, rid) := m.newReq { m.groupReq slot g part kind p with
                                 elts := es, func := func, ty := ty, ord := ord
                                 mask := es.foldl (fun (k : LineMask) e => k ||| maskRange e.off (atomBytes ty)) 0 }
    let m := m.updGroup slot g fun x => { x with outs := x.outs ++ [.req rid] }
    let m := if go then m.sendReq slot g rid else m
    m.atomSend slot g part kind func ty ord go t (acc ++ [rid])

/-- The lanes of an ATOM's results: result k of a request is its k-th element. -/
def atomLoads (lines : List (Piece × List Elt)) (rids : List Nat) (n : Nat) (ls : List (Nat × W64)) : List LaneLoad :=
  ls.map fun l =>
    let at_ := ((lines.zip rids).findSome? fun x => (x.1.2.findIdx? (·.lane == l.1)).map fun k => (x.2, k)).getD (0, 0)
    ⟨l.1, l.2, (List.range n).map fun j => .at at_.1 (8 * at_.2 + j)⟩

/-- An ATOM or RED instruction. -/
def Mach.atomInstr (m : Mach) (gr : GRef) (red : Bool) (func : Nat) (w : IW) : Mach :=
  m.issue gr (atomCheck red func w) fun m x =>
    let slot := gr.slot.val
    let g := gr.group.val
    let part := ((m.coreLaunch slot).map Launch.part).getD 0
    let n := atomBytes w.t
    let wide := n == 8
    let ls := x.atomLanes w
    if ls.isEmpty then .done (m.setGroup slot g x.advance)
    else match m.atomResolve slot g part (if red then 2 else 3) n false ls with
      | (m, .wait) => .hold m
      | (m, .ok ps fs) => match pickFault x.pc fs with
        | some f => .fault m f
        | none =>
          let elt (p : Piece) : Elt := ⟨p.lane, p.off, x.operand wide w.c p.lane,
            if func = 7 then x.operand wide (w.c + if wide then 2 else 1) p.lane else 0⟩
          let lines := (atomLines elt ps []).map (·.2)
          let lines := if red then lines.map fun l => (l.1, coalesce func w.t l.2 []) else lines
          let go := m.sendable slot g
          let (m, rids) := (m.setGroup slot g x.advance).atomSend slot g part (if red then .red else .atom) func w.t
            x.order go lines []
          if red then .done m
          else
            let r : LoadRec := { vector := true, dst := w.dn, width := if wide then 5 else 4, pc := x.pc, lead := x.lead,
                                 lanes := atomLoads lines rids n ls, rids := rids }
            .done (m.updGroup slot g fun y => { y with loads := y.loads ++ [r] })

/-- ATOM. -/
def execAtom (g : GRef) (func : BitVec 6) (w : IW) : State → Host.Outcome State Fault Refusal :=
  asFetched g (.atom g func w) fun m => m.atomInstr g false func.toNat w
/-- RED. -/
def execRed (g : GRef) (func : BitVec 6) (w : IW) : State → Host.Outcome State Fault Refusal :=
  asFetched g (.red g func w) fun m => m.atomInstr g true func.toNat w

/-- LDR: a load of stacked memory of this module that reserves its line (R187, R207). -/
def Mach.ldrInstr (m : Mach) (gr : GRef) (func : Nat) (w : IW) : Mach :=
  let tyOk := w.t < 6 && func == 0
  m.issue gr (checkI w tyOk .s .s true) fun m x =>
    let slot := gr.slot.val
    let g := gr.group.val
    let part := ((m.coreLaunch slot).map Launch.part).getD 0
    let n := tyWidth w.t / 8
    let va := x.rs w.an + w.lo.signExtend 64
    if x.rp w.pn = 0 then .done (m.setGroup slot g x.advance)
    else match m.atomResolve slot g part 1 n true [(0, va)] with
      | (m, .wait) => .hold m
      | (m, .ok ps fs) => match pickFault x.pc fs, ps with
        | some f, _ => .fault m f
        | none, p :: _ =>
          let m := ((m.setGroup slot g x.advance).loseResv slot g).l1Inv slot p.key
          let (m, rid) := m.newReq { m.groupReq slot g part .ldr p with mask := maskRange p.off n, sent := true }
          let r : LoadRec := { vector := false, dst := w.dn, width := if n = 8 then 5 else 4, pc := x.pc, lead := x.lead, rids := [rid],
                               lanes := [⟨0, va, (List.range n).map fun j => .at rid (p.off + j)⟩] }
          .done (m.updGroup slot g fun y => { y with loads := y.loads ++ [r], resv := some ⟨128 * p.key + p.off, n⟩ })
        | none, [] => .done m

/-- LDR. -/
def execLdr (g : GRef) (func : BitVec 6) (w : IW) : State → Host.Outcome State Fault Refusal :=
  asFetched g (.ldr g func w) fun m => m.ldrInstr g func.toNat w

/-- STC: a conditional store through the store buffer (R187); `func` 1 of its request marks that it must fail. -/
def Mach.stcInstr (m : Mach) (gr : GRef) (func : Nat) (w : IW) : Mach :=
  let tyOk := w.t < 6 && func == 0
  m.issue gr (checkR w tyOk .s .s .s .none) fun m x =>
    let slot := gr.slot.val
    let g := gr.group.val
    let part := ((m.coreLaunch slot).map Launch.part).getD 0
    let n := tyWidth w.t / 8
    let va := x.rs w.an
    if x.rp w.pn = 0 then .done (m.setGroup slot g x.advance)
    else match m.atomResolve slot g part 2 n true [(0, va)] with
      | (m, .wait) => .hold m
      | (m, .ok ps fs) => match pickFault x.pc fs, ps with
        | some f, _ => .fault m f
        | none, p :: _ =>
          let same := x.resv == some ⟨128 * p.key + p.off, n⟩
          let m := (m.setGroup slot g { x.advance with resv := none }).l1Inv slot p.key
          let (m, rid) := m.newReq { m.groupReq slot g part .stc p with
                                       mask := maskRange p.off n, img := lput 0 p.off n (x.rs w.b).toNat
                                       func := if same then 0 else 1, ord := x.order }
          let r : LoadRec := { vector := false, dst := w.dn, width := 5, pc := x.pc, lead := x.lead, rids := [rid],
                               lanes := [⟨0, va, (List.range 8).map fun j => .at rid j⟩] }
          .done ((m.updGroup slot g fun y => { y with loads := y.loads ++ [r] }).bufferReq slot g rid)
        | none, [] => .done m

/-- STC. -/
def execStc (g : GRef) (func : BitVec 6) (w : IW) : State → Host.Outcome State Fault Refusal :=
  asFetched g (.stc g func w) fun m => m.stcInstr g func.toNat w

/-! ### Fences (R190, R214 to R216, R228) -/

/-- The word checks of a fence. -/
def fenceCheck (w : IW) : Option Refuse := checkI w (w.t < 6) .none .none false

/-- A fence acts once for the group when any governing bit is set (R190). -/
def Mach.fenceInstr (m : Mach) (gr : GRef) (w : IW) (f : Mach → Group → Mach) : Mach :=
  m.issue gr (fenceCheck w) fun m x =>
    if x.rp w.pn = 0 then .done (m.setGroup gr.slot.val gr.group.val x.advance) else .done (f m x)

/-- FENCE. -/
def execFence (g : GRef) (w : IW) : State → Host.Outcome State Fault Refusal :=
  asFetched g (.fence g w) fun m => m.fenceInstr g w fun m x => m.setGroup g.slot.val g.group.val
    { x with stat := .waitFence false w.t (m.now (dieOfSlot g.slot.val)), order := x.order + 1 }
/-- FENCE.C: the group's reservation is lost (R188). -/
def execFenceC (g : GRef) (w : IW) : State → Host.Outcome State Fault Refusal :=
  asFetched g (.fenceC g w) fun m => m.fenceInstr g w fun m x => (m.setGroup g.slot.val g.group.val
    { x with stat := .waitFence true w.t (m.now (dieOfSlot g.slot.val)), order := x.order + 1 }).loseResv g.slot.val g.group.val
/-- ACQ. -/
def execAcq (g : GRef) (w : IW) : State → Host.Outcome State Fault Refusal :=
  asFetched g (.acq g w) fun m => m.fenceInstr g w fun m x => m.setGroup g.slot.val g.group.val { x with stat := .acquireWait w.t }
/-- REL: a marker enters the outgoing order and the group goes on (R215). -/
def execRel (g : GRef) (w : IW) : State → Host.Outcome State Fault Refusal :=
  asFetched g (.rel g w) fun m => m.fenceInstr g w fun m x =>
    let x := x.advance
    m.setGroup g.slot.val g.group.val { x with outs := m.pruneRel [] (x.outs ++ [.rel w.t]), order := x.order + 1 }

/-- The fault that a FENCE.C raises for a held status (R192). -/
def heldFault (pc : W64) (st : Status) : FaultInfo :=
  ⟨if st = .errPartnerDead then .partnerDead else .accessError, st, pc, 0, 0⟩

/-- The waits of an ACQ, FENCE or FENCE.C end: its L1 action is applied and the group may issue again; FENCE.C raises a
status held against the group (R192, R215, R216). -/
def Mach.fenceDone (m : Mach) (slot g : Nat) : Mach :=
  match m.group? slot g with
  | none => m
  | some x =>
    if !x.loads.isEmpty then m
    else match x.cur with
      | .acquireWait s => (m.l1Action slot s).updGroup slot g Group.finish
      | .waitFence false s _ =>
        if m.outPending x (·.inScope s) then m else (m.l1Action slot s).updGroup slot g Group.finish
      | .waitFence true s _ =>
        if m.outPending x fun _ => true then m
        else match x.held with
          | some st => (m.setGroup slot g { x with held := none, heldOrd := 0 }).raise slot g (heldFault x.pc st)
          | none => (m.l1Action slot s).updGroup slot g Group.finish
      | _ => m

/-- FENCE_COMPLETE. -/
def execFenceComplete (g : GRef) : State → Host.Outcome State Fault Refusal :=
  whenOn fun m => if m.still (dieOfSlot g.slot.val) then m else m.fenceDone g.slot.val g.group.val

/-! ### The store buffer and the answers that come back -/

/-- STORE_BUFFER_SEND: the oldest unsent entry that no release marker holds back is sent, or squashed (R206, R225). -/
def execStoreBufferSend (g : GRef) : State → Host.Outcome State Fault Refusal :=
  whenOn fun m =>
    let slot := g.slot.val
    match m.group? slot g.group.val with
    | none => m
    | some x =>
      if (m.dieSt (dieOfSlot slot)).halted then m
      else
        let outs := m.pruneRel [] x.outs
        let m := m.setGroup slot g.group.val { x with outs := outs }
        match m.firstUnsent outs with
        | some rid => m.sendReq slot g.group.val rid
        | none => m

/-- The answer of a load that has come back: of its home, of a local array now, or of the companion. -/
def Mach.loadAns (m : Mach) (q : Req) (ext : Option ExtAns) : Option (Mach × Answer) :=
  match q.ans with
  | some a => some (m, a)
  | none => match q.tgt with
    | .spad s off => if m.arrayPath q.die s then some (m.windowRead s off q.mask) else none
    | .companion _ => ext.map fun e => (m, extAnswer e)
    | _ => none

/-- What the L1 does with an answer of a line (R178, R209, R230): it drops its copy, marks the line's other fills, and takes
the line of a load or a prefetch that nothing has invalidated since. -/
def Mach.l1Answer (m : Mach) (slot : Nat) (q : Req) (a : Answer) : Mach :=
  if !q.tgt.cached then m
  else match q.kind with
    | .load | .pfL1 =>
      let m := m.l1Inv slot q.line
      if q.strm ∨ a.status.failed ∨ q.inv ∨ a.psn ≠ 0 then m else m.l1Fill slot q.line a.img
    | .ldr | .atom | .red | .store | .stc => m.l1Inv slot q.line
    | _ => m

/-- The companion's answer to a request of the queue engine. -/
def Mach.cmpToEngine (m : Mach) (rid : Nat) (q : Req) (e : ExtAns) : Mach :=
  match q.tgt with
  | .companion _ => m.giveAnswer rid (extAnswer e)
  | _ => m

/-- LOAD_ANSWER: the answer of a load, prefetch, ATOM or LDR reaches its core (R191, R209), and that of a walk read the walk that
made it (R395). -/
def Mach.loadAnswer (m : Mach) (rid : Nat) (ext : Option ExtAns) : Mach :=
  match m.req? rid with
  | none => m
  | some q => match q.src with
    | .group slot g =>
      if q.saved.isSome ∨ m.still q.die ∨ !(q.kind = .load ∨ q.kind = .pfL1 ∨ q.kind = .ldr ∨ q.kind = .atom) then m
      else match m.loadAns q ext with
        | none => m
        | some (m, a) =>
          let m := (m.freeEnt rid).dropReq rid
          let m := m.updGroup slot g fun x => { x with outs := x.outs.filter (· != .req rid) }
          (m.l1Answer slot q a).deliver slot g rid q.kind q.ord a
    | .walk w => match q.ans with
      | some a => if m.still q.die then m else (m.dropReq rid).walkAnswer rid q.die w a
      | none => m
    | .queue _ _ => match ext with
      | some e => m.cmpToEngine rid q e
      | none => m
    | _ => m

/-- LOAD_ANSWER. -/
def execLoadAnswer (rid : Nat) (ext : Option ExtAns) : State → Host.Outcome State Fault Refusal :=
  whenOn fun m => m.loadAnswer rid ext

/-- A request that stays within its core's cluster: to a local array through .SPD or .CSP; R224 does not time it. -/
def Req.near (q : Req) : Bool :=
  q.space != 0 && (match q.tgt with
    | .spad _ _ => true
    | _ => false)

/-- REQUEST_TIMEOUT (R224, R374): a request without an answer after 800,000 ticks completes with ERR_TIMEOUT, and leaves the
port where it may wait; one that writes is logged with outcome unknown. -/
def Mach.requestTimeout (m : Mach) (rid : Nat) : Mach :=
  match m.req? rid with
  | none => m
  | some q =>
    let full := q.kind = .store ∧ m.groups.any fun x => x.2.full.contains rid
    if q.ans.isSome ∨ full ∨ q.near ∨ !expired (m.now q.die) q.tick 800000 then m
    else
      let end_ (m : Mach) : Mach := ((m.freeEnt rid).unnote rid).giveAnswer rid { status := .errTimeout }
      let go (slot g : Nat) : Mach :=
        end_ (if q.kind.writes then
          m.logFault q.die 0x03 .errTimeout 1 (m.sableCluster (clusterOfSlot slot)) slot (m.lineAddr q) g else m)
      match q.src with
      | .group slot g => go slot g
      | .mover _ slot g _ => go slot g
      | .queue _ _ | .notice _ _ | .walk _ => end_ m
      | .fabric _ _ | .log _ => m

/-- REQUEST_TIMEOUT. -/
def execRequestTimeout (rid : Nat) : State → Host.Outcome State Fault Refusal := whenOn fun m => m.requestTimeout rid

end Sys2Proof.Machine
end

