-- ==== Sys2Proof/Machine/Mover.lean ====
section
/-! DEFINITION. The tensor mover (R194 to R201) and the acknowledgement of stores (R192), which may let a waiting
TM.SUBMIT go on. -/
namespace Sys2Proof.Machine

/-! ### The descriptor (Table 7.8) -/

/-- A field of a transfer's descriptor. -/
def descF (d : List Byte) (o n : Nat) : Nat := ofBytes ((d.drop o).take n)

/-- Extents of dimensions 1 to 3. -/
def descExt (d : List Byte) (k : Nat) : Nat := descF d (20 + 4 * k) 4
/-- A space code and the operation. -/
def descSrcSpace (d : List Byte) : Nat := descF d 80 1 % 4
def descDstSpace (d : List Byte) : Nat := descF d 80 1 / 4 % 4
def descOp (d : List Byte) : Nat := descF d 81 1 % 4
def descUrg (d : List Byte) : Bool := descF d 81 1 / 4 % 2 == 1
def descReduce (d : List Byte) : Bool := descOp d == 1 || descOp d == 2

/-- A descriptor that TM.SUBMIT accepts (R195). -/
def descOk (d : List Byte) : Bool :=
  let len := descF d 16 4
  let dst := descF d 8 8
  decide (0 < len) && decide (len ≤ 2 ^ 24) && (List.range 3).all (fun k => descExt d k != 0) &&
    descSrcSpace d != 3 && descDstSpace d != 3 && descF d 80 1 / 16 == 0 && descF d 81 1 / 8 == 0 &&
    (d.drop 82).all (· == 0) &&
    (!descReduce d || (descDstSpace d == 0 && len % 4 == 0 && dst % 4 == 0 &&
      (List.range 3).all fun k => descExt d k == 1 || descF d (56 + 8 * k) 8 % 4 == 0))

/-- The address of a row from a base and its strides (R196). -/
def rowAddr (d : List Byte) (base strides row : Nat) : W64 :=
  let i1 := row % descExt d 0
  let i2 := row / descExt d 0 % descExt d 1
  let i3 := row / descExt d 0 / descExt d 1
  BitVec.ofNat 64 (descF d base 8 + i1 * descF d strides 8 + i2 * descF d (strides + 8) 8 + i3 * descF d (strides + 16) 8)

/-- Rows of a transfer. -/
def descRows (d : List Byte) : Nat := descExt d 0 * descExt d 1 * descExt d 2

/-- Source and destination of the chunk under way, and its size (R196). -/
def Transfer.chunk (t : Transfer) : W64 × W64 × Nat :=
  let src := rowAddr t.desc 0 32 t.row + BitVec.ofNat 64 t.off
  let dst := rowAddr t.desc 8 56 t.row + BitVec.ofNat 64 t.off
  (src, dst, min (128 - dst.toNat % 128) (descF t.desc 16 4 - t.off))

/-- The status word of TM.WAIT and TM.TEST (R199). -/
def Transfer.word (t : Transfer) : W64 :=
  let code := match t.status with
    | some s => s.code.toNat
    | none => 0
  BitVec.ofNat 64 (code + (if t.status.isSome then 256 else 0) + 65536 * t.done)

/-! ### Transfers of a cluster -/

/-- A transfer of a cluster by its ticket. -/
def Mach.transfer? (m : Mach) (cl ticket : Nat) : Option Transfer := (m.cluster cl).mover.find? (·.ticket == ticket)
/-- A transfer changed. -/
def Mach.updTransfer (m : Mach) (cl ticket : Nat) (f : Transfer → Transfer) : Mach :=
  let c := m.cluster cl
  m.setCluster cl { c with mover := c.mover.map fun t => if t.ticket = ticket then f t else t }
/-- A transfer forgotten: its ticket has been waited on, or its block-cluster has ended. -/
def Mach.dropTransfer (m : Mach) (cl ticket : Nat) : Mach :=
  let c := m.cluster cl
  m.setCluster cl { c with mover := c.mover.filter fun t => t.ticket != ticket }

/-- Transfers that have not ended (R198). -/
def Mach.moverBusy (m : Mach) (cl : Nat) : Nat := ((m.cluster cl).mover.filter (·.status.isNone)).length

/-- A TM.SUBMIT carried out, its waits over: its descriptor, read when it issued (R195), enters the queue (R194). -/
def Mach.submit (m : Mach) (slot g dst : Nat) (desc : List Byte) (x : Group) : Mach :=
  let cl := clusterOfSlot slot
  let c := m.cluster cl
  let t : Transfer := { slot := slot, group := g, ticket := c.ticket, desc := desc, bc := (m.core slot).bc
                        part := ((m.coreLaunch slot).map Launch.part).getD 0 }
  let m := m.setCluster cl { c with mover := c.mover ++ [t], ticket := c.ticket + 1 }
  m.updGroup slot g fun _ =>
    { (x.ws dst (BitVec.ofNat 64 c.ticket)).finish with tickets := x.tickets ++ [c.ticket] }

/-- A group that waits in TM.SUBMIT goes on once its older stores are acknowledged and the queue has room (R197, R198). -/
def Mach.trySubmit (m : Mach) (slot g : Nat) : Mach :=
  match m.group? slot g with
  | none => m
  | some x => match x.cur with
    | .waitSubmit dst desc =>
      if m.outPending x (fun _ => true) ∨ m.moverBusy (clusterOfSlot slot) ≥ 64 then m else m.submit slot g dst desc x
    | _ => m

/-- Every group of a cluster that waits in TM.SUBMIT tried. -/
def Mach.trySubmits (m : Mach) (cl : Nat) : Mach :=
  (slotsOfCluster cl).foldl (fun m s => (groupsOf m s).foldl (fun m g => m.trySubmit s g) m) m

/-- A transfer that has ended: groups that wait for it go on, a group that has exited records its error (R200), and a
copy descriptor completes with its status (R377). One that no group waits for stays for its block-cluster (R199). -/
def Mach.endTransfer (m : Mach) (cl : Nat) (t : Transfer) (st : Status) : Mach :=
  let m := (m.endWalks cl (whoMover t.ticket)).updTransfer cl t.ticket fun t => { t with status := some st, pend := [], bytes := [], bad := [], wpend := none }
  let w := (((m.transfer? cl t.ticket).map Transfer.word).getD 0)
  match t.queue with
  | some (q, seq) => ((m.dropTransfer cl t.ticket).endJob q seq st).trySubmits cl
  | none =>
    let waits (p : Nat × Nat) : Bool := match m.group? p.1 p.2 with
      | some x => (match x.cur with
        | .waitTm _ k => k == t.ticket
        | _ => false)
      | none => false
    let ws := ((slotsOfCluster cl).flatMap fun s => (groupsOf m s).map fun g => (s, g)).filter waits
    let m :=
      if !ws.isEmpty then
        let m := (m.dropTransfer cl t.ticket).updGroup t.slot t.group fun x => { x with tickets := x.tickets.filter (· != t.ticket) }
        ws.foldl (fun m p => m.updGroup p.1 p.2 fun x => match x.cur with
          | .waitTm d _ => (x.ws d w).finish
          | _ => x) m
      else match m.group? t.slot t.group, (m.core t.slot).launch with
        | some x, some l => if x.cur = .exited ∧ st.failed then m.updLaunch l fun y => { y with faults := y.faults ++ [st] } else m
        | some _, none => m
        | none, _ => m.dropTransfer cl t.ticket
    m.trySubmits cl

/-- The word checks of TM (R194). -/
def tmCheck (w : IW) : Option Refuse := checkR w (w.t == 0) .s .s .none .none

/-- TM.SUBMIT (R194 to R198): the descriptor is read and checked now, with the group's own buffered bytes (log 92). -/
def execTmSubmit (g : GRef) (w : IW) : State → Host.Outcome State Fault Refusal :=
  asFetched g (.tmSubmit g w) fun m => m.issue g (tmCheck w) fun m x =>
    let slot := g.slot.val
    let off := (x.rs w.an).toNat
    if x.rp w.pn = 0 then .done (m.setGroup slot g.group.val x.advance)
    else if off % 128 ≠ 0 ∨ x.tickets.length ≥ 8 then .fault m (faultOf .illegalOperand x.pc)
    else if off + 128 > 32768 * (m.core slot).share then .fault m (faultOf .scratchpadRange x.pc (BitVec.ofNat 64 off))
    else
      let (m, bad) := m.spadCheck slot (spadTouch off (BitVec.allOnes 128) false)
      let desc := (List.range 128).map fun k => m.spadByte slot x (off + k)
      if bad then .fault m (faultOf .localArray x.pc (BitVec.ofNat 64 off))
      else if !descOk desc then .fault m (faultOf .illegalOperand x.pc)
      else .done ((m.setGroup slot g.group.val { x with stat := .waitSubmit w.dn desc }).trySubmit slot g.group.val)

/-- A ticket that a group may wait on: its block-cluster owns it, and it has not been waited on (R199). -/
def Mach.ownTicket (m : Mach) (slot k : Nat) : Option Transfer :=
  match m.transfer? (clusterOfSlot slot) k with
  | some t => if t.queue.isNone ∧ t.bc = (m.core slot).bc then some t else none
  | none => none

/-- The status word of a ticket that may not be waited on: done, with ERR_DECODE (R199). -/
def noTicket : W64 := BitVec.ofNat 64 (256 + Status.errDecode.code.toNat)

/-- TM.WAIT (R194, R197 to R199). -/
def Mach.tmWaitAt (m : Mach) (slot g : Nat) (x : Group) (w : IW) : Mach :=
  let cl := clusterOfSlot slot
  let k := (x.rs w.an).toNat
  if x.rp w.pn = 0 then m.setGroup slot g x.advance
  else match m.ownTicket slot k with
    | none => m.setGroup slot g (x.ws w.dn noTicket).advance
    | some t =>
      if t.status.isSome then
        let m := (m.dropTransfer cl k).setGroup slot g (x.ws w.dn t.word).advance
        m.updGroup t.slot t.group fun y => { y with tickets := y.tickets.filter (· != k) }
      else m.setGroup slot g { x with stat := .waitTm w.dn k }

/-- TM.WAIT. -/
def execTmWait (g : GRef) (w : IW) : State → Host.Outcome State Fault Refusal :=
  asFetched g (.tmWait g w) fun m => m.issue g (tmCheck w) fun m x => .done (m.tmWaitAt g.slot.val g.group.val x w)

/-- TM.TEST (R199). -/
def Mach.tmTestAt (m : Mach) (slot g : Nat) (x : Group) (w : IW) : Mach :=
  let k := (x.rs w.an).toNat
  if x.rp w.pn = 0 then m.setGroup slot g x.advance
  else match m.ownTicket slot k with
    | none => m.setGroup slot g (x.ws w.dn noTicket).advance
    | some t => m.setGroup slot g (x.ws w.dn t.word).advance

/-- TM.TEST. -/
def execTmTest (g : GRef) (w : IW) : State → Host.Outcome State Fault Refusal :=
  asFetched g (.tmTest g w) fun m => m.issue g (tmCheck w) fun m x => .done (m.tmTestAt g.slot.val g.group.val x w)

/-! ### One chunk (R196, R198, R200) -/

/-- The place of a transfer's group in the rotation; a copy of a queue is its own (R377). -/
def Transfer.turn (t : Transfer) : Nat :=
  match t.queue with
  | some _ => 2 ^ 20 + t.ticket
  | none => t.slot * 8 + t.group

/-- The transfer whose chunk is next: groups in rotating order, each group's transfers in submission order (R198). -/
def nextTransfer (c : ClusterSt) : Option Transfer :=
  let live := c.mover.filter (·.status.isNone)
  let key := Transfer.turn
  let best (ts : List Transfer) : Option Transfer := ts.foldl (fun (b : Option Transfer) t => match b with
    | none => some t
    | some y => if key t < key y then some t else b) none
  match best (live.filter fun t => key t ≥ c.turn) with
  | some t => some t
  | none => best live

/-- A request of the mover for one part. -/
def Mach.moverReq (m : Mach) (cl : Nat) (t : Transfer) (kind : RKind) (p : Piece) : Req :=
  { kind := kind, src := .mover cl t.slot t.group t.ticket, die := cl / 36, part := t.part, tgt := p.tgt, line := p.key
    tick := m.now (cl / 36), sent := kind != .load }

/-- The address of a chunk resolved as an access of the issuing group (R196). -/
def Mach.chunkPieces (m : Mach) (cl : Nat) (t : Transfer) (space need n : Nat) (va : W64) : Mach × Resolved :=
  if space = 0 then Mach.settleWalks cl (whoMover t.ticket) (m.resolveLanes cl (whoMover t.ticket) t.part need n [(0, va)])
  else (m, m.resolveSpad t.slot space n 0 va)

/-- Every local array that the parts of a chunk name can be reached now (R21, R41). -/
def Mach.piecesPath (m : Mach) (cl : Nat) (ps : List Piece) : Bool :=
  ps.all fun p => match p.tgt with
    | .spad s _ => m.arrayPath (cl / 36) s
    | _ => true

/-- The reads of a chunk begun: local arrays are read at once, other parts are asked for. Bytes of a local array's uncorrectable
words are noted as bad, and their status (R200). -/
def Mach.chunkRead (m : Mach) (cl : Nat) (t : Transfer) : List Piece → Mach × Transfer × Option Status
  | [] => (m, t, none)
  | p :: ps =>
    match p.tgt with
    | .spad s off =>
      let (m, a) := m.windowRead s off (maskRange p.off p.n)
      if a.status = .errUncorrectable then
        let n := t.bytes.length
        let bad := (List.range p.n).filter fun k => (m.core s).spadBad.contains ((off + p.off + k) / 8)
        let img := m.spadLine s off
        m.chunkRead cl { t with
          bytes := t.bytes ++ (List.range p.n).map fun k => .val (if bad.contains k then 0 else lbyte img (p.off + k))
          bad := t.bad ++ bad.map (n + ·)
          sticky := some (match t.sticky with
            | some x => x.first a.status
            | none => a.status) } ps
      else if a.status.failed then (m, t, some a.status)
      else m.chunkRead cl { t with bytes := t.bytes ++ (List.range p.n).map fun k => .val (lbyte a.img (p.off + k)) } ps
    | _ =>
      let (m, rid) := m.newReq { m.moverReq cl t .load p with
                                 mask := maskRange p.off p.n, urg := descUrg t.desc, critical := descUrg t.desc }
      let m := match p.tgt with
        | .remote _ _ => m.remoteSend rid
        | .companion a => m.emit (.readCmp a 128)
        | _ => m
      m.chunkRead cl { t with bytes := t.bytes ++ (List.range p.n).map fun k => .at rid (p.off + k), pend := t.pend ++ [rid] } ps

/-- The place after a chunk of n bytes; the transfer ends after its last row (R196). -/
def Mach.chunkDone (m : Mach) (cl : Nat) (t : Transfer) (n : Nat) : Mach :=
  let last := decide (t.off + n ≥ descF t.desc 16 4)
  let t' := { t with done := t.done + 1, row := if last then t.row + 1 else t.row, off := if last then 0 else t.off + n
                     pend := [], bytes := [], bad := [], wpend := none }
  let m := (m.updTransfer cl t.ticket fun _ => t').event t.slot 0x0B 1
  let c := m.cluster cl
  let m := m.setCluster cl { c with turn := t.turn + 1 }
  match t.stop with
  | some st => m.endTransfer cl t' st
  | none => if t'.row ≥ descRows t.desc then m.endTransfer cl t' (t'.sticky.getD .ok) else m

/-- The 8-byte words of the destination line that bad bytes reach. -/
def badWords (off : Nat) (bad : List Nat) : BitVec 16 :=
  bad.foldl (fun (w : BitVec 16) k => w ||| (1#16 <<< ((off + k) / 8))) 0

/-- The write of a chunk whose bytes are known (R196, R200). -/
def Mach.chunkWrite (m : Mach) (cl : Nat) (t : Transfer) (bytes : List Byte) (bad : List Nat) : Mach :=
  let (_, dst, n) := t.chunk
  let keep (m : Mach) : Mach := m.updTransfer cl t.ticket fun _ => { t with pend := [], bytes := bytes.map .val, bad := bad }
  match m.chunkPieces cl t (descDstSpace t.desc) 2 n dst with
  | (m, .wait) => keep m
  | (m, .ok _ ((_, _, _, st) :: _)) => m.endTransfer cl t st
  | (m, .ok (p :: _) []) =>
    if !m.piecesPath cl [p] then keep m
    else
    let img := lput 0 p.off n (ofBytes bytes)
    let mask := maskRange p.off n
    let stops : Bool := match p.tgt with
      | .home _ => false
      | _ => !bad.isEmpty
    let secret : Bool := match p.tgt with
      | .companion _ => t.queue.isSome && m.sable t.part
      | _ => false
    if secret then m.endTransfer cl t .errSecurity
    else if stops then m.endTransfer cl t (t.sticky.getD .errPoison)
    else
      let send (m : Mach) (q : Req) : Mach :=
        let (m, rid) := m.newReq q
        let m := m.updTransfer cl t.ticket fun _ => { t with pend := [], bytes := [], bad := bad, wpend := some rid }
        match p.tgt with
        | .remote _ _ => m.remoteSend rid
        | .companion a => m.emit (.writeCmp (a + p.off) bytes)
        | _ => m
      if descReduce t.desc then
        match p.tgt with
        | .home _ | .remote _ _ =>
          let es := ((List.range (n / 4)).filter fun k => !(bad.any fun b => b / 4 == k)).map fun k =>
            (⟨k, p.off + 4 * k, BitVec.ofNat 64 (lnum img (p.off + 4 * k) 4), 0⟩ : Elt)
          send m { m.moverReq cl t .red p with
                   elts := es, mask := mask, func := if descOp t.desc = 1 then 0 else 8
                   ty := if descOp t.desc = 1 then 6 else 4, psnW := badWords p.off bad }
        | _ => m.endTransfer cl t .errDecode
      else match p.tgt with
        | .spad s off =>
          let (m, st) := m.windowWrite s off mask img
          if st.failed then m.endTransfer cl t st else m.chunkDone cl t n
        | _ => send m { m.moverReq cl t .store p with mask := mask, img := img, psnW := badWords p.off bad }
  | (m, .ok [] []) => m

/-- One answered read taken into the chunk: its bytes, or its error. -/
def takeRead (rid : Nat) (a : Answer) (bs : List BSrc) (bad : List Nat) : List BSrc × List Nat :=
  let hurt (b : BSrc) : Bool := match b with
    | .at i o => i == rid && a.status.failed && (a.psn == 0 || a.psn.getLsbD (o / 8))
    | .val _ => false
  (bs.map fun b => match b with
    | .at i o => if i = rid then .val (a.byte o) else b
    | .val _ => b,
   bad ++ ((List.range bs.length).filter fun k => (bs[k]?.map hurt).getD false))

/-- The chunk's answered reads taken in; an error other than poison stops the transfer. -/
def Mach.takeReads (m : Mach) (cl : Nat) (t : Transfer) (ext : Option ExtAns) : List Nat → Mach × Transfer × Option Status
  | [] => (m, t, none)
  | rid :: rest =>
    match m.req? rid with
    | none => (m, t, none)
    | some q => match m.loadAns q ext with
      | none => let (m, t, e) := m.takeReads cl t ext rest; (m, { t with pend := rid :: t.pend }, e)
      | some (m, a) =>
        let m := (m.freeEnt rid).dropReq rid
        if a.status.failed ∧ a.status ≠ .errPoison ∧ a.status ≠ .errUncorrectable then (m, t, some a.status)
        else
          let (bs, bad) := takeRead rid a t.bytes t.bad
          let sticky := if a.status.failed then some (match t.sticky with
              | some s => s.first a.status
              | none => a.status) else t.sticky
          m.takeReads cl { t with bytes := bs, bad := bad, sticky := sticky } ext rest

/-- The bytes of a chunk whose reads have all been taken. -/
def knownBytes (bs : List BSrc) : List Byte := bs.map fun b => match b with
  | .val v => v
  | .at _ _ => 0

/-- The cores of a transfer's block-cluster, whose groups may wait for it (R197, R199). -/
def Mach.bcCores (m : Mach) (cl : Nat) (t : Transfer) : List Nat :=
  match m.residentOf t.slot with
  | some i => m.residentSlots cl i
  | none => [t.slot]

/-- One transfer carried on: its chunk is begun, its reads are taken, or its write is acknowledged. -/
def Mach.chunkStep (m : Mach) (cl : Nat) (t : Transfer) (ext : Option ExtAns) : Mach :=
  let (src, _, n) := t.chunk
  match t.wpend with
  | some rid =>
    match m.req? rid with
    | none => m
    | some q => match m.loadAns q ext with
      | none => m
      | some (m, a) =>
        let m := (m.freeEnt rid).dropReq rid
        let m := if q.tgt.cached then (m.bcCores cl t).foldl (fun m s => m.l1Inv s q.line) m else m
        if a.status.failed then m.endTransfer cl t a.status else m.chunkDone cl t n
  | none =>
    if !t.pend.isEmpty then
      let (m, t', e) := m.takeReads cl { t with pend := [] } ext t.pend
      match e with
      | some st => m.endTransfer cl t' st
      | none => if t'.pend.isEmpty then m.chunkWrite cl t' (knownBytes t'.bytes) t'.bad
                else m.updTransfer cl t.ticket fun _ => t'
    else if !t.bytes.isEmpty then m.chunkWrite cl t (knownBytes t.bytes) t.bad
    else if descOp t.desc = 3 then m.chunkWrite cl t (List.replicate n 0) []
    else match m.chunkPieces cl t (descSrcSpace t.desc) 1 n src with
      | (m, .wait) => m
      | (m, .ok _ ((_, _, _, st) :: _)) => m.endTransfer cl t st
      | (m, .ok ps []) =>
        if !m.piecesPath cl ps then m
        else
          let (m, t, e) := m.chunkRead cl t ps
          match e with
          | some st => m.endTransfer cl t st
          | none => if t.pend.isEmpty then m.chunkWrite cl t (knownBytes t.bytes) t.bad
                    else m.updTransfer cl t.ticket fun _ => t

/-- The transfers of a cluster that may go on: those of a launch that is being saved stop at a chunk boundary (Table 7.9). -/
def Mach.moving (m : Mach) (cl : Nat) : ClusterSt :=
  let c := m.cluster cl
  match c.launch.bind m.launch? with
  | some y => if y.stat = .saving then { c with mover := c.mover.filter fun t => t.queue.isSome || !t.between } else c
  | none => c

/-- TM_CHUNK: the cluster's mover carries on its next chunk. -/
def execTmChunk (cl : Cluster) (ext : Option ExtAns) : State → Host.Outcome State Fault Refusal :=
  whenOn fun m => match if m.still (cl.val / 36) then none else nextTransfer (m.moving cl.val) with
    | some t => m.chunkStep cl.val t ext
    | none => m

/-! ### Acknowledgements (R192) -/

/-- STORE_ACK: a store, RED or STC is acknowledged: its entry is freed, an error is held against its group, and the
requests that waited for an entry enter (R177, R192, R209). -/
def Mach.storeAck (m : Mach) (rid : Nat) (ext : Option ExtAns) : Mach :=
  match m.req? rid with
  | none => m
  | some q => match q.src with
    | .group slot g =>
      if q.saved.isSome ∨ m.still q.die ∨ !(q.kind = .store ∨ q.kind = .red ∨ q.kind = .stc) then m
      else
        let ans := match q.ans, q.tgt with
          | some a, _ => some a
          | none, .companion _ => if q.sent then ext.map extAnswer else none
          | none, _ => none
        match ans with
        | none => m
        | some a =>
          let m := (m.freeEnt rid).dropReq rid
          let m := m.updGroup slot g fun x =>
            { x with outs := x.outs.filter (· != .req rid), full := x.full.filter (· != rid) }
          let m := (m.l1Answer slot q a).enterFull slot g 64
          let m := match q.kind with
            | .stc => m.deliver slot g rid q.kind q.ord a
            | _ => if a.status.isError && a.status != Status.abortSquashed then m.holdStatus slot g q.ord a.status else m
          m.trySubmit slot g
    | .queue _ _ | .notice _ _ => match ext with
      | some e => m.cmpToEngine rid q e
      | none => m
    | _ => m

/-- STORE_ACK. -/
def execStoreAck (rid : Nat) (ext : Option ExtAns) : State → Host.Outcome State Fault Refusal :=
  whenOn fun m => m.storeAck rid ext

end Sys2Proof.Machine
end

