-- ==== Sys2Proof/Machine/Matrix.lean ====
section
/-! DEFINITION. Matrix multiply-accumulate and tile transfers (R122 to R126, R138 to R157, R530). A matrix result is
computed at issue and written to its tile by MATRIX_TILE_WRITE; until then the engine takes no other instruction (R152; log 93). -/
namespace Sys2Proof.Machine

/-- The tile of the core that a group's tile number names (Table 3.2, R89). -/
def tileOf (acc g n : Nat) : Nat := g * acc + n

/-- A tile of a core. -/
def Core.tile (c : Core) (n : Nat) : Tile := c.tiles.get n []

/-- The faults of a word that depend on the launch: a tile beyond the allocation (R89). -/
def tileAllocated (l : Option Launch) (n : Nat) : Bool := decide (n < (l.map Launch.acc).getD 0)

/-- One operand of a matrix instruction: bytes, or the fault that reading it raises (R143, R144, R154). Of several, alignment stands
before range, and range before an error of the array; `info` is the operand's offset, and no lane is named (log 94). A byte that
the group's own .SPD stores still hold is taken from them, and no store of another form is (log 95). -/
def Mach.operandImage (m : Mach) (slot : Nat) (x : Group) (spad : Bool) (r bytes : Nat) : Mach × ((Nat → Byte) ⊕ FaultInfo) :=
  if spad then
    let off := (x.rs r).toNat % 2 ^ 32
    if off % 128 ≠ 0 then (m, .inr (faultOf .illegalOperand x.pc))
    else if off + bytes > 32768 * (m.core slot).share then (m, .inr (faultOf .scratchpadRange x.pc (BitVec.ofNat 64 off)))
    else
      let (m, bad) := m.spadCheck slot fun w => off / 8 ≤ w && w < (off + bytes) / 8
      if bad then (m, .inr (faultOf .localArray x.pc (BitVec.ofNat 64 off)))
      else
        let img : List Byte := (List.range bytes).map fun k => m.spadByte slot x (off + k)
        (m, .inl fun k => img.getD k 0)
  else (m, .inl fun k => vecByte (x.rv (r + k / 128)) (k % 128))

/-- Image bytes of an operation's operand: 16 rows or columns of k elements of w bits (R142). -/
def imageBytes (k w : Nat) : Nat := 16 * k * w / 8

/-- The word checks of MMA and MMA.SP (R140, R141, R143, R89). -/
def mmaCheck (l : Option Launch) (func : Nat) (sparse : Bool) (w : IW) : Option Refuse :=
  match mmaShape func with
  | none => some .opcode
  | some (fa, fb, k, nblk) =>
    if sparse && decide (func > 5) then some .opcode
    else
      let sA := w.t % 2 == 1
      let sB := w.t / 2 % 2 == 1
      let ka := if sparse then k / 2 else k
      let a := if sA then Opd.s else .v (imageBytes ka fa.bits / 128)
      let b := if sB then Opd.s else .v (imageBytes k fb.bits / 128)
      match checkR w (w.t < 4) .t a b (if sparse || nblk != 0 then .v 1 else .none) with
      | some r => some r
      | none => if tileAllocated l w.dn then none else some .operand

/-- A product group has a zero side (R156): all eight elements of one side are zero or inactive, and no element on the
other side that forms a product is a NaN or an infinity. Of an MMA.SP, the elements of the B side are those that the stored A
elements select; an inactive cell has a zero side whatever its operands hold (log 96). -/
def zeroSide (act : Bool) (sideA : List FVal) (ps : List (FVal × FVal)) : Bool :=
  let zero (v : FVal) : Bool := match v with
    | .fin _ m _ => m == 0
    | _ => false
  let odd (v : FVal) : Bool := match v with
    | .fin _ _ _ => false
    | _ => true
  !act || (sideA.all zero && !ps.any (fun p => odd p.2)) || (ps.all (fun p => zero p.2) && !ps.any (fun p => odd p.1))

/-- Segments of an instruction that complete early (R155 to R157, event 0x05): each of its 256 product groups has a
zero side. -/
def earlySegments (segs : Nat) (p : W32) (sideA : Nat → Nat → List FVal)
    (pairs : Nat → Nat → Nat → List (FVal × FVal)) : Nat :=
  ((List.range segs).filter fun s => (List.range 16).all fun i => (List.range 16).all fun j =>
    zeroSide (tileActive p i j) (sideA s i) (pairs s i j)).length

/-- The busy count of a matrix operation (Table 6.11). -/
def mmaBusy (func : Nat) (sparse : Bool) : Nat := (if func = 4 ∨ func = 5 then 64 else 32) / (if sparse then 2 else 1)

/-- A matrix result put in flight: its value is known at issue, its tile written later (R152, R153). -/
def Mach.putFlight (m : Mach) (slot tile : Nat) (v : Tile) (busy : Nat := 0) : Mach :=
  let c := m.core slot
  m.setCore slot { c with flight := c.flight ++ [⟨tile, v, busy⟩] }

/-- One MMA or MMA.SP (R122, R141 to R149): operands captured, A before B (log 94), and the result put in flight. -/
def Mach.mma (m : Mach) (gr : GRef) (func : Nat) (sparse : Bool) (w : IW) : Mach :=
  let slot := gr.slot.val
  let g := gr.group.val
  m.issue gr (mmaCheck (m.coreLaunch slot) func sparse w) fun m x =>
    let p := x.rp w.pn
    let m := (m.event slot 0x03 1).event slot 0x04 (mmaBusy func sparse)
    match mmaShape func with
    | none => .done m
    | some (fa, fb, k, nblk) =>
      let ka := if sparse then k / 2 else k
      let tile := tileOf (((m.coreLaunch slot).map Launch.acc).getD 0) g w.dn
      let old := (m.core slot).tile tile
      if !tileAny p then
        let m := (m.event slot 0x05 (if sparse then k / 16 else k / 8)).putFlight slot tile old (mmaBusy func sparse)
        .done (m.setGroup slot g x.advance)
      else
        let (m, ra) := m.operandImage slot x (w.t % 2 == 1) w.an (imageBytes ka fa.bits)
        let (m, rb) := m.operandImage slot x (w.t / 2 % 2 == 1) w.b (imageBytes k fb.bits)
        match ra, rb with
        | .inr f, _ => .fault m f
        | _, .inr f => .fault m f
        | .inl a, .inl b =>
          let sc := x.rv w.c
          let elem (i j : Nat) : W32 :=
            if sparse then mmaSpElem fa fb k a b sc (tget old i j) i j else mmaElem fa fb k nblk a b sc (tget old i j) i j
          let v := tileMerge p old (tmake elem)
          let av (i q : Nat) : FVal := fa.decode (imageCode a ((i * ka + q) * fa.bits) fa.bits)
          let bv (j q : Nat) : FVal := fb.decode (imageCode b ((j * k + q) * fb.bits) fb.bits)
          let pairs (s i j : Nat) : List (FVal × FVal) :=
            if sparse then (List.range 4).flatMap fun q => (spPairs sc k i (4 * s + q)).map fun ps => (av i ps.2, bv j ps.1)
            else (List.range 8).map fun q => (av i (8 * s + q), bv j (8 * s + q))
          let m := m.event slot 0x05 (earlySegments (if sparse then k / 16 else k / 8) p (fun s i => (List.range 8).map fun q => av i (8 * s + q)) pairs)
          .done ((m.putFlight slot tile v (mmaBusy func sparse)).setGroup slot g x.advance)

/-- MMA. -/
def execMma (g : GRef) (func : BitVec 6) (w : IW) : State → Host.Outcome State Fault Refusal :=
  asFetched g (.mma g func w) fun m => m.mma g func.toNat false w
/-- MMA.SP. -/
def execMmaSp (g : GRef) (func : BitVec 6) (w : IW) : State → Host.Outcome State Fault Refusal :=
  asFetched g (.mmaSp g func w) fun m => m.mma g func.toNat true w

/-- The engine steps for which the limiter holds matrix instructions after one of a busy count (R425). -/
def limiterHold (busy k : Nat) : Nat := (busy * (64 - k) + k - 1) / k

/-- MATRIX_TILE_WRITE (R153): the oldest result in flight is written to its tile, and the limiter holds the next MMA (R425); an
MMA is taken to leave the engine as its tile is written (log 93). -/
def Mach.tileWrite (m : Mach) (slot : Nat) : Mach :=
  let c := m.core slot
  match c.flight with
  | [] => m
  | f :: rest =>
    m.setCore slot { c with
      flight := rest, tiles := c.tiles.put f.tile f.val
      hold := if f.busy = 0 then c.hold else limiterHold f.busy (max 1 (m.fld (at_ (dieOfSlot slot) Reg.PWR_LIMIT) 0 7)) }

/-- MATRIX_TILE_WRITE. -/
def execMatrixTileWrite (slot : Slot) : State → Host.Outcome State Fault Refusal :=
  whenOn fun m => if m.still (dieOfSlot slot.val) then m else m.tileWrite slot.val

/-! ### Tile transfers (R148, R150, Table 6.4) -/

/-- The word checks of a TILE function. -/
def tileCheck (l : Option Launch) (w : IW) (a : Opd) : Option Refuse :=
  match checkR w (w.t == 0) .t a .none .none with
  | some r => some r
  | none => if tileAllocated l w.dn then none else some .operand

/-- One TILE instruction: `f` is given the tile's number and value. -/
def Mach.tileInstr (m : Mach) (gr : GRef) (w : IW) (a : Opd) (busy : Nat) (f : Mach → Group → Nat → Tile → IssRes) : Mach :=
  let slot := gr.slot.val
  m.issue gr (tileCheck (m.coreLaunch slot) w a) fun m x =>
    let m := (m.event slot 0x03 1).event slot 0x04 busy
    let tile := tileOf (((m.coreLaunch slot).map Launch.acc).getD 0) gr.group.val w.dn
    f m x tile ((m.core slot).tile tile)

/-- A TILE function that only writes a tile: nothing when no element is active. -/
def Mach.tileSet (m : Mach) (gr : GRef) (w : IW) (x : Group) (tile : Nat) (old new : Tile) : IssRes :=
  let m := m.setGroup gr.slot.val gr.group.val x.advance
  if tileAny (x.rp w.pn) then .done (m.putFlight gr.slot.val tile (tileMerge (x.rp w.pn) old new)) else .done m

/-- TZERO. -/
def execTzero (g : GRef) (w : IW) : State → Host.Outcome State Fault Refusal :=
  asFetched g (.tzero g w) fun m => m.tileInstr g w .none 1 fun m x tile old => m.tileSet g w x tile old (tmake fun _ _ => 0)
/-- TLD.V: element (i, j) is in register i div 2, lane 16·(i mod 2) + j. -/
def execTldV (g : GRef) (w : IW) : State → Host.Outcome State Fault Refusal :=
  asFetched g (.tldV g w) fun m => m.tileInstr g w (.v 8) 4 fun m x tile old =>
    m.tileSet g w x tile old (tmake fun i j => vget (x.rv (w.an + i / 2)) (16 * (i % 2) + j))

/-- What TST.V writes: the image in eight registers, in active lanes (R100). -/
def Group.tstDo (x : Group) (w : IW) (t : Tile) : Group :=
  let p := x.rp w.pn
  (List.range 8).foldl (fun y r => y.wv p (w.an + r) (vmake fun l => tget t (2 * r + l / 16) (l % 16))) x

/-- TST.V. -/
def execTstV (g : GRef) (w : IW) : State → Host.Outcome State Fault Refusal :=
  asFetched g (.tstV g w) fun m => m.tileInstr g w (.v 8) 4 fun m x _ old =>
    .done (m.setGroup g.slot.val g.group.val (x.tstDo w old).advance)

/-- TLD.S. -/
def Mach.tldS (m : Mach) (gr : GRef) (w : IW) (x : Group) (tile : Nat) (old : Tile) : IssRes :=
  if !tileAny (x.rp w.pn) then .done (m.setGroup gr.slot.val gr.group.val x.advance)
  else match m.operandImage gr.slot.val x true w.an 1024 with
    | (m, .inr f) => .fault m f
    | (m, .inl a) => m.tileSet gr w x tile old (tmake fun i j => word4 fun k => a (4 * (16 * i + j) + k))

/-- TLD.S. -/
def execTldS (g : GRef) (w : IW) : State → Host.Outcome State Fault Refusal :=
  asFetched g (.tldS g w) fun m => m.tileInstr g w .s 4 fun m x tile old => m.tldS g w x tile old

/-- The store requests of a TST.S: one for each 128-byte line that its active elements touch (R530). -/
def tstLines (slot off : Nat) (p : W32) (t : Tile) : List (Piece × LineMask × LineImg) :=
  (List.range 8).filterMap fun r =>
    let cells := ((List.range 32).filter fun l => tileActive p (2 * r + l / 16) (l % 16))
    if cells.isEmpty then none
    else
      let o := off + 128 * r
      let mask := cells.foldl (fun (k : LineMask) l => k ||| maskRange (4 * l) 4) 0
      let img := cells.foldl (fun (i : LineImg) l => lput i (4 * l) 4 (tget t (2 * r + l / 16) (l % 16)).toNat) 0
      some (⟨0, BitVec.ofNat 64 o, 0, 128, o / 128, 0, 0, .spad slot (o / 128 * 128)⟩, mask, img)

/-- TST.S (R150, R530). -/
def Mach.tstS (m : Mach) (gr : GRef) (w : IW) (x : Group) (old : Tile) : IssRes :=
  let slot := gr.slot.val
  let g := gr.group.val
  let p := x.rp w.pn
  let off := (x.rs w.an).toNat % 2 ^ 32
  if !tileAny p then .done (m.setGroup slot g x.advance)
  else if off % 128 ≠ 0 then .fault m (faultOf .illegalOperand x.pc)
  else if off + 1024 > 32768 * (m.core slot).share then .fault m (faultOf .scratchpadRange x.pc (BitVec.ofNat 64 off))
  else
    let part := ((m.coreLaunch slot).map Launch.part).getD 0
    .done ((m.setGroup slot g x.advance).bufferStores slot g part 1 false x.order (tstLines slot off p old) 1)

/-- TST.S. -/
def execTstS (g : GRef) (w : IW) : State → Host.Outcome State Fault Refusal :=
  asFetched g (.tstS g w) fun m => m.tileInstr g w .s 4 fun m x _ old => m.tstS g w x old

end Sys2Proof.Machine
end

