-- ==== Sys2Proof/Machine/Regs.lean ====
section
/-! DEFINITION. Control-space accesses (R8 to R12, R31, R45, R451, R462): which requester may reach which register, and
what an ordinary write of a word does. The registers whose writes act have their effects with their families. -/
namespace Sys2Proof.Machine

/-- The `CLK_EN` bit of a rim block (Table 16.4); the other blocks have none. -/
def clkBit : Blk → Option Nat
  | .identity => some 0 | .mailbox => some 1 | .power => some 2 | .home => some 3 | .laneRole => some 4
  | .queues => some 5 | .partitions => some 6 | .security => some 7 | .debug => some 8
  | .clocks | .resets | .channel | .slice | .edgePort | .host | .clusterSup => none

/-- A channel whose clock is gated: OFF, FAILED or SHUT (R292, R451). -/
def Mach.chanGated (m : Mach) (die ch : Nat) : Bool :=
  m.chanState die ch == cOFF || m.chanState die ch == cFAILED || m.chanState die ch == cSHUT

/-- The block of a register is gated on a die (R31, R45, R451, R462). -/
def Mach.gated (m : Mach) (die : Nat) (h : RegHit) : Bool :=
  match h.row.blk with
  | .clocks | .resets => false
  | b =>
    !(m.dieSt die).joined ||
      (match clkBit b with
       | some i => !m.bit (at_ die Reg.CLK_EN) i
       | none => false) ||
      (b == .channel && decide (h.row.addr < Reg.MEM_CE_STATUS) && m.chanGated die (h.ix.headD 0))

/-- Commands of a partition and doorbells, which a warm reset turns away (R454). -/
def warmBusy (h : RegHit) : Bool := h.row.addr == Reg.PART_CMD || h.row.addr == Reg.Q_DOORBELL

/-- The register of a word of a die's control space (R8, R31). -/
def ctlFind (die off : Nat) : Option RegHit :=
  if off % 4 ≠ 0 ∨ off ≥ dieSpan then none else findReg die regTable off

/-- The status with which an access that decodes is turned away before it reaches its register (R31, R451, R454). -/
def Mach.ctlBar (m : Mach) (die : Nat) (h : RegHit) : Option Status :=
  if m.gated die h then some .errGated
  else if m.warming && warmBusy h then some .busyResetting else none

/-- A requester's access reaches a register, or the status it completes with instead (R8, R31, R451). -/
def Mach.ctlLook (m : Mach) (die off : Nat) : RegHit ⊕ Status :=
  match ctlFind die off with
  | none => .inr .errDecode
  | some h => match m.ctlBar die h with
    | some st => .inr st
    | none => .inl h

/-- The number of a requester, for its latches (R9). -/
def reqNo : Requester → Nat
  | .driver => 0
  | .steward => 1
  | .dieManager d => 2 + d.val

/-- The driver reaches the module only over a trained Vilpin link (R362); the steward and the die managers always do. -/
def Mach.canReach (m : Mach) (who : Requester) : Bool := who != .driver || m.vlUp

/-- The place of a latch of a requester for a 64-bit register (R9). -/
def latchKey (who : Requester) (die off : Nat) : Nat := reqNo who * 2 ^ 31 + at_ die off

/-- An access of a requester to a register ends its latch of that register (R9). -/
def Mach.endLatch (m : Mach) (who : Requester) (die off : Nat) (h : RegHit) : Mach :=
  if h.row.wide then { m with latches := m.latches.del (latchKey who die (if h.high then off - 4 else off)) } else m

/-- A plain write of the companion. -/
def HReq.isCmpWrite (r : HReq) : Bool :=
  match r with
  | .cmpWrite _ _ => true
  | _ => false

/-- The request that a transient line is being served. -/
def HomeLine.serving (h : HomeLine) : List HReq :=
  match h.pend with
  | some (.wM (.serve r)) | some (.wA _ _ (.serve r) _) | some (.wR r _) => [r]
  | some (.wA _ _ .grantE _) => [.cmpUpg]
  | some (.wA _ _ .dataE _) => [.cmpOwn]
  | _ => []

/-- Every request that a home has accepted and not completed, at its lines, in its notes and behind them. -/
def Mach.homeHolds (m : Mach) : List HReq :=
  (m.lines.flatMap fun x => x.2.waiting ++ x.2.serving) ++
    m.slices.flatMap fun x => x.2.notes.map (·.2.req) ++ x.2.behind.map (·.2)

/-- Some earlier plain write of the companion has not been performed at its home: the host unit then holds the driver's
control-space writes (R366). -/
def Mach.cmpWriteDue (m : Mach) : Bool := m.homeHolds.any HReq.isCmpWrite

/-- A control-space write of one register by a requester: the checks of R8 and R31, then the register's own effect, and
the status it completes with. One that is turned away completes with the code that stands first, of its own checks too (R16). -/
def Mach.regWrite (m : Mach) (who : Requester) (die off : Nat) (f : Mach → Mach × Status) : Mach :=
  if !m.canReach who ∨ (who = .driver ∧ m.cmpWriteDue = true) then m
  else match ctlFind die off with
    | none => m.answer .errDecode
    | some h => match m.ctlBar die h with
      | some st => m.answer (st.first (f m).2)
      | none =>
        let (m, st) := f (m.endLatch who die off h)
        m.answer st

/-- The type masks of a word of a register: its RW, W1C and RW-L bits. -/
def RegHit.mask (h : RegHit) (x : Nat) : W32 := BitVec.ofNat 32 (if h.high then x / 2 ^ 32 else x)

/-- An ordinary write of a word: RW bits take the value, W1C bits clear where a 1 is written, all others stay (R10). -/
def Mach.plainWrite (m : Mach) (die off : Nat) (h : RegHit) (v : W32) : Mach :=
  let a := at_ die off
  let rw := h.mask h.row.rw
  let w1 := h.mask h.row.w1c
  m.wr a (((m.rd a &&& ~~~rw) ||| (v &&& rw)) &&& ~~~(v &&& w1))

/-- The two halves of a write of a 64-bit register, low half first. -/
def WideAcc_words (x : WideAcc) : List (Nat × W32) :=
  match x with
  | .full v => [(0, v.setWidth 32), (4, (v >>> 32).setWidth 32)]
  | .low v => [(0, v)]
  | .high v => [(4, v)]

/-- The value that a 64-bit register would hold after a write of it or of one half (R9). -/
def wideValue (old : W64) (x : WideAcc) : W64 :=
  match x with
  | .full v => v
  | .low v => (old &&& 0xFFFFFFFF00000000) ||| v.setWidth 64
  | .high v => (old &&& 0xFFFFFFFF) ||| (v.setWidth 64 <<< 32)

/-- Words of a register with the field of a command's last status replaced. -/
def Mach.putStatus (m : Mach) (a lo : Nat) (st : Status) : Mach := m.setFld a lo 8 st.code.toNat

/-- A command register that holds the status of its latest command: the write completes with it too. -/
def Mach.finishCmd (m : Mach) (a lo : Nat) (st : Status) : Mach × Status := (m.putStatus a lo st, st)

end Sys2Proof.Machine
end

