-- ==== Sys2Proof/Machine/Engine.lean ====
section
/-! DEFINITION. The reads and writes of the queue engine (R368, R374, R389): through the partition's page tables, to a
home of this module, a local-array window, the companion window or another device. -/
namespace Sys2Proof.Machine

/-- How an access of the queue engine stands: it waits, or it is done with a status and, for a read, its bytes. -/
inductive EngRes where
  | wait
  | done (st : Status) (bytes : List Byte)
deriving DecidableEq, Repr

/-- The accesses of a queue that may await an answer at once: the read of its next descriptor, the write of a record, the check
of an address in that descriptor, and the report or the fence write of a job by its count. -/
def engDesc : Nat := 0
def engRecord : Nat := 1
def engCheck : Nat := 2
def engReport : Nat := 2 ^ 33
def engFence : Nat := 2 ^ 34

/-- `n` bytes of a line image from an offset. -/
def lineBytes (img : LineImg) (o n : Nat) : List Byte := bytesOf (lnum img o n) n

/-- Where an access of a queue stands, kept until its answer comes (R374). -/
def Mach.engKeep (m : Mach) (q key : Nat) (a : EngAcc) : Mach :=
  let x := m.queue q
  m.setQueue q { x with eng := x.eng.put key a }
/-- An access of a queue that is over. -/
def Mach.engDrop (m : Mach) (q key : Nat) : Mach :=
  let x := m.queue q
  m.setQueue q { x with eng := x.eng.del key }

/-- The answer of an engine request that has come, taken in. -/
def Mach.engTake (m : Mach) (q key rid o n : Nat) : Mach × EngRes :=
  match m.req? rid with
  | none => (m.engDrop q key, .wait)
  | some r => match r.ans with
    | none => (m, .wait)
    | some a => (((m.freeEnt rid).dropReq rid).engDrop q key, .done a.status (lineBytes a.img o n))

/-- A request of the engine to a home of this module, to another device or to the companion window (R206, R345, R367). -/
def Mach.engAsk (m : Mach) (q key part : Nat) (t : Target) (va : Nat) (wr : Option (List Byte)) (n : Nat) : Mach :=
  let o := va % 128
  let line := match t with
    | .home l => m.device * 2 ^ 39 + l
    | .remote d l => d * 2 ^ 39 + l
    | _ => 0
  let (m, rid) := m.newReq { kind := if wr.isSome then .store else .load, src := .queue q key, die := 0, part := part, tgt := t
                             line := line, mask := maskRange o n, sent := true, tick := m.now 0
                             img := BitVec.ofNat 1024 (ofBytes (wr.getD []) * 2 ^ (8 * o)) }
  let m := m.engKeep q key (.ask rid)
  match t, wr with
  | .remote _ _, _ => m.remoteSend rid
  | .companion a, some bs => m.emit (.writeCmp (a / 128 * 128 + o) bs)
  | .companion a, none => m.emit (.readCmp (a / 128 * 128 + o) n)
  | _, _ => m

/-- An access of the engine whose walk has found its page: a local array answers it at once, and any other target is asked. -/
def Mach.engReach (m : Mach) (q key part va n gpa perm : Nat) (wr : Option (List Byte)) : Mach × EngRes :=
  let ended (m : Mach) (st : Status) (bs : List Byte) : Mach × EngRes := (m.engDrop q key, .done st bs)
  let o := va % 128
  if perm / (if wr.isSome then 2 else 1) % 2 = 0 then ended m .errSecurity []
  else match m.reach part gpa with
    | .inr (_, st) => ended m st []
    | .inl (.spad s off) =>
      if !m.arrayPath 0 s then (m, .wait)
      else
        (match wr with
         | some bs =>
           let r := m.windowWrite s (off / 128 * 128) (maskRange o n) (BitVec.ofNat 1024 (ofBytes bs * 2 ^ (8 * o)))
           ended r.1 r.2 []
         | none =>
           let (m, a) := m.windowRead s (off / 128 * 128) (maskRange o n)
           ended m a.status (lineBytes a.img o n))
    | .inl t => (m.engAsk q key part t va wr n, .wait)

/-- One access of the engine at a virtual address of a partition, within one line: translation first (R374, R395), then the
target and what it answers. `wr` holds the bytes of a write. -/
def Mach.engAccess (m : Mach) (q key part va n : Nat) (wr : Option (List Byte)) : Mach × EngRes :=
  match (m.queue q).eng.get? key with
  | some (.ask rid) => m.engTake q key rid (va % 128) n
  | some (.tr (.more _)) => (m, .wait)
  | some (.tr (.bad st)) => (m.engDrop q key, .done (st.getD .errDecode) [])
  | some (.tr (.leaf frame bytes perm)) => m.engReach q key part va n (frame + va % bytes) perm wr
  | none =>
    if va / 2 ^ 57 ≠ 0 then (m, .done .errDecode [])
    else let r := m.walkStart (.queue q key) 0 part va; (r.1.engKeep q key (.tr r.2), .wait)

/-- A walk of the engine alone, for an address that is only checked; none while it goes on. -/
def Mach.engWalk (m : Mach) (q key part va : Nat) : Mach × Option WalkRes :=
  match (m.queue q).eng.get? key with
  | some (.tr (.more _)) => (m, none)
  | some (.tr r) => (m.engDrop q key, some r)
  | some (.ask _) => (m, none)
  | none => let r := m.walkStart (.queue q key) 0 part va; (r.1.engKeep q key (.tr r.2), none)

/-- Bytes read by the engine. -/
def Mach.engReadAt (m : Mach) (q key part va n : Nat) : Mach × EngRes := m.engAccess q key part va n none
/-- Bytes written by the engine. -/
def Mach.engWriteAt (m : Mach) (q key part va : Nat) (bs : List Byte) : Mach × EngRes :=
  m.engAccess q key part va bs.length (some bs)

end Sys2Proof.Machine
end

