-- ==== Sys2Proof/Machine/Cache.lean ====
section
/-! DEFINITION. The slices' own commands: tint changes (R245), pin quotas (R260, R263), range operations (R255 to R259),
and the writes of the home block's registers (R28, R282, R287, R288). -/
namespace Sys2Proof.Machine

/-! ### Slice control -/

/-- Some set of a slice holds more than `n` pins. -/
def Mach.pinsOver (m : Mach) (die ch n : Nat) : Bool :=
  let ls := m.sliceLines die ch
  ls.any fun x => decide (pinsIn (ls.filter fun y => m.lineSet y.1 == m.lineSet x.1) > n)

/-- A write of `SLICE_CTRL` (R245, R263). -/
def Mach.sliceCtrl (m : Mach) (die ch : Nat) (v : W32) : Mach × Status :=
  let a := aSlice die ch Reg.SLICE_CTRL
  let st := aSlice die ch Reg.SLICE_STATUS
  let t := bitsOf v.toNat 0 3
  if t > 4 then (m, .errDecode)
  else if m.bit st 3 ∨ m.pinsOver die ch (10 - t) then (m, .busyOwned)
  else
    let m := (m.setFld a 0 3 t).setFld a 4 1 (bitsOf v.toNat 4 1)
    let s := m.slice die ch
    if t = m.tintWays die ch then (m, .ok)
    else ((m.setBit st 3 true).setSlice die ch { s with tintNew := some t }, .ok)

/-- SLICE_CTRL_WRITE. -/
def execSliceCtrlWrite (who : Requester) (die : Die) (ch : Chan) (v : W32) : State → Host.Outcome State Fault Refusal :=
  whenOn fun m => m.regWrite who die.val (aSlice 0 ch.val Reg.SLICE_CTRL) fun m => m.sliceCtrl die.val ch.val v

/-- A pinned line in a way that leaves the home role moved, in one action, into a way of its set that stays a home way; while
none is free, a line of the set is evicted to make room (R245). -/
def Mach.movePinned (m : Mach) (die ch line ways : Nat) (h : HomeLine) : Mach :=
  let ls := m.setLines die ch (m.lineSet line)
  match freeWay ls ways with
  | some w => m.setHline line { h with way := some w }
  | none => match pickVictim ls ways with
    | some v => m.evict v
    | none => m

/-- A home line in one of the ways that leave the home role: evicted, or moved when it is pinned (R245). -/
def Mach.leaveWay (m : Mach) (die ch line ways : Nat) : Mach :=
  match m.hline? line with
  | some h => if h.pin.isSome then m.movePinned die ch line ways h else m.evict line
  | none => m

/-- The home lines of a slice in ways from `ways` up. -/
def Mach.homeAbove (m : Mach) (die ch ways : Nat) : List Nat :=
  ((m.sliceLines die ch).filter fun x => match x.2.way with
    | some w => decide (w ≥ ways)
    | none => false).map (·.1)

/-- The replicas of a slice in ways below `ways`. -/
def Mach.tintsBelow (m : Mach) (die ch ways : Nat) : List Nat :=
  (m.tints.filter fun x =>
    x.1 / 2 ^ 40 == die && m.hc (x.1 % 2 ^ 40) == ch && decide (x.2.way < ways)).map fun x => x.1 % 2 ^ 40

/-- A change of `tint_ways` carried on set by set: lines and replicas in ways that change role leave or move, and when none
stands in such a way the change is done, `tint_busy` clears, and requests that wait for a way are tried (R245). -/
def Mach.tintChange (m : Mach) (die ch : Nat) : Mach :=
  match (m.slice die ch).tintNew with
  | none => m
  | some t =>
    let home := m.homeAbove die ch (14 - t)
    let tint := m.tintsBelow die ch (14 - t)
    if home.isEmpty && tint.isEmpty then
      let st := aSlice die ch Reg.SLICE_STATUS
      let s := m.slice die ch
      (((m.setFld st 0 3 t).setBit st 3 false).setSlice die ch { s with tintNew := none }).reseat die ch
    else tint.foldl (fun m l => m.dropTint die l) (home.foldl (fun m l => m.leaveWay die ch l (14 - t)) m)

/-- TINT_CHANGE_DONE. -/
def execTintChangeDone (die : Die) (ch : Chan) : State → Host.Outcome State Fault Refusal :=
  whenOn fun m => m.tintChange die.val ch.val

/-- A write of a pin quota (R263). -/
def Mach.pinQuota (m : Mach) (die ch p : Nat) (v : W32) : Mach × Status :=
  if bitsOf v.toNat 0 4 > 10 then (m, .errDecode)
  else (m.wr (aSlice die ch Reg.SLICE_PIN_QUOTA + 8 * p) (v &&& 0xFFFF000F), .ok)

/-- SLICE_PIN_QUOTA_WRITE. -/
def execSlicePinQuotaWrite (who : Requester) (die : Die) (ch : Chan) (p : Part) (v : W32) :
    State → Host.Outcome State Fault Refusal :=
  whenOn fun m => m.regWrite who die.val (aSlice 0 ch.val Reg.SLICE_PIN_QUOTA + 8 * p.val) fun m =>
    m.pinQuota die.val ch.val p.val v

/-- A write of `SLICE_CNT_CLEAR` (R262): the eleven counters of the slice. -/
def Mach.sliceClear (m : Mach) (die ch : Nat) (v : W32) : Mach × Status :=
  (if v.getLsbD 0 then m.clearWords (aSlice die ch Reg.SLICE_HIT_CNT) 22 else m, .ok)

/-- SLICE_CNT_CLEAR. -/
def execSliceCntClear (who : Requester) (die : Die) (ch : Chan) (v : W32) : State → Host.Outcome State Fault Refusal :=
  whenOn fun m => m.regWrite who die.val (aSlice 0 ch.val Reg.SLICE_CNT_CLEAR) fun m => m.sliceClear die.val ch.val v

/-! ### Range operations (R255 to R260) -/

/-- The replica of a line that a PREFETCH asks for on a die (Table 9.6): a tint way is filled as by a read of that die. -/
def Mach.rangeTint (m : Mach) (q e line : Nat) : Mach :=
  let mark (m : Mach) : Mach := m.updRange q fun o => { o with tints := o.tints.map fun x => if x.1 = e ∧ x.2.1 = line then (e, line, true) else x }
  if m.still e then m
  else if (m.tint? e line).isSome ∨ m.tintOpen e (m.hc line) = 0 then mark m
  else match m.askReplica e line [] false with
    | some m => mark m
    | none => match pickTint (m.tintSet e line) with
      | some v => m.dropTint e v
      | none => m

/-- A replica that a PREFETCH asked for has arrived, or will not. -/
def Mach.tintDone (m : Mach) (e line : Nat) : Bool :=
  match m.tint? e line with
  | some t => t.st != .isD && t.st != .isDI && t.st != .isR
  | none => true

/-- A line action of a range operation is refused for now: it waits at its slice for a Credit (R279, R281). -/
def Mach.rangeNoted (m : Mach) (die ch q seq : Nat) : Option (Nat × Nat) :=
  (m.slice die ch).notes.findSome? fun x => match x.2.req with
    | .range q' s va => if q' = q ∧ s = seq then some (x.1, va) else none
    | _ => none

/-- A line action of a range operation that its slice has not performed. -/
def Mach.rangeHere (m : Mach) (die ch q seq : Nat) : Bool :=
  let mine (r : HReq) : Bool := match r with
    | .range q' s _ => q' == q && s == seq
    | _ => false
  ((m.sliceLines die ch).any fun x => (x.2.waiting ++ x.2.serving).any mine) ||
    (m.slice die ch).behind.any fun x => mine x.2

/-- The place of a range operation moved to another page or another line. -/
def RangeOp.goOn (o : RangeOp) (next size : Nat) : RangeOp :=
  { o with cur := next, page := if next / size = o.cur / size then o.page else none }

/-- The next line of a range operation sent to its home slice, once the slice has performed those that it received before (R257). -/
def Mach.rangeSend (m : Mach) (die ch : Nat) (o : RangeOp) (line size : Nat) : Mach × Bool :=
  if m.rangeHere die ch o.q o.seq then (m, false)
  else
    let m' := m.updRange o.q fun x => { x.goOn (o.cur + 128) size with sent := x.sent + 1 }
    match m'.arrive line (.range o.q o.seq o.cur) with
    | .held => (m, false)
    | .noted n => (n, true)
    | .taken n => (n, true)

/-- The next step of a queue's range operation that a slice of a die can take: a replica asked for, a line sent again after its
Credit, the walk of a page begun, a page skipped (R257), one that the partition may not reach (R389), or a line sent. -/
def Mach.rangeStep (m : Mach) (die ch q : Nat) : Mach × Bool :=
  match m.rangeOf? q with
  | none => (m, false)
  | some o =>
    match o.tints.find? fun x => x.1 == die && m.hc x.2.1 == ch && !x.2.2 with
    | some (e, line, _) => (m.rangeTint q e line, true)
    | none => match m.rangeNoted die ch q o.seq with
      | some (line, va) => (match m.arrive line (.range q o.seq va) with
        | .taken n => (n, true)
        | _ => (m, false))
      | none =>
        if o.cur ≥ o.stop then (m, false)
        else
          let skip (m : Mach) (size : Nat) : Mach × Bool :=
            (m.updRange q fun x => { x.goOn ((x.cur / size + 1) * size) size with skipped := x.skipped + 1, page := none }, true)
          if o.cur / 2 ^ 57 ≠ 0 then skip m 65536
          else match o.page with
          | none => let r := m.walkStart (.range q) 0 o.part o.cur; (r.1.updRange q fun x => { x with page := some r.2 }, true)
          | some (.more _) => (m, false)
          | some (.bad _) => skip m 65536
          | some (.leaf frame size perm) =>
            let gpa := frame + o.cur % size
            if perm % 2 = 0 ∨ gpa / 2 ^ 46 ≠ m.device ∨ gpa % 2 ^ 46 ≥ 128 * allLines then skip m size
            else match m.reach o.part gpa with
              | .inl (.home line) => if m.hd line = die ∧ m.hc line = ch then m.rangeSend die ch o line size else (m, false)
              | _ => (m.updRange q fun x => { x with cur := x.stop, err := some .errSecurity }, true)

/-- The slice's next line action, over the range operations under way in queue order. -/
def Mach.rangeAction (m : Mach) (die ch : Nat) : List Nat → Mach
  | [] => m
  | q :: t =>
    match m.rangeStep die ch q with
    | (m, true) => m
    | (m, false) => m.rangeAction die ch t

/-- RANGE_LINE_ACTION. -/
def execRangeLineAction (die : Die) (ch : Chan) : State → Host.Outcome State Fault Refusal :=
  whenOn fun m => m.rangeAction die.val ch.val (m.ranges.map (·.q))

/-- Every line action of a range operation is performed, its replicas have come, and every write it caused is acknowledged (R258). -/
def Mach.rangeDone (m : Mach) (o : RangeOp) : Bool :=
  decide (o.cur ≥ o.stop) && o.sent == 0 && (o.tints.all fun x => x.2.2 && m.tintDone x.1 x.2.1) &&
    o.wrote.all fun l => !((m.chan (m.hd l) (m.hc l)).sent.any fun c => match c with
      | .write k _ _ => k == l
      | _ => false)

/-- The report of Table 9.7. -/
def reportBytes (o : RangeOp) : List Byte :=
  bytesOf o.done 8 ++ bytesOf o.refQuota 4 ++ bytesOf o.refSet 4 ++ bytesOf o.skipped 4 ++ bytesOf 0 4 ++ bytesOf o.first 8

/-- The report written and the packet completed (R258); one that met what its partition may not reach completes with ERR_SECURITY
(R389), and one with a line that its channel refused with that status (log 98). -/
def Mach.rangeReport (m : Mach) (q : Nat) : Mach :=
  match m.rangeOf? q with
  | none => m
  | some o =>
    if !m.rangeDone o then m
    else match m.engWriteAt q (engReport + o.seq) o.part o.report (reportBytes o) with
      | (m, .wait) => m
      | (m, .done st _) =>
        let m := { m with ranges := m.ranges.filter (·.q != q) }
        let own := if o.refQuota + o.refSet ≠ 0 then Status.refusedPinQuota else .ok
        m.endJob q o.seq (if st.failed then st else (o.err.getD .ok).first own)

/-- RANGE_REPORT. -/
def execRangeReport (q : Queue) : State → Host.Outcome State Fault Refusal := whenOn fun m => m.rangeReport q.val

/-! ### The home block's registers -/

/-- A write of the interleave share (R28, R288, Table 10.8). -/
def Mach.interleaveWrite (m : Mach) (die : Nat) (v : W32) : Mach × Status :=
  if die ≠ 0 then (m, .errSecurity)
  else if bitsOf v.toNat 0 8 > 192 then (m, .errDecode)
  else if m.anyPart then (m, .busyOwned)
  else ((List.range 16).foldl (fun m d => m.setFld (at_ d Reg.HOME_INTERLEAVE) 0 8 (bitsOf v.toNat 0 8)) m, .ok)

/-- HOME_INTERLEAVE_WRITE. -/
def execHomeInterleaveWrite (who : Requester) (die : Die) (v : W32) : State → Host.Outcome State Fault Refusal :=
  whenOn fun m => m.regWrite who die.val Reg.HOME_INTERLEAVE fun m => m.interleaveWrite die.val v

/-- A write of a 64-bit register that stores what it carries. -/
def Mach.wideWrite (m : Mach) (a : Nat) (x : WideAcc) : Mach := m.wr64 a (wideValue (m.rd64 a) x)

/-- A write of a 64-bit register or of one half by a requester (R9). -/
def Mach.wideReg (m : Mach) (who : Requester) (die off : Nat) (x : WideAcc) (f : Mach → Mach × Status) : Mach :=
  m.regWrite who die (match x with
    | .high _ => off + 4
    | _ => off) f

/-- A write of `HOME_AMBER_REQ` (R282): conflicting arrivals are refused, or queued again, from now on. While a slice test or
the exclusion sweep holds bits set, the value waits for its end (R283, R286; log 99). -/
def Mach.amberWrite (m : Mach) (die : Nat) (x : WideAcc) : Mach :=
  let a := at_ die Reg.HOME_AMBER_REQ
  let d := m.dieSt die
  let v := wideValue (m.amberBase die) x
  if d.sweep.isNone && d.sliceTest.isNone then m.wr64 a v
  else
    let held := match d.sweep with
      | some _ => m.rd64 a &&& ~~~(m.rd64 (at_ die Reg.HOME_AMBER_ACTIVE))
      | none => 0
    let m := m.wr64 a (v ||| held ||| m.amberTest die)
    m.setDie die { d with
      sweep := if d.sweep.isSome && held &&& ~~~v != 0 then some v else none
      sliceTest := d.sliceTest.map fun x => (x.1, v.getLsbD x.1) }

/-- HOME_AMBER_REQ_WRITE. -/
def execHomeAmberReqWrite (who : Requester) (die : Die) (x : WideAcc) : State → Host.Outcome State Fault Refusal :=
  whenOn fun m => m.wideReg who die.val Reg.HOME_AMBER_REQ x fun m => (m.amberWrite die.val x, .ok)

/-- A write of `HOME_CNT_CLEAR` (R287): the counters of the home and tint block. -/
def Mach.homeClear (m : Mach) (die : Nat) (v : W32) : Mach × Status :=
  (if v.getLsbD 0 then (m.clearWords (at_ die Reg.HOME_FWD_CNT) 14).clearWords (at_ die Reg.TINT_FWD_SERVED_CNT) 10 else m, .ok)

/-- HOME_CNT_CLEAR. -/
def execHomeCntClear (who : Requester) (die : Die) (v : W32) : State → Host.Outcome State Fault Refusal :=
  whenOn fun m => m.regWrite who die.val Reg.HOME_CNT_CLEAR fun m => m.homeClear die.val v

/-- A write of `HOME_LOG_STATUS`: `clear` empties the probe log. -/
def Mach.probeClear (m : Mach) (die : Nat) (v : W32) : Mach × Status :=
  let a := at_ die Reg.HOME_LOG_STATUS
  let m := if v.getLsbD 4 then m.setBit a 4 false else m
  (if v.getLsbD 5 then (m.setFld a 0 4 0).clearWords (at_ die Reg.HOME_PROBE_LOG) 64 else m, .ok)

/-- PROBE_LOG_CLEAR. -/
def execProbeLogClear (who : Requester) (die : Die) (v : W32) : State → Host.Outcome State Fault Refusal :=
  whenOn fun m => m.regWrite who die.val Reg.HOME_LOG_STATUS fun m => m.probeClear die.val v

end Sys2Proof.Machine
end

