-- ==== Sys2Proof/Machine/Channel.lean ====
section
/-! DEFINITION. The memory channels: the service of their queues (R240, R247, R292, R293, R307, R403), raw operations
(R312, R313), training (R294 to R297), recalibration (R298 to R300), refresh (R302), maintenance requests (R314, R317 to R319),
scrubbing (R315, R316), and the clearing of counters and tables (R309, R320). -/
namespace Sys2Proof.Machine

/-! ### Raw operations (R312, R313) -/

/-- A line lies in a granule of a Sable-mode partition. -/
def Mach.sableLine (m : Mach) (line : Nat) : Bool :=
  match m.granuleOwner (line / 2 ^ 23) with
  | some p => m.sable p
  | none => false
/-- A line is pinned at its home. -/
def Mach.pinnedLine (m : Mach) (line : Nat) : Bool :=
  match m.hline? line with
  | some h => h.pin.isSome
  | none => false

/-- Channel-line indices of a channel (Table 11.1). -/
def chanLines : Nat := 3 * 2 ^ 23

/-- The line and word that the raw registers of a channel name (R312). -/
def Mach.rawLine (m : Mach) (die ch : Nat) : Nat × Nat :=
  let a := aSlice die ch Reg.MC_RAW_IDX
  (lineAt m.interleave die ch (m.fld a 0 25), m.fld a 25 4)

/-- The status of R313 for the word that the raw registers name, but for an operation in progress; an index beyond the channel is
ERR_DECODE (log 45). -/
def Mach.rawCheck (m : Mach) (die ch : Nat) : Status :=
  let i := m.fld (aSlice die ch Reg.MC_RAW_IDX) 0 25
  let line := lineAt m.interleave die ch i
  if m.sableLine line then .errSecurity
  else if i ≥ chanLines then .errDecode
  else match chanRefuses (m.chanState die ch) with
    | some s => s
    | none => if m.pinnedLine line then .busyOwned else .ok

/-- The status of R313 for a write of `MC_RAW_CMD`. -/
def Mach.rawStatus (m : Mach) (die ch : Nat) : Status :=
  (m.rawCheck die ch).first (if m.bit (aSlice die ch Reg.MC_RAW_CMD) 2 then .busyOwned else .ok)

/-- A raw operation ends with a status (R312, R313). -/
def Mach.rawEnd (m : Mach) (die ch : Nat) (st : Status) : Mach :=
  let c := m.chan die ch
  let cmd := aSlice die ch Reg.MC_RAW_CMD
  ((m.setChan die ch { c with rawWait := none }).setBit cmd 2 false).setFld cmd 8 8 st.code.toNat

/-- A raw read or write of one stored word, and the end of its command (R312, R313). -/
def Mach.rawDo (m : Mach) (die ch line w : Nat) (write : Bool) : Mach :=
  let data := aSlice die ch Reg.MC_RAW_DATA
  let check := aSlice die ch Reg.MC_RAW_CHECK
  let m := m.rawEnd die ch .ok
  if write then
    let d := m.rd64 data
    m.putWord line w d (BitVec.ofNat 16 (m.fld check 0 16) ^^^ eccEncode d)
  else
    let d := m.memWord line w
    let s := m.memSyn line w
    let verdict := match classify s with
      | .clean => 1
      | .corrected _ => 2
      | .uncorrectable => 3
      | .poisoned => 4
    (((m.wr64 data d).setFld check 0 16 (s ^^^ eccEncode d).toNat).setFld check 16 16 s.toNat).setFld
      (aSlice die ch Reg.MC_RAW_CMD) 16 3 verdict

/-- A raw operation that waits for its line to leave the home way takes its place in the queue once it has (R312); one that may no
longer be performed ends with its status (R313). -/
def Mach.rawProgress (m : Mach) (die ch : Nat) : Mach :=
  match (m.chan die ch).rawWait with
  | none => m
  | some write =>
    let st := m.rawCheck die ch
    if st.failed then m.rawEnd die ch st
    else
      let (line, w) := m.rawLine die ch
      let m := m.evict line
      if (m.hline? line).isSome then m
      else
        let c := m.chan die ch
        (m.setChan die ch { c with rawWait := none }).chanPush die ch (.raw line w write)

/-- A write of `MC_RAW_CMD`: the operation waits for its line to be invalidated and is performed in the line's order. -/
def Mach.rawCmd (m : Mach) (die ch : Nat) (v : W32) : Mach × Status :=
  let a := aSlice die ch Reg.MC_RAW_CMD
  let op := bitsOf v.toNat 0 2
  if op = 0 ∨ op = 3 then (m, .ok)
  else
    let st := m.rawStatus die ch
    if st.failed then (m.putStatus a 8 st, st)
    else
      let c := m.chan die ch
      let m := (m.setChan die ch { c with rawWait := some (op == 2) }).setBit a 2 true
      (m.rawProgress die ch, .ok)

/-- RAW_READ. -/
def execRawRead (who : Requester) (die : Die) (ch : Chan) (v : W32) : State → Host.Outcome State Fault Refusal :=
  whenOn fun m =>
    if bitsOf v.toNat 0 2 = 1 then m.regWrite who die.val (aSlice 0 ch.val Reg.MC_RAW_CMD) fun m => m.rawCmd die.val ch.val v else m
/-- RAW_WRITE. -/
def execRawWrite (who : Requester) (die : Die) (ch : Chan) (v : W32) : State → Host.Outcome State Fault Refusal :=
  whenOn fun m =>
    if bitsOf v.toNat 0 2 = 2 then m.regWrite who die.val (aSlice 0 ch.val Reg.MC_RAW_CMD) fun m => m.rawCmd die.val ch.val v else m

/-! ### The service of a queue (R240, R247, R292, R293, R307, R403) -/

/-- The line of a request. -/
def ChReq.line : ChReq → Nat
  | .read l _ _ => l
  | .write l _ _ => l
  | .raw l _ _ => l
/-- A latency-critical read. -/
def ChReq.crit : ChReq → Bool
  | .read _ c _ => c
  | _ => false
/-- The partition that a request is made for; writes and raw operations are made for none (R403). -/
def ChReq.part : ChReq → Nat
  | .read _ _ p => p
  | _ => 32
/-- A read, whose data goes back over the crossing. -/
def ChReq.isRead : ChReq → Bool
  | .read _ _ _ => true
  | _ => false

/-- The requests of a queue that may be granted, each with its place: those with no earlier request to their line (R240), and a
read only while the crossing back has room (R44). -/
def chReady (room : Bool) : List Nat → Nat → List ChReq → List (Nat × ChReq)
  | _, _, [] => []
  | seen, i, r :: t =>
    let rest := chReady room (r.line :: seen) (i + 1) t
    if seen.contains r.line || (r.isRead && !room) then rest else (i, r) :: rest

/-- The request that a channel grants next, and the channel after the choice (R247, R403): a latency-critical read, but after
eight in a row while an ordinary request waits an ordinary one; in each class the partitions have their turns. -/
def Mach.chPick (m : Mach) (c : ChanSt) (urgentOff : Bool) : Option (Nat × ChReq × ChanSt) :=
  let ready := chReady (decide (c.out.length < 32)) [] 0 c.q
  let crit := if urgentOff then [] else ready.filter fun x => x.2.crit
  let ord := if urgentOff then ready else ready.filter fun x => !x.2.crit
  let first (xs : List (Nat × ChReq)) (d : Drr) : Option ((Nat × ChReq) × Drr) :=
    (m.drrPick d (xs.map (·.2.part))).bind fun k => (xs.find? fun x => x.2.part == k.1).map fun x => (x, k.2)
  if !crit.isEmpty && (ord.isEmpty || decide (c.critRun < 8)) then
    (first crit c.drrC).map fun x =>
      (x.1.1, x.1.2, { c with q := c.q.eraseIdx x.1.1, critRun := if ord.isEmpty then 0 else c.critRun + 1, drrC := x.2 })
  else
    (first ord c.drrO).map fun x => (x.1.1, x.1.2, { c with q := c.q.eraseIdx x.1.1, critRun := 0, drrO := x.2 })

/-- One request of an ONLINE channel performed (R307). -/
def Mach.chPerform (m : Mach) (die ch : Nat) (r : ChReq) : Mach :=
  match r with
  | .write line img psn => m.memWrite line img psn
  | .raw line w write => m.rawDo die ch line w write
  | .read line _ _ =>
    let (m, img, psn, unc) := m.readLine die ch line
    let c := m.chan die ch
    m.setChan die ch { c with out := c.out ++ [(line, img, psn, unc)] }

/-- The oldest request of a channel that is not ONLINE completes with its status (Table 11.2); a range operation whose write was
refused reports it (log 98). -/
def Mach.chanFail (m : Mach) (die ch : Nat) (st : Status) : Mach :=
  let c := m.chan die ch
  match c.sent with
  | [] => m
  | r :: t =>
    let m := m.setChan die ch (ChanSt.flow { c with q := [], fifo := [], held := t } false)
    match r with
    | .read line _ _ => m.readRefused line st
    | .write line _ _ =>
      { m with ranges := m.ranges.map fun o => if o.wrote.contains line then { o with err := some (o.err.getD st) } else o }
    | .raw _ _ _ => m.rawEnd die ch st

/-- A channel that drains goes OFFLINE once its requests are served and its recalibration round has ended (R319). -/
def Mach.offlineGo (m : Mach) (die ch : Nat) : Mach :=
  let c := m.chan die ch
  if c.toOff && c.sent.isEmpty && c.recalWire.isNone then
    ((m.setChan die ch { c with toOff := false }).setChanState die ch cOFFLINE).rawProgress die ch
  else m

/-- The next request of a channel's queue served. -/
def Mach.chanServe (m : Mach) (die ch : Nat) : Mach :=
  let m := m.rawProgress die ch
  match chanRefuses (m.chanState die ch) with
  | some st => m.chanFail die ch st
  | none =>
    let c := ChanSt.flow (m.chan die ch) true
    let off := m.bit (aSlice die ch Reg.SLICE_CTRL) 4
    match m.chPick c off with
    | none => m.setChan die ch c
    | some (i, r, c') =>
      let ahead := r.crit && !off && (c.q.take i).any fun x => !x.crit
      let m := if ahead then m.count64 (aSlice die ch Reg.SLICE_URG_CNT) 1 else m
      ((m.setChan die ch (ChanSt.flow c' true)).chPerform die ch r).offlineGo die ch

/-- CHANNEL_REQUEST. -/
def execChannelRequest (die : Die) (ch : Chan) : State → Host.Outcome State Fault Refusal :=
  whenOn fun m => if m.memRuns die.val then m.chanServe die.val ch.val else m

/-- MEMORY_DATA. -/
def execMemoryData (die : Die) (ch : Chan) : State → Host.Outcome State Fault Refusal :=
  whenOn fun m => if m.still die.val then m else m.memoryData die.val ch.val

/-! ### Spare wires -/

/-- The register and bit of spare 320 + k's entry in `MC_SPARE_MAP`. -/
def spareAt (die ch k : Nat) : Nat × Nat := (aSlice die ch Reg.MC_SPARE_MAP + 4 * (k / 2), 16 * (k % 2))
/-- The wire that a spare carries permanently. -/
def Mach.spareWire (m : Mach) (die ch k : Nat) : Option Nat :=
  let (a, b) := spareAt die ch k
  if m.bit a (b + 9) then some (m.fld a b 9) else none
/-- A spare given a wire for good, or freed. -/
def Mach.setSpare (m : Mach) (die ch k : Nat) (w : Option Nat) : Mach :=
  let (a, b) := spareAt die ch k
  m.setFld a b 11 (match w with
    | some w => w + 512
    | none => 0)
/-- A spare lent to a round with the bits of a wire (R298). -/
def Mach.lendSpare (m : Mach) (die ch k w : Nat) : Mach :=
  let (a, b) := spareAt die ch k
  m.setFld a b 11 (w + 1024)
/-- The lowest-numbered free spare that has not failed itself (R296). -/
def Mach.freeSpare (m : Mach) (die ch : Nat) : Option Nat :=
  (List.range 8).find? fun k => (m.spareWire die ch k).isNone && !(m.chan die ch).failedWires.contains (320 + k)
/-- Spares assigned permanently, and `no_recal` when none is free (R296). -/
def Mach.noteSpares (m : Mach) (die ch : Nat) : Mach :=
  let a := aSlice die ch Reg.MC_STATE
  let m := m.setFld a 3 4 ((List.range 8).filter fun k => (m.spareWire die ch k).isSome).length
  if (m.freeSpare die ch).isNone then m.setBit a 8 true else m

/-! ### Scrub passes (R314 to R317) -/

/-- A scrub pass ends with a status (R316). -/
def Mach.scrubEnd (m : Mach) (die ch : Nat) (st : Status) : Mach :=
  let c := m.chan die ch
  if c.scrub.isNone then m
  else
    let a := aSlice die ch Reg.MC_SCRUB_STATUS
    ((m.setChan die ch { c with scrub := none }).setFld a 0 2 2).setFld a 8 8 st.code.toNat

/-- A round is over: the spare that it borrowed is free (R298). -/
def Mach.roundOver (m : Mach) (die ch : Nat) : Mach :=
  let c := m.chan die ch
  let m := match c.lent with
    | some k => m.setSpare die ch k none
    | none => m
  (m.setBit (aSlice die ch Reg.MC_STATE) 7 false).setChan die ch { c with recalWire := none, lent := none, recalStop := false }

/-- The channel enters a state in which it no longer works: SHUT or FAILED (R303, R317). -/
def Mach.chanDown (m : Mach) (die ch st : Nat) : Mach :=
  let m := ((m.scrubEnd die ch .errGated).roundOver die ch).setChanState die ch st
  let c := m.chan die ch
  (m.setChan die ch { c with testing := false, measured := false, toOff := false }).rawProgress die ch

/-! ### Training (R294 to R297) -/

/-- CRC-32 of IEEE 802.3 over bytes, reflected, from all ones (PRESUMED, log 44). -/
def crcStep (c : W32) : Nat → W32
  | 0 => c
  | n + 1 => crcStep (if c.getLsbD 0 then (c >>> 1) ^^^ 0xEDB88320 else c >>> 1) n
def crc32 (bs : List Byte) : W32 :=
  ~~~(bs.foldl (fun (c : W32) b => crcStep (c ^^^ b.setWidth 32) 8) 0xFFFFFFFF)

/-- Bytes of a capability descriptor. -/
def descByte (d : BitVec 512) (k : Nat) : Nat := (d >>> (8 * k)).toNat % 256
/-- A capability descriptor that R295 accepts. -/
def capOk (d : BitVec 512) : Bool :=
  let bs := (List.range 60).map fun k => BitVec.ofNat 8 (descByte d k)
  (crc32 bs).toNat == (d >>> 480).toNat && (descByte d 1 == 1 || descByte d 1 == 2) && descByte d 2 == 12 &&
    descByte d 3 == 32 && descByte d 4 == 16

/-- The result of an interconnect test placed in `MC_ICT_RESULT` (R318). -/
def Mach.putIct (m : Mach) (die ch : Nat) (failed : List Nat) : Mach :=
  (List.range 11).foldl (fun m k =>
    m.wr (aSlice die ch Reg.MC_ICT_RESULT + 4 * k)
      ((List.range 32).foldl (fun (w : W32) j => if failed.contains (32 * k + j) then w ||| (1#32 <<< j) else w) 0)) m

/-- A channel begins to train: a scrub pass and a recalibration round end, and so does a raw operation (R313, R317). -/
def Mach.chanTrain (m : Mach) (die ch : Nat) : Mach :=
  let m := ((m.scrubEnd die ch .abortSquashed).roundOver die ch).setFld (aSlice die ch Reg.MC_STATE) 0 10 cTRAINING
  let c := m.chan die ch
  (m.setChan die ch { c with testing := false, measured := false, toOff := false, degraded := [] }).rawProgress die ch

/-- Steps 1 to 3 of training: the descriptor copied and checked, the wires tested, and spares assigned. -/
def Mach.training (m : Mach) (die ch : Nat) (desc : BitVec 512) (failed : List Nat) : Mach :=
  let st := m.chanState die ch
  if !(m.dieSt die).joined || !m.memRuns die || !((st == cOFF && m.stage == 5) || (st == cTRAINING && !(m.chan die ch).measured)) then m
  else
    let m := m.chanTrain die ch
    let m := (List.range 16).foldl (fun m k =>
      m.wr (aSlice die ch Reg.MC_CAP_DESC + 4 * k) ((desc >>> (32 * k)).setWidth 32)) m
    let m := m.setFld (aSlice die ch Reg.MC_ID) 10 2 (descByte desc 1)
    let bad := (List.range 328).filter fun w => failed.contains w
    let m := m.putIct die ch bad
    let c := m.chan die ch
    let m := m.setChan die ch { c with failedWires := bad, descBad := !capOk desc, measured := true, ictSince := false }
    let m := (List.range 8).foldl (fun m k => m.setSpare die ch k none) m
    let m := (bad.filter (· < 320)).foldl (fun m w => match m.freeSpare die ch with
      | some k => m.setSpare die ch k (some w)
      | none => m) m
    m.noteSpares die ch

/-- TRAINING. -/
def execTraining (die : Die) (ch : Chan) (desc : BitVec 512) (failed : List (Fin 328)) : State → Host.Outcome State Fault Refusal :=
  whenOn fun m => m.training die.val ch.val desc (failed.map (·.val))

/-- Every line of a channel written with zero data and valid check bits (R294, step 5). -/
def Mach.zeroFill (m : Mach) (die ch : Nat) : Mach :=
  let here (line : Nat) : Bool := let h := homeOf m.interleave line; h.1 == die && h.2.1 == ch
  { m with mem := m.mem.filter fun x => !here (x.1 / 128), syn := m.syn.filter fun x => !here (x.1 / 16) }

/-- Stage 5 ends once every channel of every die has trained or failed and no cluster is under self-test: each die leaves
Amber mode, and die 0 enables the Vilpin link (R460). -/
def Mach.bootOn (m : Mach) : Mach :=
  if m.stage ≠ 5 then m
  else if (List.range 16).all fun d => (m.dieSt d).bist.isNone && (List.range 64).all fun ch =>
      m.chanState d ch != cOFF && m.chanState d ch != cTRAINING then
    let m := (List.range 16).foldl (fun m d => m.wr64 (at_ d Reg.HOME_AMBER_REQ) 0) (m.endStage 5)
    m.setFld (at_ 0 Reg.VL_STATE) 0 3 1
  else m

/-- A channel fails its training (R297); during start-up that is failure code 6 (Table 16.8). -/
def Mach.chanFails (m : Mach) (die ch : Nat) : Mach :=
  let m := (m.chanDown die ch cFAILED).fatal die 0x05 die 0 0x05
  if m.ready then m else m.bootFail 0x06 die

/-- The end of training: ONLINE, or FAILED with a fatal fault (R294, R297). -/
def Mach.trained (m : Mach) (die ch : Nat) (tuned : Bool) : Mach :=
  let c := m.chan die ch
  if m.chanState die ch ≠ cTRAINING ∨ c.measured = false ∨ !m.memRuns die then m
  else if c.descBad ∨ c.failedWires.length > 8 ∨ tuned = false then
    (m.chanFails die ch).bootOn
  else
    let m := m.setChan die ch { c with measured := false, lastRecal := m.now die,
                                       recalTemp := m.fld (aSlice die ch Reg.MC_THERMAL) 0 8 }
    ((m.zeroFill die ch).setChanState die ch cONLINE).bootOn

/-- TRAINING_COMPLETE. -/
def execTrainingComplete (die : Die) (ch : Chan) (tuned : Bool) : State → Host.Outcome State Fault Refusal :=
  whenOn fun m => m.trained die.val ch.val tuned

/-! ### Recalibration (R298 to R300) -/

/-- A wire is in service: a data or check wire that no spare replaces, or a spare that carries one. -/
def Mach.inService (m : Mach) (die ch w : Nat) : Bool :=
  if w < 320 then !(List.range 8).any fun k => m.spareWire die ch k == some w
  else (m.spareWire die ch (w - 320)).isSome
/-- The first wire in service from a number on. -/
def Mach.nextWire (m : Mach) (die ch from_ : Nat) : Option Nat :=
  (List.range 328).find? fun w => decide (from_ ≤ w) && m.inService die ch w

/-- The data or check wire whose bits travel on a wire: a spare carries another's. -/
def Mach.bitsOn (m : Mach) (die ch w : Nat) : Nat := if w < 320 then w else (m.spareWire die ch (w - 320)).getD w

/-- A round turns to a wire: the spare that it borrows takes that wire's bits (R298). -/
def Mach.roundWire (m : Mach) (die ch : Nat) (w : Option Nat) : Mach :=
  let c := m.chan die ch
  let m := match c.lent with
    | some k => m.setSpare die ch k none
    | none => m
  let k := m.freeSpare die ch
  let m := match w, k with
    | some w, some k => m.lendSpare die ch k (m.bitsOn die ch w)
    | _, _ => m
  m.setChan die ch { c with recalWire := w, lent := k }

/-- The module wakes from standby (R459). -/
def Mach.waking (m : Mach) : Bool := m.fld (at_ 0 Reg.PD_STATE) 0 2 == 3

/-- Waking goes on: a die whose channels are all ONLINE leaves Amber mode, and the module has woken when no channel is
still in standby (R459). -/
def Mach.wakeOn (m : Mach) : Mach :=
  let all (d : Nat) (p : Nat → Bool) : Bool := (List.range 64).all fun ch => p (m.chanState d ch)
  let m := (List.range 16).foldl (fun m d => if all d (· == cONLINE) then m.wr64 (at_ d Reg.HOME_AMBER_REQ) 0 else m) m
  if (List.range 16).all fun d => all d (· != cOFF) then m.setFld (at_ 0 Reg.PD_STATE) 0 2 0 else m

/-- A round begins: its first wire's bits are lent to a free spare (R298). -/
def Mach.roundBegin (m : Mach) (die ch : Nat) : Mach :=
  let c := m.chan die ch
  let m := m.setChan die ch { c with lastRecal := m.now die, recalTemp := m.fld (aSlice die ch Reg.MC_THERMAL) 0 8 }
  (m.setBit (aSlice die ch Reg.MC_STATE) 7 true).roundWire die ch (m.nextWire die ch 0)

/-- `MC_RECAL_INTERVAL` has passed since a round was last due (R299). -/
def Mach.recalDue (m : Mach) (die ch : Nat) : Bool :=
  let n := (m.rd (aSlice die ch Reg.MC_RECAL_INTERVAL)).toNat
  decide (n ≠ 0) && expired (m.now die) (m.chan die ch).lastRecal n

/-- A round ends, and takes an expiry of the interval that came in it (R299); on waking, the channel is then ONLINE (R459). -/
def Mach.recalEnd (m : Mach) (die ch : Nat) : Mach :=
  let m := m.roundOver die ch
  let c := m.chan die ch
  let m := if m.recalDue die ch then m.setChan die ch { c with lastRecal := m.now die } else m
  let m := m.offlineGo die ch
  if m.waking ∧ m.chanState die ch = cOFF then (m.setChanState die ch cONLINE).wakeOn else m

/-- A recalibration round begins, unless one runs, none may or no spare is free (R296, R299); none begins on a channel that
drains before OFFLINE. -/
def Mach.recalStart (m : Mach) (die ch : Nat) : Mach :=
  let c := m.chan die ch
  if c.recalWire.isSome ∨ c.toOff ∨ m.bit (aSlice die ch Reg.MC_STATE) 8 ∨ !m.bit (aSlice die ch Reg.MC_CTRL) 0 ∨
    m.chanState die ch ≠ cONLINE then m
  else m.roundBegin die ch

/-- RECAL_INTERVAL_EXPIRY (R299). -/
def execRecalIntervalExpiry (die : Die) (ch : Chan) : State → Host.Outcome State Fault Refusal :=
  whenOn fun m =>
    if m.bit (aSlice die.val ch.val Reg.MC_CTRL) 0 && m.recalDue die.val ch.val then m.recalStart die.val ch.val else m

/-- A wire found without margin is reported (R300, kind 0x06 of Table 18.4). -/
def Mach.noteWire (m : Mach) (die ch w : Nat) : Mach := m.logFault die 0x06 .ok 1 false ch 0 w

/-- A wire in service loses its margin with no spare free (R300): it stays, and which wire it is, is left open. -/
def Mach.wireFails (m : Mach) (die ch : Nat) : Mach :=
  let ws := (List.range 328).filter (m.inService die ch)
  let (r, m) := m.draw
  let w := ws.getD (r.toNat % ws.length) 0
  let c := m.chan die ch
  ((m.setBit (aSlice die ch Reg.MC_STATE) 9 true).setChan die ch
    { c with degraded := if c.degraded.contains w then c.degraded else c.degraded ++ [w] }).noteWire die ch w

/-- The spare that a round borrowed keeps the bits of a wire without margin (R300). -/
def Mach.keepSpare (m : Mach) (die ch w k : Nat) : Mach :=
  let c := m.chan die ch
  let m := m.setSpare die ch k (some (m.bitsOn die ch w))
  let m := if w < 320 then m else m.setSpare die ch (w - 320) none
  ((m.setChan die ch { c with failedWires := c.failedWires ++ [w], lent := none }).noteSpares die ch).noteWire die ch w

/-- One wire retuned (R298, R300): `margin` says that it has margin again. The round goes on to the next wire in service, unless
it must stop or no other spare is free. -/
def Mach.recalOne (m : Mach) (die ch : Nat) (margin : Bool) : Mach :=
  let c := m.chan die ch
  if m.chanState die ch ≠ cONLINE ∧ !(m.waking ∧ m.chanState die ch = cOFF) then m
  else match c.recalWire with
    | none => if !margin && m.bit (aSlice die ch Reg.MC_STATE) 8 then m.wireFails die ch else m
    | some w =>
      let m := m.count64 (aSlice die ch Reg.MC_RECAL_CNT) 1
      let m := match margin, c.lent with
        | false, some k => m.keepSpare die ch w k
        | _, _ => m
      let next := m.nextWire die ch (w + 1)
      if c.recalStop ∨ m.bit (aSlice die ch Reg.MC_STATE) 8 ∨ next = none then m.recalEnd die ch
      else m.roundWire die ch next

/-- RECAL_WIRE. -/
def execRecalWire (die : Die) (ch : Chan) (margin : Bool) : State → Host.Outcome State Fault Refusal :=
  whenOn fun m => if m.memRuns die.val then m.recalOne die.val ch.val margin else m

/-- REFRESH (R302): it costs bandwidth and changes nothing that a command can read. -/
def execRefresh (_die : Die) (_ch : Chan) : State → Host.Outcome State Fault Refusal := whenOn fun m => m

/-! ### Maintenance requests (R319) -/

/-- The column of Table 11.8 that refuses every request. -/
def chanMaint (st : Nat) : Option Status :=
  if st = cTRAINING then some .busyCalibrating
  else if st = cONLINE ∨ st = cOFFLINE then none
  else some .errGated

/-- `recal_now`. -/
def Mach.reqRecal (m : Mach) (die ch : Nat) : Mach × Status :=
  match chanMaint (m.chanState die ch) with
  | some st => (m, st)
  | none => if m.chanState die ch = cOFFLINE then (m, .busyCalibrating) else (m.recalStart die ch, .ok)
/-- `offline_req`. -/
def Mach.reqOffline (m : Mach) (die ch : Nat) : Mach × Status :=
  match chanMaint (m.chanState die ch) with
  | some st => (m, st)
  | none =>
    if m.chanState die ch = cOFFLINE then (m, .ok)
    else if m.anyPart then (m, .busyOwned)
    else
      let c := m.chan die ch
      ((m.setChan die ch { c with toOff := true, recalStop := true }).offlineGo die ch, .ok)
/-- `online_req`. -/
def Mach.reqOnline (m : Mach) (die ch : Nat) : Mach × Status :=
  match chanMaint (m.chanState die ch) with
  | some st => (m, st)
  | none =>
    if m.chanState die ch = cONLINE then (m, .ok)
    else if (m.chan die ch).ictSince || (m.chan die ch).testing then (m, .busyOwned)
    else (m.setChanState die ch cONLINE, .ok)
/-- `retrain`. -/
def Mach.reqRetrain (m : Mach) (die ch : Nat) : Mach × Status :=
  match chanMaint (m.chanState die ch) with
  | some st => (m, st)
  | none => if m.chanState die ch = cONLINE then (m, .busyOwned) else (m.chanTrain die ch, .ok)
/-- `ict_run`. -/
def Mach.reqIct (m : Mach) (die ch : Nat) : Mach × Status :=
  match chanMaint (m.chanState die ch) with
  | some st => (m, st)
  | none =>
    if m.chanState die ch = cONLINE then (m, .busyOwned)
    else let c := m.chan die ch; (m.setChan die ch { c with testing := true, ictSince := true }, .ok)

/-- A write of `MC_CTRL`: `recal_en`, then each request whose bit is set, lowest first; `status` holds the last. -/
def Mach.mcCtrl (m : Mach) (die ch : Nat) (v : W32) : Mach × Status :=
  let a := aSlice die ch Reg.MC_CTRL
  let m := m.setFld a 0 1 (bitsOf v.toNat 0 1)
  let m := if v.getLsbD 0 then m else m.setChan die ch { m.chan die ch with recalStop := true }
  let one (i : Nat) (f : Mach → Mach × Status) (x : Mach × Option Status) : Mach × Option Status :=
    if v.getLsbD i then let r := f x.1; (r.1, some r.2) else x
  let x := one 1 (·.reqRecal die ch) (m, none)
  let x := one 3 (·.reqOnline die ch) (one 2 (·.reqOffline die ch) x)
  let x := one 5 (·.reqIct die ch) (one 4 (·.reqRetrain die ch) x)
  match x.2 with
  | none => (x.1, .ok)
  | some st => x.1.finishCmd a 8 st

/-- A write of `MC_CTRL` by a requester that sets a given request's bit. -/
def Mach.mcRequest (m : Mach) (who : Requester) (die ch : Nat) (bit : Nat) (v : W32) : Mach :=
  if v.getLsbD bit then m.regWrite who die (aSlice 0 ch Reg.MC_CTRL) fun m => m.mcCtrl die ch v else m

/-- RECAL_NOW. -/
def execRecalNow (who : Requester) (die : Die) (ch : Chan) (v : W32) : State → Host.Outcome State Fault Refusal :=
  whenOn fun m => m.mcRequest who die.val ch.val 1 v
/-- OFFLINE_REQ. -/
def execOfflineReq (who : Requester) (die : Die) (ch : Chan) (v : W32) : State → Host.Outcome State Fault Refusal :=
  whenOn fun m => m.mcRequest who die.val ch.val 2 v
/-- ONLINE_REQ. -/
def execOnlineReq (who : Requester) (die : Die) (ch : Chan) (v : W32) : State → Host.Outcome State Fault Refusal :=
  whenOn fun m => m.mcRequest who die.val ch.val 3 v
/-- ICT_RUN. -/
def execIctRun (who : Requester) (die : Die) (ch : Chan) (v : W32) : State → Host.Outcome State Fault Refusal :=
  whenOn fun m => m.mcRequest who die.val ch.val 5 v

/-- A line of a channel overwritten by the interconnect test (R318): which line, and what its words then hold, is left open. -/
def Mach.ictLine (m : Mach) (die ch : Nat) : Mach :=
  let (r, m) := m.draw
  let line := lineAt m.interleave die ch (r.toNat % chanLines)
  (List.range 16).foldl (fun m w =>
    let (d, m) := m.draw
    let (s, m) := m.draw
    m.putWord line w d (s.setWidth 16)) m

/-- ICT_DONE (R318): a test that the driver ran ends; no spare assignment changes, and the lines that it used are overwritten
(log 97). -/
def execIctDone (die : Die) (ch : Chan) (failed : List (Fin 328)) : State → Host.Outcome State Fault Refusal :=
  whenOn fun m =>
    let c := m.chan die.val ch.val
    if c.testing then
      let m := (m.setChan die.val ch.val { c with testing := false }).putIct die.val ch.val (failed.map (·.val))
      (List.range 8).foldl (fun m _ => m.ictLine die.val ch.val) m
    else m

/-! ### Scrubbing -/

/-- `go` (R314, Table 11.8): END below START is ERR_DECODE, which stands first under R16. -/
def Mach.scrubGo (m : Mach) (die ch : Nat) : Mach × Status :=
  let s := m.fld (aSlice die ch Reg.MC_SCRUB_START) 0 25
  let e := m.fld (aSlice die ch Reg.MC_SCRUB_END) 0 25
  if e < s then (m, .errDecode)
  else match chanMaint (m.chanState die ch) with
    | some st => (m, st)
    | none =>
      let c := m.chan die ch
      if c.scrub.isSome then (m, .busyOwned)
      else
        let m := (m.setChan die ch { c with scrub := some (s, e) }).wr (aSlice die ch Reg.MC_SCRUB_STATUS) 1
        (m.clearWords (aSlice die ch Reg.MC_SCRUB_WORDS) 10, .ok)

/-- A write of `MC_SCRUB_CTRL`: the rate, `stop`, then `go`. -/
def Mach.scrubCtrl (m : Mach) (die ch : Nat) (v : W32) : Mach × Status :=
  let m := m.setFld (aSlice die ch Reg.MC_SCRUB_CTRL) 8 8 (bitsOf v.toNat 8 8)
  let m := if v.getLsbD 1 then m.scrubEnd die ch .abortSquashed else m
  if v.getLsbD 0 then m.scrubGo die ch else (m, .ok)

/-- GO. -/
def execGo (who : Requester) (die : Die) (ch : Chan) (v : W32) : State → Host.Outcome State Fault Refusal :=
  whenOn fun m => if v.getLsbD 0 then m.regWrite who die.val (aSlice 0 ch.val Reg.MC_SCRUB_CTRL) fun m => m.scrubCtrl die.val ch.val v else m
/-- STOP. -/
def execStop (who : Requester) (die : Die) (ch : Chan) (v : W32) : State → Host.Outcome State Fault Refusal :=
  whenOn fun m => if v.getLsbD 1 then m.regWrite who die.val (aSlice 0 ch.val Reg.MC_SCRUB_CTRL) fun m => m.scrubCtrl die.val ch.val v else m

/-- One word scrubbed (R315): as R307, but an uncorrectable word of a line that its home holds is recovered. -/
def Mach.scrubWord (m : Mach) (die ch line w : Nat) (held : Bool) : Mach :=
  let (m, d, s) := m.wordIn die ch line w
  let m := (m.takeWord die ch line w held d s).1
  match classify s with
  | .corrected _ => m.count64 (aSlice die ch Reg.MC_SCRUB_CORR) 1
  | .uncorrectable =>
    let m := if m.rd64 (aSlice die ch Reg.MC_SCRUB_UNCORR) = 0 then
        m.wr64 (aSlice die ch Reg.MC_SCRUB_FIRST) (BitVec.ofNat 64 (128 * line + 8 * w)) else m
    let m := m.count64 (aSlice die ch Reg.MC_SCRUB_UNCORR) 1
    if held then
      { m.count64 (aSlice die ch Reg.MC_SCRUB_RECOV) 1 with lines := m.lines.upd line fun h => { h with st := .dirty } }
    else m
  | _ => m

/-- The scrubber may read a line now: its rate, in lines of 100 ticks, allows it, and no request waits (R247, R314). -/
def Mach.scrubMay (m : Mach) (die ch : Nat) : Bool :=
  let c := m.chan die ch
  let rate := m.fld (aSlice die ch Reg.MC_SCRUB_CTRL) 8 8
  c.sent.isEmpty && (c.scrubWin != m.now die / 100 || decide (c.scrubCnt < if rate = 0 then 64 else rate))

/-- A line of a pass counted against its rate. -/
def Mach.scrubTick (m : Mach) (die ch : Nat) : Mach :=
  let c := m.chan die ch
  let win := m.now die / 100
  m.setChan die ch { c with scrubWin := win, scrubCnt := if c.scrubWin = win then c.scrubCnt + 1 else 1 }

/-- One line scrubbed, and the pass ended after the last (R315, R316). A Combining line is left alone. -/
def Mach.scrubLine (m : Mach) (die ch : Nat) : Mach :=
  let st := m.chanState die ch
  match (m.chan die ch).scrub with
  | none => m
  | some (i, e) =>
    if (st ≠ cONLINE ∧ st ≠ cOFFLINE) ∨ m.scrubMay die ch = false then m
    else
      let m := m.scrubTick die ch
      let line := lineAt m.interleave die ch i
      let h := m.hline? line
      let held : Bool := match h with
        | some h => h.st == .clean || h.st == .dirty
        | none => false
      let comb : Bool := match h with
        | some h => h.st == .combining
        | none => false
      let m :=
        if i ≥ chanLines ∨ comb then m
        else
          let m := (List.range 16).foldl (fun m w => m.scrubWord die ch line w held) m
          m.count64 (aSlice die ch Reg.MC_SCRUB_WORDS) 16
      if i ≥ e ∨ i + 1 ≥ chanLines then m.scrubEnd die ch .ok
      else let c := m.chan die ch; m.setChan die ch { c with scrub := some (i + 1, e) }

/-- SCRUB_LINE. -/
def execScrubLine (die : Die) (ch : Chan) : State → Host.Outcome State Fault Refusal :=
  whenOn fun m => if m.memRuns die.val then m.scrubLine die.val ch.val else m

/-! ### Counters and tables -/

/-- A write of `MC_CNT_CLEAR` (R320): the five counters of the channel. -/
def Mach.mcClear (m : Mach) (die ch : Nat) (v : W32) : Mach × Status :=
  (if v.getLsbD 0 then m.clearWords (aSlice die ch Reg.MC_CORR_CNT) 10 else m, .ok)
/-- MC_CNT_CLEAR. -/
def execMcCntClear (who : Requester) (die : Die) (ch : Chan) (v : W32) : State → Host.Outcome State Fault Refusal :=
  whenOn fun m => m.regWrite who die.val (aSlice 0 ch.val Reg.MC_CNT_CLEAR) fun m => m.mcClear die.val ch.val v

/-- A write of `MEM_CE_STATUS` (R309): `clear` empties the table, `overflow` clears where a 1 is written. -/
def Mach.ceClear (m : Mach) (die : Nat) (v : W32) : Mach × Status :=
  let a := at_ die Reg.MEM_CE_STATUS
  let m := if v.getLsbD 5 then m.setBit a 5 false else m
  (if v.getLsbD 6 then (m.setFld a 0 5 0).clearWords (at_ die Reg.MEM_CE_ENTRY) 128 else m, .ok)
/-- CE_TABLE_CLEAR. -/
def execCeTableClear (who : Requester) (die : Die) (v : W32) : State → Host.Outcome State Fault Refusal :=
  whenOn fun m => m.regWrite who die.val Reg.MEM_CE_STATUS fun m => m.ceClear die.val v

end Sys2Proof.Machine
end

