-- ==== Sys2Proof/Machine/Links.lean ====
section
/-! DEFINITION. Link units (R322 to R332, R350 to R358), transport messages as they arrive (R333, R334, R340, R343, R481),
dead partners (R347 to R349) and route loads (R338, R342). -/
namespace Sys2Proof.Machine

/-! ### Die links (R325 to R327) -/

/-- The die that an internal edge port faces (R20). -/
def farDie (die port : Nat) : Nat :=
  match port with
  | 0 => die - 4
  | 1 => die + 1
  | 2 => die + 4
  | _ => die - 1
/-- The port of the far die that faces back. -/
def farPort (port : Nat) : Nat := (port + 2) % 4

/-- `LU_STATE` set: state, width and role. -/
def Mach.setLu (m : Mach) (die port unit st width role : Nat) : Mach :=
  m.setFld (aUnit die port unit Reg.LU_STATE) 0 7 (st + 8 * width + 32 * role)
/-- `EP_GROUP_STATE` of a group: its role and whether its lanes are locked. -/
def Mach.setGroupState (m : Mach) (die port g role : Nat) (locked failed : Bool) : Mach :=
  m.setFld (at_ die (Reg.EP_GROUP_STATE + port * 0x40000)) (4 * g) 4
    (role + (if locked then 4 else 0) + if failed then 8 else 0)

/-- The roles that a die manager sets at boot (R323): every routed unit is a fabric port, but for the host unit; an internal port is
a die link (log 100). -/
def Mach.bootRoles (m : Mach) (d : Nat) : Mach :=
  (List.range 4).foldl (fun m p =>
    let role (g : Nat) : Nat :=
      if !outward d p then 1 else if g ≥ 4 then 0 else if isHostUnit d p (g / 2) then 3 else 2
    let m := m.setFld (at_ d (Reg.LR_ROLE + 4 * p)) 0 14 ((List.range 7).foldl (fun n g => n + role g * 4 ^ g) 0)
    let m := (List.range 7).foldl (fun m g => m.setGroupState d p g (role g) false false) m
    if outward d p then [0, 1].foldl (fun m u =>
      if isHostUnit d p u then m else m.setLu d p u (m.luState d p u) 0 (role (2 * u))) m else m) m

/-- One end of a die link up (R326). -/
def Mach.dieEndUp (m : Mach) (die port far agreed : Nat) : Mach :=
  let m := ((m.setLu die port 0 2 3 1).setDlink die port {}).wr (aUnit die port 0 Reg.LU_CAP_FAR) (BitVec.ofNat 32 far)
  let m := m.wr (aUnit die port 0 Reg.LU_CAP_AGREED) (BitVec.ofNat 32 agreed)
  (List.range 7).foldl (fun m g => m.setGroupState die port g 1 true false) m

/-- Stage 5 begins (R460): the home blocks run, and the start-up self-test begins at the first cluster of each die. -/
def Mach.stage5 (m : Mach) : Mach :=
  let m := m.endStage 4
  (List.range 16).foldl (fun m d => (m.enable d [3]).setDie d { m.dieSt d with bist := some 0 }) m

/-- The dies that have left reset join once each of their links to an earlier die has trained, or has failed; the last one
ends stage 4 (R460, R463). -/
def Mach.joinOn (m : Mach) : Mach :=
  let m := (List.range 16).foldl (fun m d =>
    let done := (List.range 4).all fun p => outward d p || decide (farDie d p > d) || decide (m.luState d p 0 = 2) ||
      decide (m.luState d p 0 = 6)
    if (m.dieSt d).up && !(m.dieSt d).joined && done then
      { (m.setDie d { m.dieSt d with joined := true }).enable d [1, 2, 4, 8] with stageFrom := m.now 0 } else m) m
  if m.stage = 4 ∧ m.bootStopped = false ∧ (List.range 16).all (fun d => (m.dieSt d).joined) then m.stage5 else m

/-- DIE_LINK_TRAINED (R326): the lower version and the bits that both ends hold; without bit 0 it does not come up. -/
def Mach.dieLinkUp (m : Mach) (die port : Nat) : Mach :=
  let fd := farDie die port
  let fp := farPort port
  if outward die port ∨ m.luState die port 0 ≠ 1 ∨ m.luState fd fp 0 ≠ 1 ∨ !m.lanesRun die port ∨ !m.lanesRun fd fp then m
  else
    let a := (m.rd (aUnit die port 0 Reg.LU_CAP_LOCAL)).toNat
    let b := (m.rd (aUnit fd fp 0 Reg.LU_CAP_LOCAL)).toNat
    let bits := Nat.land (a % 256) (b % 256)
    let agreed := bits + 256 * min (a / 256 % 256) (b / 256 % 256)
    if bits % 2 = 0 then m else ((m.dieEndUp die port b agreed).dieEndUp fd fp a agreed).joinOn

/-- DIE_LINK_TRAINED. -/
def execDieLinkTrained (die : Die) (port : Port) : State → Host.Outcome State Fault Refusal :=
  whenOn fun m => m.dieLinkUp die.val port.val

/-- DIE_LINK_FAULT (R327): a link that fails to train, or a trained one that loses lock or fails its replays; both its dies'
managers report it. -/
def Mach.dieLinkDown (m : Mach) (die port : Nat) (why : LinkFault) : Mach :=
  let st := m.luState die port 0
  let may := match why with
    | .untrained => st == 1
    | .lockLost | .replays => st == 2
  if outward die port ∨ may = false then m
  else
    let m := (m.setLu die port 0 6 0 1).setLu (farDie die port) (farPort port) 0 6 0 1
    let m := (m.fatal die 0x01 die 0 0x01).fatal (farDie die port) 0x01 (farDie die port) 0 0x01
    (if m.ready then m else m.bootFail 0x06 die).joinOn

/-- DIE_LINK_FAULT. -/
def execDieLinkFault (die : Die) (port : Port) (why : LinkFault) : State → Host.Outcome State Fault Refusal :=
  whenOn fun m => m.dieLinkDown die.val port.val why

/-- A slice that stops for an uncorrectable tag or state error (Table 9.2): its outstanding requests complete with
ERR_UNCORRECTABLE. -/
def Mach.stopSlice (m : Mach) (die ch : Nat) : Mach :=
  let s := m.slice die ch
  let m := m.setSlice die ch { s with stopped := true, notes := [], behind := [] }
  let fail (m : Mach) (line : Nat) (rs : List HReq) : Mach := rs.foldl (fun m r => m.failReq line r .errUncorrectable) m
  let m := (s.notes.map fun x => (x.1, x.2.req)).foldl (fun m x => fail m x.1 [x.2]) m
  let m := s.behind.foldl (fun m x => fail m x.1 [x.2]) m
  (m.sliceLines die ch).foldl (fun m x =>
    (fail m x.1 (x.2.serving ++ x.2.waiting)).setHline x.1 { x.2 with pend := none, waiting := [] }) m

/-- FAILED_DEGRADED (R328, R329): a fatal fault of Table 12.3 is reported. -/
def execFailedDegraded (die : Die) (cause : Fin 8) (unit : Chan) : State → Host.Outcome State Fault Refusal :=
  whenOn fun m =>
    if cause.val = 0 then m
    else (if cause.val = 2 then m.stopSlice die.val unit.val else m).fatal die.val cause.val die.val 0 cause.val

/-! ### Neighbours (R335 to R337) -/

/-- The neighbour entry's words for an identity frame (Tables 12.6, 12.11). -/
def identInfo (x : Ident) : Nat :=
  let b (p : Bool) : Nat := if p then 1 else 0
  x.device.toNat + 2 ^ 18 * b x.devValid + 2 ^ 19 * x.port.toNat + 2 ^ 24 * b x.failed + 2 ^ 25 * b x.narrow
    + 2 ^ 26 * b x.steppingB0 + 2 ^ 27 * x.version.toNat + 2 ^ 31

/-- A fabric port's entry of a neighbour report (R491): its index and state, flags, transport version, device number and
`module_id`. -/
def Mach.neighbourEntry (m : Mach) (fp : Nat) : List Byte :=
  let info := aFp fp Reg.LU_NEIGH_INFO
  let flags := m.fld info 31 1 + 2 * m.fld info 25 1 + 4 * m.fld info 24 1 + 8 * m.fld info 18 1 + 16 * m.fld info 26 1
  bytesOf fp 1 ++ bytesOf (m.fpState fp) 1 ++ bytesOf flags 1 ++ bytesOf (m.fld info 27 4) 1 ++ bytesOf (m.fld info 0 18) 4 ++
    bytesOf (m.rd64 (aFp fp Reg.LU_NEIGH_MODULE)).toNat 8
/-- The body of a neighbour report (R337, R491): its generation, and every fabric port's state and neighbour entry. -/
def Mach.neighbourBody (m : Mach) : List Byte := bytesOf m.neighGen 4 ++ (List.range 31).flatMap m.neighbourEntry

/-- A change of a neighbour entry, which the steward reports (R337). -/
def Mach.neighChanged (m : Mach) (fp : Nat) : Mach :=
  let m := { m.wr64 (aFp fp Reg.LU_NEIGH_TIME) (BitVec.ofNat 64 (m.now (fpDie fp))) with neighGen := m.neighGen + 1 }
  m.slateNotice 0x11 m.neighbourBody

/-- The neighbour entry set from an identity frame. -/
def Mach.setNeigh (m : Mach) (fp : Nat) (x : Ident) : Mach :=
  let info := BitVec.ofNat 32 (identInfo x)
  if m.rd64 (aFp fp Reg.LU_NEIGH_MODULE) = x.moduleId ∧ m.rd (aFp fp Reg.LU_NEIGH_INFO) = info then m
  else ((m.wr64 (aFp fp Reg.LU_NEIGH_MODULE) x.moduleId).wr (aFp fp Reg.LU_NEIGH_INFO) info).neighChanged fp

/-- The neighbour entry made invalid (R337). -/
def Mach.dropNeigh (m : Mach) (fp : Nat) : Mach :=
  if m.bit (aFp fp Reg.LU_NEIGH_INFO) 31 then (m.setBit (aFp fp Reg.LU_NEIGH_INFO) 31 false).neighChanged fp else m

/-- Messages that wait at any port chosen again (R339, R353). -/
def Mach.rechoose (m : Mach) : Mach :=
  let m := (List.range 31).foldl (fun m fp => m.retryWaiting fp) m
  m.transit.foldl (fun m t =>
    match m.choosePort t.tx.msg.dst.toNat (t.tx.msg.addr.toNat / 128) with
    | none => m.discardAt t.port
    | some (p, up) =>
      if !m.intact t.tx.die (fpDie p) then m.discardAt t.port
      else if up then m.transmit p t.tx
      else { m with transit := m.transit ++ [{ t with port := p }] }) { m with transit := [] }

/-- A message that its port has not framed chosen again (R350, R353): a request gives up its entry first. -/
def Mach.rechooseMsg (m : Mach) (fp : Nat) (t : TxMsg) : Mach :=
  match t.rid with
  | none => m.sendOn fp t
  | some rid =>
    let ents := match (m.req? rid).bind (·.entry) with
      | some e => (m.port fp).ents.del e.2
      | none => (m.port fp).ents
    let m := m.setPort fp { m.port fp with ents := ents }
    (m.updReq rid fun q => { q with entry := none, atHome := false }).remoteSend rid

/-- A port that has left the ACTIVE set: the messages that it has not framed, and those that wait, are chosen again. -/
def Mach.unframe (m : Mach) (fp : Nat) : Mach :=
  let p := m.port fp
  let m := m.setPort fp { p with tx := [], held := [] }
  ((p.tx ++ p.held).foldl (fun m t => m.rechooseMsg fp t) m).rechoose

/-- The unit of a fabric port, its groups, and a port whose role is fabric. -/
def Mach.fpRole (m : Mach) (fp : Nat) : Nat :=
  let u := unitOf fp
  m.fld (at_ u.1 (Reg.LR_ROLE + 4 * u.2.1)) (4 * u.2.2) 2
/-- A fabric port's state and width (Table 12.7). -/
def Mach.putFp (m : Mach) (fp st width : Nat) : Mach :=
  let u := unitOf fp
  m.setLu u.1 u.2.1 u.2.2 st width (m.fpRole fp)

/-- The two groups of a fabric port's unit shown: locked, and with a lane that failed. -/
def Mach.fpGroups (m : Mach) (fp : Nat) (a b : Bool × Bool) : Mach :=
  let u := unitOf fp
  let r := m.fpRole fp
  (m.setGroupState u.1 u.2.1 (2 * u.2.2) r a.1 a.2).setGroupState u.1 u.2.1 (2 * u.2.2 + 1) r b.1 b.2

/-- A port's link as it is before it trains: no frame is outstanding and no credit held. -/
def PortSt.fresh (p : PortSt) : PortSt :=
  { p with toOff := false, unacked := [], txSeq := 0, replays := 0, credReq := 0, credAns := 0, rxSeq := 0 }

/-- A port no longer trained: its state and its link (Table 12.7). -/
def Mach.fpDown (m : Mach) (fp st : Nat) : Mach :=
  (((m.putFp fp st 0).fpGroups fp (false, false) (false, false)).setPort fp (m.port fp).fresh).dropNeigh fp

/-- Stages 7 and 8 end once every port whose role is fabric is ACTIVE, since its report is sent with it; DESIGN CHOICE, log
49. -/
def Mach.fabStage (m : Mach) : Mach :=
  if m.stage = 7 ∧ (List.range 31).all (fun fp => m.fpRole fp != 2 || m.fpState fp == 2) then (m.endStage 7).endStage 8 else m

/-- The lanes of a unit that failed its latest training (Table 12.11). -/
def Mach.laneFail (m : Mach) (fp : Nat) (failed : BitVec 16) : Mach :=
  let u := unitOf fp
  let a := at_ u.1 (Reg.EP_LANE_FAIL + u.2.1 * 0x40000)
  let keep := m.rd64 a &&& ~~~(0xFFFF#64 <<< (16 * u.2.2))
  m.wr64 a (keep ||| (failed.setWidth 64 <<< (16 * u.2.2)))

/-- PORT_ACTIVE (R332, R335): the unit trains with the lanes of both groups, or with one group whose eight lanes are all good. -/
def Mach.portUp (m : Mach) (fp : Nat) (failed : BitVec 16) (x : Ident) : Mach :=
  if m.fpState fp ≠ 1 ∨ m.fpRole fp ≠ 2 ∨ m.fpLanes fp = false then m
  else
    let m := m.laneFail fp failed
    let a : Bool := failed.setWidth 8 == (0 : BitVec 8)
    let b : Bool := (failed >>> 8).setWidth 8 == (0 : BitVec 8)
    let m := m.fpGroups fp (a, !a) (b, !b)
    if !a && !b then m
    else
      let m := (m.putFp fp 2 (if a && b then 2 else 1)).setPort fp (m.port fp).fresh
      ((m.setNeigh fp x).sendIdentity fp).rechoose.fabStage

/-- PORT_ACTIVE. -/
def execPortActive (fp : FPort) (failed : BitVec 16) (ident : Ident) : State → Host.Outcome State Fault Refusal :=
  whenOn fun m => m.portUp fp.val failed ident

/-- IDENTITY_FRAME (R337). -/
def execIdentityFrame (fp : FPort) (ident : Ident) : State → Host.Outcome State Fault Refusal :=
  whenOn fun m => if m.fpCarries fp.val && m.fpLanes fp.val then m.setNeigh fp.val ident else m

/-- A request whose frame was lost completes with ERR_TIMEOUT, logged as R224 sets out (R350). -/
def Mach.lostRequest (m : Mach) (rid : Nat) : Mach :=
  match m.req? rid with
  | none => m
  | some q =>
    let m := if !q.kind.writes then m else match q.src with
      | .group s g => m.logFault q.die 0x03 .errTimeout 1 (m.sableCluster (clusterOfSlot s)) s (m.lineAddr q) g
      | .mover _ s g _ => m.logFault q.die 0x03 .errTimeout 1 (m.sableCluster (clusterOfSlot s)) s (m.lineAddr q) g
      | _ => m
    (m.freeEnt rid).giveAnswer rid { status := .errTimeout }

/-- PARTNER_LOSS (R350): requests in frames that the partner never acknowledged complete, and messages not yet framed are chosen
again. -/
def Mach.portLost (m : Mach) (fp : Nat) : Mach :=
  if !m.fpCarries fp then m
  else
    let lost := (m.port fp).unacked.filterMap (·.rid)
    let m := (m.fpDown fp 1).count64 (aFp fp Reg.LU_DOWN_CNT) 1
    (lost.foldl (fun m rid => m.lostRequest rid) m).unframe fp

/-- PARTNER_LOSS. -/
def execPartnerLoss (fp : FPort) : State → Host.Outcome State Fault Refusal := whenOn fun m => m.portLost fp.val

/-- QUIESCE_NOTICE (R353): the port takes no new message. -/
def execQuiesceNotice (fp : FPort) : State → Host.Outcome State Fault Refusal :=
  whenOn fun m => if m.fpState fp.val = 2 ∧ m.fpLanes fp.val then (m.setFpState fp.val 3).unframe fp.val else m

/-- LANE_MARGIN_LOW (R351): a lane of a trained unit. -/
def Mach.laneLow (m : Mach) (die port lane : Nat) (height width : Byte) : Mach :=
  let unit := if outward die port then lane / 16 else 0
  let up := decide (unit < 2) && (let s := m.luState die port unit; s == 2 || s == 3 || s == 4)
  if !up then m
  else
    let m := m.setBit64 (at_ die (Reg.EP_MARGIN_LOW + port * 0x40000)) lane true
    let m := m.wr (at_ die (Reg.EP_LANE_MARGIN + port * 0x40000 + 4 * lane)) (BitVec.ofNat 32 (height.toNat + 256 * width.toNat))
    m.logFault die 0x07 .ok 0 false port 0 lane

/-- LANE_MARGIN_LOW. -/
def execLaneMarginLow (die : Die) (port : Port) (lane : Fin 56) (height width : Byte) : State → Host.Outcome State Fault Refusal :=
  whenOn fun m => m.laneLow die.val port.val lane.val height width

/-! ### Dead partners (R347 to R349) -/

/-- A port declares a device dead: its requests for it complete, and the other dies are to be told (R348). -/
def Mach.declareDead (m : Mach) (fp dev : Nat) : Mach :=
  if m.dead dev ∨ m.deadNew.contains dev then m
  else
    let m := { m.count64 (aFp fp Reg.LU_DEAD_CNT) 1 with deadNew := m.deadNew ++ [dev] }
    m.failDevice fp dev .errPartnerDead

/-- The moment from which a port times a device (R347): the later of its latest answer and the oldest request that is
outstanding or waits with no ACTIVE port. -/
def Mach.deadStart (m : Mach) (fp dev : Nat) : Option Nat :=
  let p := m.port fp
  let sent := (p.ents.filter fun e => e.2.dev == dev).map fun e => e.2.start
  let wait := p.waiting.filterMap fun rid => match m.req? rid with
    | some q => (match q.tgt with
      | .remote d l => if d = dev ∧ (m.choosePort d l).map (·.2) = some false then some q.wtick else none
      | _ => none)
    | none => none
  match sent ++ wait with
  | [] => none
  | t :: ts => some (max (p.timers.get dev 0) (ts.foldl min t))

/-- DEAD_PARTNER_TIMEOUT (R347). -/
def execDeadPartnerTimeout (fp : FPort) (dev : DevNo) : State → Host.Outcome State Fault Refusal :=
  whenOn fun m => match m.deadStart fp.val dev.toNat with
    | some v => if expired (m.now (fpDie fp.val)) v 400000 then m.declareDead fp.val dev.toNat else m
    | none => m

/-- DEAD_MAP_PROPAGATION (R348). -/
def Mach.spreadDead (m : Mach) (dev : Nat) : Mach :=
  if !m.deadNew.contains dev then m
  else
    let m := { m with deadNew := m.deadNew.filter (· != dev) }
    let m := m.setBit (at_ 0 (Reg.FAB_DEAD_MAP + 4 * (dev / 32))) (dev % 32) true
    let m := m.countFld (at_ 0 Reg.FAB_DEAD_COUNT) 0 19 1
    (List.range 31).foldl (fun m fp => m.failDevice fp dev .errPartnerDead) m

/-- DEAD_MAP_PROPAGATION. -/
def execDeadMapPropagation (dev : DevNo) : State → Host.Outcome State Fault Refusal := whenOn fun m => m.spreadDead dev.toNat

/-- Ones in a word. -/
def ones (x : W32) : Nat := ((List.range 32).filter fun i => x.getLsbD i).length

/-- Bits of the dead map cleared (R349, R356). -/
def Mach.clearDead (m : Mach) (k : Nat) (v : W32) : Mach :=
  let a := at_ 0 (Reg.FAB_DEAD_MAP + 4 * k)
  let n := ones (m.rd a &&& v)
  let c := at_ 0 Reg.FAB_DEAD_COUNT
  (m.wr a (m.rd a &&& ~~~v)).setFld c 0 19 (m.fld c 0 19 - n)

/-- A write of `FAB_DEAD_MAP`. -/
def Mach.deadMapWrite (m : Mach) (die k : Nat) (v : W32) : Mach × Status :=
  if die ≠ 0 then (m, .errSecurity) else (m.clearDead k v, .ok)

/-- FAB_DEAD_MAP_WRITE. -/
def execFabDeadMapWrite (who : Requester) (die : Die) (k : Fin 8192) (v : W32) : State → Host.Outcome State Fault Refusal :=
  whenOn fun m => m.regWrite who die.val (Reg.FAB_DEAD_MAP + 4 * k.val) fun m => m.deadMapWrite die.val k.val v

/-! ### Transport messages (R333, R334, R340, R343, R481) -/

/-- The partition to which the receive table assigns a pair (R481). -/
def Mach.rxPart (m : Mach) (kslot epoch : Nat) : Option Nat :=
  (List.range 64).findSome? fun i =>
    let a := at_ 0 (Reg.SEC_RX + 8 * i)
    if m.bit a 5 ∧ m.fld a 0 5 = kslot ∧ m.fld (a + 4) 0 16 = epoch then some (m.fld a 6 5) else none

/-- What the receive table makes of an arriving message: its partition, a refusal, or nothing at all. -/
inductive RxRes where
  | part (p : Nat)
  | refuse
  | discard
deriving DecidableEq, Repr

/-- The receive table's verdict, with its counters (R481). -/
def Mach.receive (m : Mach) (x : TMsg) : Mach × RxRes :=
  let pair := (x.kslot.toNat, x.epoch.toNat)
  if m.retired.contains pair then (m.count64 (at_ 0 Reg.SEC_EPOCH_DISCARD_CNT) 1, .discard)
  else match m.rxPart pair.1 pair.2 with
    | none => (m.count64 (at_ 0 Reg.SEC_RX_NOMATCH_CNT) 1, .refuse)
    | some p =>
      if x.enc && (!x.tagOk || !m.sable p) then (m.count64 (at_ 0 Reg.SEC_GCM_FAIL_CNT) 1, .refuse) else (m, .part p)

/-- The elements of a RED message: a value for each contributed word or pair (Table 12.5). -/
def redElts (x : TMsg) : List Elt :=
  let n := atomBytes x.ty.toNat
  (List.range 32).filterMap fun w =>
    if x.words.getLsbD w && (n == 4 || w % 2 == 0) then some ⟨w, 4 * w, BitVec.ofNat 64 (lnum x.img (4 * w) n), 0⟩ else none

/-- The request that a message makes at this device. -/
def fabricReq (fp die part : Nat) (x : TMsg) (tgt : Target) (now : Nat) : Req :=
  { kind := match x.typ with
      | .wr => .store
      | .red => .red
      | .atom => .atom
      | _ => .load
    src := .fabric fp x, die := die, part := part, tgt := tgt, line := x.addr.toNat / 128
    mask := if x.typ = .wr then x.mask else BitVec.allOnes 128
    img := x.img
    elts := match x.typ with
      | .red => redElts x
      | .atom => x.entries.map fun e => ⟨0, e.off.toNat, e.op0, e.op1⟩
      | _ => []
    func := x.func.toNat, ty := x.ty.toNat, urg := x.urg, critical := x.urg, sent := true, tick := now }

/-- A message's type, address and control are ones that this device accepts (R334). -/
def msgOk (x : TMsg) : Bool :=
  x.wellFormed && x.addr.toNat % 128 == 0 &&
    (match x.typ with
     | .red => atomTypes x.func.toNat x.ty.toNat
     | .atom => atomTypes x.func.toNat x.ty.toNat && decide (x.entries.length ≤ 32) &&
         x.entries.all fun e => e.off.toNat % atomBytes x.ty.toNat == 0 && decide (e.off.toNat < 128)
     | _ => true)

/-- A local-array window as a request of another device finds it: its answer, and the machine after a write. -/
def Mach.windowMsg (m : Mach) (slot off : Nat) (x : TMsg) : Mach × Answer :=
  match x.typ with
  | .rd => m.windowRead slot off (BitVec.allOnes 128)
  | .wr =>
    let (m, st) := m.windowWrite slot off x.mask x.img
    (m, { status := st })
  | _ => (m, { status := .errDecode })

/-- A request of another device (R34, R329, R334, R389, R481, Table 14.8): answered at once, or taken to its home. -/
def Mach.fabricRequest (m : Mach) (fp : Nat) (x : TMsg) : Mach :=
  let say (m : Mach) (p : Nat) (st : Status) : Mach := m.answerFabric fp p x { status := st }
  if m.failedDegraded then say m 0 .errPartnerDead
  else match m.receive x with
    | (m, .discard) => m
    | (m, .refuse) => say m 0 .errSecurity
    | (m, .part p) =>
      let a := x.addr.toNat
      let st := m.partState p
      if a < 128 * allLines then
        if m.granuleOwner (a / 2 ^ 30) ≠ some p then say m p .errSecurity
        else if !msgOk x then say m p .errDecode
        else if st = pRESETTING ∨ st = pREMOVING then say m p .abortPartitionReset
        else (m.newReq (fabricReq fp (fpDie fp) p x (.home (a / 128)) (m.now (fpDie fp)))).1
      else if 0x200000000000 ≤ a ∧ a < 0x200240000000 then
        let slot := (a - 0x200000000000) / 2 ^ 18
        if m.clusterOwner (clusterOfSlot slot) ≠ some p then say m p .errSecurity
        else if !msgOk x then say m p .errDecode
        else if st = pRESETTING ∨ st = pREMOVING then say m p .abortPartitionReset
        else let r := m.windowMsg slot (a % 2 ^ 18) x; r.1.answerFabric fp p x r.2
      else say m p .errSecurity

/-- An answer to a request of this device (R343, R348, R481): the entry its tag names completes. -/
def Mach.fabricAnswer (m : Mach) (fp : Nat) (x : TMsg) : Mach :=
  match m.receive x with
  | (m, .part _) =>
    let dev := x.src.toNat
    let p := m.port fp
    let m := m.setPort fp { p with timers := p.timers.put dev (m.now (fpDie fp)) }
    let m := match (m.port x.port.toNat).ents.get? x.entry.toNat with
      | some e =>
        if e.dev ≠ dev then m
        else
          let rid := e.rid
          (m.freeEnt rid).giveAnswer rid { status := x.status, img := x.img, res := x.results }
      | none => m
    if x.failed then m.declareDead fp dev else m
  | (m, _) => m

/-- A message in transit (R340). -/
def Mach.forward (m : Mach) (fp : Nat) (x : TMsg) : Mach :=
  if !m.bit (at_ 0 Reg.FAB_DEVICE) 18 ∨ x.hops = 0 then m.discardAt fp
  else
    let y := { x with hops := x.hops - 1 }
    m.sendOn fp ⟨y, none, false, fpDie fp, wireOn y⟩

/-- A message as its hop delivers it. -/
def Mach.message (m : Mach) (fp : Nat) (x : TMsg) : Mach :=
  if x.dst.toNat ≠ m.device then m.forward fp x
  else if isAnswer x then m.fabricAnswer fp x else m.fabricRequest fp x

/-! ### The crossing from a fabric port (R42, R44) -/

/-- What a trailer says of the frames received, and the credits that it returns. -/
def Mach.trailer (m : Mach) (fp : Nat) (nak : Bool) (req ans : Nat) : Mach :=
  m.emit (.trailer fp (m.port fp).rxSeq nak req ans)

/-- The die network takes the messages of a port's crossing in order, unless the die's array stands still; the credit of each is
returned as it leaves (R44). -/
def Mach.drainRx (m : Mach) (fp : Nat) : Nat → Mach
  | 0 => m
  | n + 1 =>
    let p := m.port fp
    match p.rx with
    | [] => m
    | x :: rest =>
      if m.still (fpDie fp) then m
      else
        let m := (m.setPort fp { p with rx := rest }).message fp x
        (m.trailer fp false (if isAnswer x then 0 else 1) (if isAnswer x then 1 else 0)).drainRx fp n

/-- Flits of received messages. -/
def rxFlits (xs : List TMsg) : Nat := xs.foldl (fun n x => n + flitsOf (wireOn x).length) 0

/-- Messages that arrive at a port in a state in which frames pass, when its crossing has room for them. -/
def Mach.takeMsgs (m : Mach) (fp : Nat) (xs : List TMsg) : Option Mach :=
  let p := m.port fp
  let rx := p.rx ++ xs
  if rxFlits rx > 128 then none else some ((m.setPort fp { p with rx := rx }).drainRx fp rx.length)

/-- A message whose frame is not shown. -/
def Mach.arriveMsg (m : Mach) (fp : Nat) (x : TMsg) : Mach :=
  if m.fpCarries fp && m.fpLanes fp then (m.takeMsgs fp [x]).getD m else m

/-- RD. -/
def execRd (fp : FPort) (x : TMsg) : State → Host.Outcome State Fault Refusal := whenOn fun m => m.arriveMsg fp.val { x with typ := .rd }
/-- WR. -/
def execWr (fp : FPort) (x : TMsg) : State → Host.Outcome State Fault Refusal := whenOn fun m => m.arriveMsg fp.val { x with typ := .wr }
/-- RED of Table 12.5. -/
def execTransportRed (fp : FPort) (x : TMsg) : State → Host.Outcome State Fault Refusal := whenOn fun m => m.arriveMsg fp.val { x with typ := .red }
/-- ATOM of Table 12.5. -/
def execTransportAtom (fp : FPort) (x : TMsg) : State → Host.Outcome State Fault Refusal := whenOn fun m => m.arriveMsg fp.val { x with typ := .atom }
/-- RDATA. -/
def execRdata (fp : FPort) (x : TMsg) : State → Host.Outcome State Fault Refusal := whenOn fun m => m.arriveMsg fp.val { x with typ := .rdata }
/-- ACK. -/
def execAck (fp : FPort) (x : TMsg) : State → Host.Outcome State Fault Refusal := whenOn fun m => m.arriveMsg fp.val { x with typ := .ack }
/-- ADATA. -/
def execAdata (fp : FPort) (x : TMsg) : State → Host.Outcome State Fault Refusal := whenOn fun m => m.arriveMsg fp.val { x with typ := .adata }

/-- The fabric port of a link unit. -/
def fportOf (u : LinkUnit) : Option Nat :=
  (List.range 31).find? fun fp => unitOf fp == (u.die.val, u.port.val, u.unit.val)

/-- A frame at one end of a die link (R325, R327): a frame that fails its CRC is asked for again, and the link has a permanent
fault once the same frame has failed on 16 replays in a row. What die-link frames carry has its own commands. -/
def Mach.dieFrame (m : Mach) (die port : Nat) (x : FrameIn) : Mach :=
  let d := m.dlink die port
  let m := m.count64 (aUnit (farDie die port) (farPort port) 0 Reg.LU_FLIT_TX_CNT) 16
  if !x.crcOk then
    let m := (m.count64 (aUnit die port 0 Reg.LU_CRC_ERR_CNT) 1).setDlink die port { d with fails := d.fails + 1 }
    if d.fails ≥ 16 then m.dieLinkDown die port .replays else m
  else
    let m := m.count64 (aUnit die port 0 Reg.LU_FLIT_RX_CNT) 16
    let m := if x.nak then m.count64 (aUnit die port 0 Reg.LU_REPLAY_CNT) 1 else m
    if x.seq = d.rxSeq then m.setDlink die port { rxSeq := d.rxSeq + 1, fails := 0 } else m

/-- The frames of a port's replay buffer sent again, oldest first. -/
def Mach.resend (m : Mach) (fp : Nat) : Mach :=
  let p := m.port fp
  p.unacked.zipIdx.foldl (fun m x => m.sendFrame fp (p.txSeq - p.unacked.length + x.2) x.1) m

/-- A replay asked for by the partner (R331): the frames from the oldest unacknowledged one are sent again; a frame that has failed on
16 replays in a row costs the port its partner (R350). -/
def Mach.replay (m : Mach) (fp : Nat) : Mach :=
  let p := m.port fp
  if p.replays ≥ 16 then m.portLost fp
  else ((m.setPort fp { p with replays := p.replays + 1 }).count64 (aFp fp Reg.LU_REPLAY_CNT) 1).resend fp

/-- What a good frame's trailer tells a port: frames acknowledged, credits returned, and a replay asked for. -/
def Mach.takeTrailer (m : Mach) (fp : Nat) (x : FrameIn) : Mach :=
  let p := m.port fp
  let m := m.setPort fp { p with
    unacked := p.unacked.drop x.acked
    replays := if x.acked = 0 then p.replays else 0
    credReq := p.credReq + x.credReq
    credAns := p.credAns + x.credAns }
  if x.nak then m.replay fp else m

/-- A frame at a fabric port (R330, R331): one that fails its CRC delivers nothing and is asked for again; the frame that is next in
order is delivered when the crossing has room; one that comes again is acknowledged; any other is left for the replay. -/
def Mach.fabricFrame (m : Mach) (fp : Nat) (x : FrameIn) : Mach :=
  let m := (m.count64 (aFp fp Reg.LU_FEC_CORR_CNT) x.fecCorr).count64 (aFp fp Reg.LU_FEC_UNCORR_CNT) x.fecUncorr
  if !x.crcOk then (m.count64 (aFp fp Reg.LU_CRC_ERR_CNT) 1).trailer fp true 0 0
  else
    let m := (m.count64 (aFp fp Reg.LU_FLIT_RX_CNT) 16).takeTrailer fp x
    let p := m.port fp
    if !m.fpCarries fp then m
    else if x.seq > p.rxSeq then (m.trailer fp true 0 0).pumpAll fp
    else if x.seq < p.rxSeq then (m.trailer fp false 0 0).pumpAll fp
    else match (m.setPort fp { p with rxSeq := p.rxSeq + 1 }).takeMsgs fp x.msgs with
      | none => m.pumpAll fp
      | some m => (m.trailer fp false 0 0).pumpAll fp

/-- A frame at a unit that carries traffic and whose lanes have their clock. -/
def Mach.frameAt (m : Mach) (u : LinkUnit) (x : FrameIn) : Mach :=
  let st := m.luState u.die.val u.port.val u.unit.val
  if (st ≠ 2 ∧ st ≠ 3) ∨ !m.lanesRun u.die.val u.port.val then m
  else match fportOf u with
    | some fp => m.fabricFrame fp x
    | none => if outward u.die.val u.port.val ∨ u.unit.val ≠ 0 then m else m.dieFrame u.die.val u.port.val x

/-- FRAME. -/
def execFrame (u : LinkUnit) (x : FrameIn) : State → Host.Outcome State Fault Refusal := whenOn fun m => m.frameAt u x

/-- TRANSIT_TIMEOUT (R340). -/
def execTransitTimeout (i : Nat) : State → Host.Outcome State Fault Refusal :=
  whenOn fun m => match m.transit[i]? with
    | some t =>
      if !t.tx.own && expired (m.now (fpDie t.port)) t.since 100000 then
        { m.discardAt t.port with transit := m.transit.eraseIdx i }
      else m
    | none => m

/-- ROUTE_LOAD_ACTIVE (R338, R342): a staged load takes effect on every die at once; a device whose ports change and
that has earlier requests outstanding holds new ones back. -/
def Mach.routeActive (m : Mach) : Mach :=
  let st := at_ 0 Reg.FAB_ROUTE_STATUS
  if !m.bit st 1 then m
  else
    let devs := (m.ports.flatMap fun p => p.2.ents.map fun e => e.2.dev).eraseDups
    let old := devs.map fun d => (d, m.routeMask d)
    let m := m.wr (at_ 0 Reg.FAB_DEVICE) (BitVec.ofNat 32 (m.stagedDev + 2 ^ 18))
    let m := (List.range 256).foldl (fun m k => m.wr (at_ 0 (Reg.FAB_MEMBER_ROUTE + 4 * k)) (m.route.get k 0)) m
    let m := (List.range 1024).foldl (fun m k => m.wr (at_ 0 (Reg.FAB_GROUP_ROUTE + 4 * k)) (m.route.get (256 + k) 0)) m
    let m := ((m.setFld st 0 2 1).setFld st 8 8 0).setFld st 16 16 (m.fld st 16 16 + 1)
    let moved := (old.filter fun x => m.routeMask x.1 != x.2).map (·.1)
    let m : Mach := ({ m with rerouted := (m.rerouted ++ moved).eraseDups, route := [] }.sendIdentities).rechoose
    if 7 ≤ m.stage ∧ m.stage ≤ 9 then m.endStage 9 else m

/-- ROUTE_LOAD_ACTIVE. -/
def execRouteLoadActive : State → Host.Outcome State Fault Refusal := whenOn Mach.routeActive

/-! ### Control requests to a fabric port (R352, R353, Table 12.8) -/

/-- A fabric port goes OFF. -/
def Mach.fpOff (m : Mach) (fp : Nat) : Mach := m.fpDown fp 0

/-- A port enters QUIESCING: its queued messages are chosen again and its partner is told. -/
def Mach.fpQuiesce (m : Mach) (fp : Nat) (off : Bool) : Mach :=
  let p := m.port fp
  (((m.setFpState fp 3).setPort fp { p with toOff := off }).emit (.quiesce fp)).unframe fp

/-- `enable`. -/
def Mach.fpEnable (m : Mach) (fp : Nat) : Mach × Status := (if m.fpState fp = 0 then m.putFp fp 1 0 else m, .ok)
/-- `disable`. -/
def Mach.fpDisable (m : Mach) (fp : Nat) : Mach × Status :=
  match m.fpState fp with
  | 0 => (m, .ok)
  | 2 => (m.fpQuiesce fp true, .ok)
  | 3 => let p := m.port fp; (m.setPort fp { p with toOff := true }, .ok)
  | _ => (m.fpOff fp, .ok)
/-- `quiesce`. -/
def Mach.fpQuiesceReq (m : Mach) (fp : Nat) : Mach × Status :=
  match m.fpState fp with
  | 0 => (m, .errGated)
  | 1 => (m, .busyCalibrating)
  | 2 => (m.fpQuiesce fp false, .ok)
  | _ => (m, .ok)
/-- `resume`. -/
def Mach.fpResume (m : Mach) (fp : Nat) : Mach × Status :=
  match m.fpState fp with
  | 0 => (m, .errGated)
  | 1 => (m, .busyCalibrating)
  | 2 => (m, .ok)
  | _ =>
    let p := m.port fp
    ((((m.setFpState fp 2).setPort fp { p with toOff := false }).sendIdentity fp).rechoose, .ok)
/-- `retrain`. -/
def Mach.fpRetrain (m : Mach) (fp : Nat) : Mach × Status :=
  match m.fpState fp with
  | 0 => (m, .errGated)
  | 1 => (m, .busyCalibrating)
  | 4 => (m.fpDown fp 1, .ok)
  | _ => (m, .busyOwned)

/-- A write of `LU_CTRL`: each request whose bit is set, lowest first; `status` holds the last. A die-link unit takes none
(log 47). -/
def Mach.luCtrl (m : Mach) (u : LinkUnit) (v : W32) : Mach × Status :=
  let a := aUnit u.die.val u.port.val u.unit.val Reg.LU_CTRL
  if v.toNat % 32 = 0 then (m, .ok)
  else match fportOf u with
    | none => m.finishCmd a 8 (if outward u.die.val u.port.val then .errDecode else .busyOwned)
    | some fp =>
      let one (i : Nat) (f : Mach → Mach × Status) (x : Mach × Status) : Mach × Status := if v.getLsbD i then f x.1 else x
      let x := one 1 (·.fpDisable fp) (one 0 (·.fpEnable fp) (m, .ok))
      let x := one 3 (·.fpResume fp) (one 2 (·.fpQuiesceReq fp) x)
      let x := one 4 (·.fpRetrain fp) x
      x.1.finishCmd a 8 x.2

/-- A write of `LU_CTRL` by a requester. -/
def Mach.luWrite (m : Mach) (who : Requester) (u : LinkUnit) (v : W32) : Mach :=
  m.regWrite who u.die.val (Reg.LU_CTRL + u.port.val * 0x40000 + u.unit.val * 0x1000) fun m => m.luCtrl u v

/-- LU_ENABLE. -/
def execLuEnable (who : Requester) (u : LinkUnit) : State → Host.Outcome State Fault Refusal := whenOn fun m => m.luWrite who u 1
/-- LU_DISABLE. -/
def execLuDisable (who : Requester) (u : LinkUnit) : State → Host.Outcome State Fault Refusal := whenOn fun m => m.luWrite who u 2
/-- LU_QUIESCE. -/
def execLuQuiesce (who : Requester) (u : LinkUnit) : State → Host.Outcome State Fault Refusal := whenOn fun m => m.luWrite who u 4
/-- LU_RESUME. -/
def execLuResume (who : Requester) (u : LinkUnit) : State → Host.Outcome State Fault Refusal := whenOn fun m => m.luWrite who u 8
/-- LU_RETRAIN. -/
def execLuRetrain (who : Requester) (u : LinkUnit) : State → Host.Outcome State Fault Refusal := whenOn fun m => m.luWrite who u 16

/-- QUIESCED (R353): every frame sent is acknowledged, and none is arriving. -/
def execQuiesced (fp : FPort) : State → Host.Outcome State Fault Refusal :=
  whenOn fun m =>
    let p := m.port fp.val
    if m.fpState fp.val ≠ 3 ∨ p.unacked ≠ [] ∨ p.rx ≠ [] then m
    else if p.toOff then m.fpOff fp.val
    else (m.setFpState fp.val 4).dropNeigh fp.val

/-! ### Roles, reservations and counters (R346, R357, R358) -/

/-- The unit of an edge port that a group belongs to. -/
def roleGroup (v g : Nat) : Nat := v / 4 ^ g % 4

/-- A write of `LR_ROLE` (R357). -/
def Mach.roleWrite (m : Mach) (die port : Nat) (v : W32) : Mach × Status :=
  let a := at_ die (Reg.LR_ROLE + 4 * port)
  let old := (m.rd a).toNat
  let new := v.toNat % 2 ^ 14
  let changed := (List.range 7).filter fun g => roleGroup old g != roleGroup new g
  let bad := changed.any fun g => !outward die port || decide (g ≥ 4) || isHostUnit die port (g / 2) ||
    !(roleGroup new g == 0 || roleGroup new g == 2) || roleGroup new (g / 2 * 2) != roleGroup new (g / 2 * 2 + 1)
  let busy := changed.any fun g => m.luState die port (g / 2) != 0
  if bad then (m, .errDecode)
  else if busy then (m, .busyOwned)
  else
    let m := m.setFld a 0 14 new
    ([0, 1].foldl (fun m u => if changed.any (fun g => g / 2 == u) then
      m.setFld (aUnit die port u Reg.LU_STATE) 5 2 (roleGroup new (2 * u)) else m) m, .ok)

/-- LR_ROLE_WRITE. -/
def execLrRoleWrite (who : Requester) (die : Die) (port : Port) (v : W32) : State → Host.Outcome State Fault Refusal :=
  whenOn fun m => m.regWrite who die.val (Reg.LR_ROLE + 4 * port.val) fun m => m.roleWrite die.val port.val v

/-- A write of `LU_CREDIT_RES` (R346). -/
def Mach.creditRes (m : Mach) (fp p : Nat) (v : W32) : Mach × Status :=
  let a (i : Nat) : Nat := aFp fp Reg.LU_CREDIT_RES + 4 * i
  let n := bitsOf v.toNat 0 11
  let total := ((List.range 32).map fun i => if i = p then n else m.fld (a i) 0 11).foldl (· + ·) 0
  if total > 1536 then (m, .refusedNoCredit) else (m.setFld (a p) 0 11 n, .ok)

/-- LU_CREDIT_RES_WRITE. -/
def execLuCreditResWrite (who : Requester) (fp : FPort) (p : Part) (v : W32) : State → Host.Outcome State Fault Refusal :=
  whenOn fun m =>
    let u := unitOf fp.val
    m.regWrite who u.1 (Reg.LU_CREDIT_RES + u.2.1 * 0x40000 + u.2.2 * 0x1000 + 4 * p.val) fun m => m.creditRes fp.val p.val v

/-- A write of `EP_CNT_CLEAR` (R358): the counters of the units of an edge port. -/
def Mach.epClear (m : Mach) (die port : Nat) (v : W32) : Mach × Status :=
  (if v.getLsbD 0 then
    (if outward die port then [0, 1] else [0]).foldl (fun m u =>
      let m := m.clearWords (aUnit die port u Reg.LU_FLIT_TX_CNT) 14
      if outward die port && !isHostUnit die port u then m.clearWords (aUnit die port u Reg.LU_DISCARD_CNT) 4 else m) m
  else m, .ok)

/-- EP_CNT_CLEAR. -/
def execEpCntClear (who : Requester) (die : Die) (port : Port) (v : W32) : State → Host.Outcome State Fault Refusal :=
  whenOn fun m => m.regWrite who die.val (Reg.EP_CNT_CLEAR + port.val * 0x40000) fun m => m.epClear die.val port.val v

end Sys2Proof.Machine
end

