-- ==== Sys2Proof/Machine/Queue.lean ====
section
/-! DEFINITION. The command queues (R368 to R385): doorbells, the beginning of descriptors, copies, fences, semaphores,
cache packets (R255, R256), and completion records. -/
namespace Sys2Proof.Machine

/-! ### Queue registers -/

/-- The partition of a queue (R368). -/
def qPart (q : Nat) : Nat := q / 64
/-- A queue is enabled. -/
def Mach.qEnabled (m : Mach) (q : Nat) : Bool := m.bit (aQ q Reg.Q_CFG) 5
/-- The slots of a queue's rings. -/
def Mach.qSlots (m : Mach) (q : Nat) : Nat := 2 ^ m.fld (aQ q Reg.Q_CFG) 0 5
/-- An address in the companion window. -/
def inCmpWindow (a : Nat) : Bool := 0x380000000000 ≤ a && a < 0x3C0000000000
/-- An address that an interrupt or notice register accepts: 0, or one in the companion window (R373, R509, R528). -/
def noticeAddr (x : W64) : Bool := x == 0 || inCmpWindow x.toNat

/-- The status of a doorbell: the first row of R371 that holds. -/
def Mach.doorbellStatus (m : Mach) (q : Nat) (v : W32) : Status :=
  let p := qPart q
  let k := (v - m.rd (aQ q Reg.Q_TAIL)).toNat
  if !m.qEnabled q ∨ k > m.qSlots q then .errDecode
  else if m.failedDegraded ∨ m.pdState ≠ 0 then .errGated
  else if m.partState p = pRESETTING ∨ m.partState p = pREMOVING then .busyResetting
  else if (v - m.rd (aQ q Reg.Q_CQ_HEAD)).toNat > m.qSlots q then .refusedQueueFull
  else if m.fld (aPart p Reg.PART_RATE) 0 16 ≠ 0 ∧ k > (m.rd (aPart p Reg.PART_TOKENS)).toNat then .refusedRateLimit
  else .ok

/-- Descriptors admitted to a queue: `tail` takes the new value, and the partition's bucket gives a token for each, but
for a rate of 0 (R371, R402). -/
def Mach.takeIn (m : Mach) (q : Nat) (v : W32) : Mach :=
  let p := qPart q
  let k := (v - m.rd (aQ q Reg.Q_TAIL)).toNat
  let a := aPart p Reg.PART_TOKENS
  let x := m.queue q
  let fb := m.bit (aPart p Reg.PART_CFG) 8
  let ads := (List.range k).map fun i => (⟨m.admitted + i, m.now 0, fb⟩ : Admit)
  let m : Mach := { (m.setQueue q { x with arrived := x.arrived ++ ads }) with admitted := m.admitted + k }
  let m := if m.fld (aPart p Reg.PART_RATE) 0 16 = 0 then m else m.wr a (m.rd a - BitVec.ofNat 32 k)
  m.wr (aQ q Reg.Q_TAIL) v

/-- A write of `Q_DOORBELL` (R371). -/
def Mach.doorbell (m : Mach) (q : Nat) (v : W32) : Mach × Status :=
  let st := m.doorbellStatus q v
  let m := if st = .ok then m.takeIn q v else m.countFld (aQ q Reg.Q_ADMIT_REFUSED_CNT) 0 32 1
  (m.setFld (aQ q Reg.Q_STATUS) 0 8 st.code.toNat, st)

/-- DOORBELL. -/
def execDoorbell (q : Queue) (tail : W32) : State → Host.Outcome State Fault Refusal :=
  whenOn fun m => m.regWrite .driver 0 (aQ q.val Reg.Q_DOORBELL) fun m => m.doorbell q.val tail

/-- A write of `Q_CQ_HEAD` (R370). -/
def Mach.cqHeadWrite (m : Mach) (q : Nat) (v : W32) : Mach × Status :=
  let h := m.rd (aQ q Reg.Q_CQ_HEAD)
  if (v - h).toNat ≤ (m.rd (aQ q Reg.Q_CQ_TAIL) - h).toNat then (m.wr (aQ q Reg.Q_CQ_HEAD) v, .ok) else (m, .errDecode)

/-- Q_CQ_HEAD_WRITE. -/
def execQCqHeadWrite (q : Queue) (v : W32) : State → Host.Outcome State Fault Refusal :=
  whenOn fun m => m.regWrite .driver 0 (aQ q.val Reg.Q_CQ_HEAD) fun m => m.cqHeadWrite q.val v

/-- Every admitted descriptor of a queue that has not begun is to complete with a status (R375). -/
def Mach.abortQueue (m : Mach) (q : Nat) (st : Status) : Mach :=
  let x := m.queue q
  m.setQueue q { x with abort := if x.arrived.isEmpty then none else some (x.arrived.length, st), waitedRoom := false }

/-- A write of `Q_CFG` (R375, R385, Table 13.6). -/
def Mach.qCfg (m : Mach) (q : Nat) (v : W32) : Mach × Status :=
  let a := aQ q Reg.Q_CFG
  let l := bitsOf v.toNat 0 5
  let en := v.getLsbD 5
  let old := m.qEnabled q
  let bad (r : Nat) : Bool := (m.rd64 (aQ q r)).toNat % 4096 != 0
  if en ∧ (bad Reg.Q_BASE ∨ bad Reg.Q_CQ_BASE ∨ l < 4 ∨ l > 16) then (m, .errDecode)
  else if old ∧ l ≠ m.fld a 0 5 then (m, .busyOwned)
  else
    let m := (m.setFld a 0 5 l).setBit a 5 en
    let m := if en && !old then m.setBit (aQ q Reg.Q_STATUS) 10 false else m
    (if old && !en then m.abortQueue q .abortSquashed else m, .ok)

/-- Q_CFG_WRITE. -/
def execQCfgWrite (q : Queue) (v : W32) : State → Host.Outcome State Fault Refusal :=
  whenOn fun m => m.regWrite .driver 0 (aQ q.val Reg.Q_CFG) fun m => m.qCfg q.val v

/-- A write of a ring's base (R385): refused while the queue is enabled. -/
def Mach.qBase (m : Mach) (q off : Nat) (x : WideAcc) : Mach × Status :=
  if m.qEnabled q then (m, .busyOwned) else (m.wideWrite (aQ q off) x, .ok)

/-- A write of an address register that takes only 0 or an address in the companion window (R373, R509, R528). -/
def Mach.noticeWrite (m : Mach) (a : Nat) (x : WideAcc) : Mach × Status :=
  if noticeAddr (wideValue (m.rd64 a) x) then (m.wideWrite a x, .ok) else (m, .errDecode)

/-- Q_IRQ_ADDR_WRITE. -/
def execQIrqAddrWrite (q : Queue) (x : WideAcc) : State → Host.Outcome State Fault Refusal :=
  whenOn fun m => m.wideReg .driver 0 (aQ q.val Reg.Q_IRQ_ADDR) x fun m => m.noticeWrite (aQ q.val Reg.Q_IRQ_ADDR) x

/-! ### The beginning of a descriptor -/

/-- Bytes from `lo` up to `hi` of a descriptor are zero. -/
def zeroIn (d : List Byte) (lo hi : Nat) : Bool := ((d.drop lo).take (hi - lo)).all (· == 0)

/-- A header whose kind is reserved or whose res0 bits are set (R376). -/
def headerBad (d : List Byte) : Bool :=
  let k := descF d 0 1
  k == 0 || decide (k > 6) || descF d 1 1 / 4 != 0 || descF d 2 2 != 0

/-- Flags of a header. -/
def descSerial (d : List Byte) : Bool := descF d 1 1 % 2 == 1
def descIrq (d : List Byte) : Bool := descF d 1 1 / 2 % 2 == 1

/-- A queue may begin its next descriptor (R372, R375, R381, R391, R329). -/
def Mach.mayBegin (m : Mach) (q : Nat) : Bool :=
  let x := m.queue q
  m.qEnabled q && !m.bit (aQ q Reg.Q_STATUS) 10 && m.partState (qPart q) == pACTIVE && !m.failedDegraded &&
    x.abort.isNone && !x.arrived.isEmpty && x.semFrom.isNone && x.semKept.isNone

/-- The clusters a partition owns, in order. -/
def Mach.ownClusters (m : Mach) (p : Nat) : List Nat := (List.range 576).filter fun c => m.clusterOwner c == some p
/-- The mover's descriptor of a copy. -/
def copyDesc (d : List Byte) : List Byte := (d.drop 8).take 82 ++ List.replicate 46 0
/-- A copy whose fields are refused (R377). -/
def copyBad (d : List Byte) : Bool :=
  !zeroIn d 90 128 || !descOk (copyDesc d) || descSrcSpace (copyDesc d) != 0 || descDstSpace (copyDesc d) != 0
/-- A cluster of a partition whose mover has room. -/
def Mach.moverRoom (m : Mach) (p : Nat) : Option Nat := (m.ownClusters p).find? fun c => m.moverBusy c < 64

/-- A queue waits for its turn to begin a descriptor that nothing else holds back (R372, R403): the engine has read it; a launch
has not found its clusters taken, a copy finds a mover with room, a cache packet none under way (log 48), and no walk for the
descriptor goes on. -/
def Mach.queueReady (m : Mach) (q : Nat) : Bool :=
  let x := m.queue q
  let walks : Bool := match x.eng.get? engCheck with
    | some (.tr (.more _)) => true
    | _ => false
  m.mayBegin q && !walks && (match x.next with
    | none => false
    | some (st, d) =>
      st != .ok || headerBad d || ((!descSerial d || x.jobs.isEmpty) && (match descF d 0 1 with
        | 1 => x.waitLaunch.isNone
        | 2 => copyBad d || (m.moverRoom (qPart q)).isSome
        | 3 => (m.rangeOf? q).isNone
        | _ => true)))

/-- The partition whose queue begins a descriptor next, and the turns after it (R403). -/
def Mach.queueNext (m : Mach) : Option (Nat × Drr) :=
  m.drrPick m.queueDrr ((m.queues.filter fun x => m.queueReady x.1).map fun x => qPart x.1)

/-- A queue has the turn, or waits for none. -/
def Mach.queueTurn (m : Mach) (q : Nat) : Bool := !m.queueReady q || (m.queueNext.map (·.1)) == some (qPart q)

/-- The next descriptor of a queue begins, or completes without beginning: `head` counts it (R369), and its partition's turn is
used (R403). -/
def Mach.takeHead (m : Mach) (q : Nat) (desc : List Byte) : Mach × Job :=
  let drr := if m.queueReady q then (m.queueNext.map (·.2)).getD m.queueDrr else m.queueDrr
  let x := m.queue q
  let a := aQ q Reg.Q_HEAD
  let adm := x.arrived.headD ⟨0, 0, false⟩
  let j : Job := { seq := (m.rd a).toNat, desc := desc, adm := adm, waited := m.now 0 - adm.time, waitedRoom := x.waitedRoom }
  let x := { x with arrived := x.arrived.tail, waitedRoom := false, waitLaunch := none, next := none, eng := x.eng.del engCheck }
  (({ m with queueDrr := drr }.setQueue q x).count32 a, j)

/-- A job that runs. -/
def Mach.addJob (m : Mach) (q : Nat) (j : Job) : Mach :=
  let x := m.queue q
  m.setQueue q { x with jobs := x.jobs ++ [j] }

/-- A descriptor that begins and completes at once. -/
def Mach.beginEnd (m : Mach) (q : Nat) (desc : List Byte) (st : Status) : Mach :=
  let (m, j) := m.takeHead q desc
  (m.addJob q j).endJob q j.seq st

/-- The address of a slot of the descriptor ring, or of the record ring. -/
def Mach.slotAddr (m : Mach) (q base size count : Nat) : Nat := (m.rd64 (aQ q base)).toNat + size * (count % m.qSlots q)

/-- The next descriptor of a queue, which the engine reads once (R374): `none` while it waits. -/
def Mach.readHead (m : Mach) (q : Nat) : Mach × Option (Status × List Byte) :=
  match (m.queue q).next with
  | some x => (m, some x)
  | none => match m.engReadAt q engDesc (qPart q) (m.slotAddr q Reg.Q_BASE 128 (m.rd (aQ q Reg.Q_HEAD)).toNat) 128 with
    | (m, .wait) => (m, none)
    | (m, .done st d) => (m.setQueue q { m.queue q with next := some (st, d) }, some (st, d))

/-- The next descriptor of a queue, when a kind of command may begin it and the queue has the turn: `f` begins it, or leaves it. A
descriptor that cannot be read or whose header is bad completes with its status whichever command finds it (R374, R376). -/
def Mach.beginDesc (m : Mach) (q kind : Nat) (f : Mach → List Byte → Mach) : Mach :=
  if !m.mayBegin q then m
  else match m.readHead q with
    | (m, none) => m
    | (m, some (st, d)) =>
      if !m.queueTurn q then m
      else if st ≠ .ok then m.beginEnd q [] st
      else if descSerial d ∧ !(m.queue q).jobs.isEmpty then m
      else if headerBad d then m.beginEnd q d .errDecode
      else if descF d 0 1 ≠ kind then m
      else f m d

/-- A descriptor that waits for clusters or mover slots (R399, Table 14.6). -/
def Mach.waitRoom (m : Mach) (q : Nat) : Mach :=
  let x := m.queue q
  m.setQueue q { x with waitedRoom := true }

/-! ### Copies (R377) -/

/-- A copy begins on the mover of a cluster of the partition with room in its queue; with none it waits. -/
def Mach.beginCopy (m : Mach) (q : Nat) (d : List Byte) : Mach :=
  let p := qPart q
  if copyBad d then m.beginEnd q d .errDecode
  else match m.moverRoom p with
    | none => m.waitRoom q
    | some cl =>
      let (m, j) := m.takeHead q d
      let c := m.cluster cl
      let x : Transfer :=
        { slot := slotOfIndex cl 0, group := 0, ticket := c.ticket, desc := copyDesc d, part := p, queue := some (q, j.seq) }
      (m.setCluster cl { c with mover := c.mover ++ [x], ticket := c.ticket + 1 }).addJob q j

/-- COPY. -/
def execCopy (q : Queue) : State → Host.Outcome State Fault Refusal :=
  whenOn fun m => m.beginDesc q.val 2 fun m d => m.beginCopy q.val d

/-! ### Fences (R378) -/

/-- A fence body that completes with ERR_DECODE (Table 13.3). -/
def fenceBad (d : List Byte) : Bool :=
  let opts := descF d 9 1
  !(descF d 8 1 == 4 || descF d 8 1 == 5) || opts / 4 != 0 || !zeroIn d 10 16 || !zeroIn d 32 128 ||
    (opts / 2 % 2 == 1 && descF d 16 8 % 8 != 0)

/-- Every descriptor of a queue admitted before a number has completed. -/
def Mach.doneBefore (m : Mach) (q num : Nat) : Bool :=
  let x := m.queue q
  x.jobs.all (fun j => decide (j.adm.num ≥ num)) && x.arrived.all fun a => decide (a.num ≥ num)

/-- Everything that a fence waits for has completed. -/
def Mach.fenceReady (m : Mach) (q : Nat) (j : Job) : Bool :=
  let x := m.queue q
  let p := qPart q
  (x.jobs.takeWhile fun k => k.seq != j.seq).isEmpty &&
    (descF j.desc 9 1 % 2 == 0 || (List.range 64).all fun i => 64 * p + i == q || m.doneBefore (64 * p + i) j.adm.num)

/-- A fence of a queue that is ready makes its write and completes. -/
def Mach.tryFence (m : Mach) (q : Nat) : Mach :=
  match (m.queue q).jobs with
  | [] => m
  | j :: _ =>
    if j.kind ≠ 4 ∨ !m.fenceReady q j then m
    else if descF j.desc 9 1 / 2 % 2 = 0 then m.endJob q j.seq .ok
    else match m.engWriteAt q (engFence + j.seq) (qPart q) (descF j.desc 16 8) ((j.desc.drop 24).take 8) with
      | (m, .wait) => m
      | (m, .done st _) => m.endJob q j.seq st

/-- A fence begins. -/
def Mach.beginFence (m : Mach) (q : Nat) (d : List Byte) : Mach :=
  if fenceBad d then m.beginEnd q d .errDecode
  else let (m, j) := m.takeHead q d; (m.addJob q j).tryFence q

/-- A fence of a queue that may complete. -/
def Mach.fenceDue (m : Mach) (q : Nat) : Bool :=
  match (m.queue q).jobs with
  | j :: _ => j.kind == 4 && m.fenceReady q j
  | [] => false

/-- FENCE_DESCRIPTOR: the queue's oldest fence completes when it may; otherwise the next descriptor begins. -/
def execFenceDescriptor (q : Queue) : State → Host.Outcome State Fault Refusal :=
  whenOn fun m => if m.fenceDue q.val then m.tryFence q.val else m.beginDesc q.val 4 fun m d => m.beginFence q.val d

/-! ### Semaphores (R380 to R382) -/

/-- A semaphore's value and owner. -/
def aSemV (i : Nat) : Nat := Reg.Q_SEM_VALUE + 8 * i
def aSemO (i : Nat) : Nat := Reg.Q_SEM_OWNER + 8 * i
/-- The queue that owns a semaphore. -/
def Mach.semOwner (m : Mach) (i : Nat) : Option Nat :=
  if m.bit (aSemO i) 6 then some (64 * (i / 64) + m.fld (aSemO i) 0 6) else none
/-- A semaphore's owner set or cleared. -/
def Mach.setSemOwner (m : Mach) (i : Nat) (q : Option Nat) : Mach :=
  match q with
  | some q => m.wr (aSemO i) (BitVec.ofNat 32 (q % 64 + 64))
  | none => m.wr (aSemO i) 0

/-- A launch of the queue is pre-empted (R382, R411). -/
def Mach.preempted (m : Mach) (q : Nat) : Bool :=
  m.launches.any fun x => x.2.queue == q && (x.2.stat == .saving || x.2.stat == .suspended || x.2.stat == .restoring)
/-- A semaphore is held by a suspended job. -/
def Mach.semHeld (m : Mach) (i : Nat) : Bool :=
  match m.semOwner i with
  | some q => m.preempted q
  | none => false

/-- Fields of a semaphore body (Table 13.4). -/
def semOp (d : List Byte) : Nat := descF d 8 1
def semN (d : List Byte) : Nat := descF d 12 4
def semTimeout (d : List Byte) : Nat := descF d 16 4
/-- The semaphore a descriptor names, of the queue's partition. -/
def semOf (q : Nat) (d : List Byte) : Nat := 64 * qPart q + descF d 9 1 % 64
/-- A semaphore body that completes with ERR_DECODE. -/
def semBad (d : List Byte) : Bool :=
  decide (semOp d > 2) || descF d 9 1 / 64 != 0 || !zeroIn d 10 12 || !zeroIn d 20 128

/-- The ACQUIRE that a queue waits in: the last descriptor it began. -/
def Mach.waitingAcq (m : Mach) (q : Nat) : Option Job :=
  let x := m.queue q
  if x.semFrom.isSome || x.semKept.isSome then x.jobs.find? fun j => j.kind == 6 else none

/-- A waiting ACQUIRE ends with a status. -/
def Mach.endAcq (m : Mach) (q : Nat) (st : Status) : Mach :=
  match m.waitingAcq q with
  | none => m
  | some j =>
    let m := m.endJob q j.seq st
    let x := m.queue q
    let m := m.setQueue q { x with semFrom := none, semKept := none }
    { m with semWait := m.semWait.mapV fun l => l.filter (· != q) }

/-- The oldest waiters of a semaphore served in order while they fit (R381). -/
def Mach.semServe (m : Mach) (i : Nat) : List Nat → Mach
  | [] => m
  | q :: t =>
    match m.waitingAcq q with
    | none => m.semServe i t
    | some j =>
      let v := (m.rd (aSemV i)).toNat
      let n := semN j.desc
      if n ≤ v then (((m.wr (aSemV i) (BitVec.ofNat 32 (v - n))).setSemOwner i (some q)).endAcq q .ok).semServe i t else m

/-- Waiting ACQUIREs of a semaphore that has become held end (R382). -/
def Mach.semSweep (m : Mach) (i : Nat) : Mach :=
  if m.semHeld i then (m.semWait.get i []).foldl (fun m q => m.endAcq q .heldBySuspended) m else m

/-- After a change of a semaphore's value (R381, R382). -/
def Mach.semChanged (m : Mach) (i : Nat) : Mach := (m.semServe i (m.semWait.get i [])).semSweep i

/-- ACQUIRE begins (R381, R382). -/
def Mach.beginAcquire (m : Mach) (q i : Nat) (j : Job) : Mach :=
  let v := (m.rd (aSemV i)).toNat
  let n := semN j.desc
  let ws := m.semWait.get i []
  if n ≤ v ∧ ws.isEmpty then
    (((m.wr (aSemV i) (BitVec.ofNat 32 (v - n))).setSemOwner i (some q)).endJob q j.seq .ok).semSweep i
  else if m.semHeld i then m.endJob q j.seq .heldBySuspended
  else
    let x := m.queue q
    { (m.setQueue q { x with semFrom := some (m.now 0) }) with semWait := m.semWait.put i (ws ++ [q]) }

/-- RELEASE begins. -/
def Mach.beginRelease (m : Mach) (q i : Nat) (j : Job) : Mach :=
  let m := m.countFld (aSemV i) 0 32 (semN j.desc)
  let m := if m.semOwner i = some q then m.setSemOwner i none else m
  (m.endJob q j.seq .ok).semChanged i

/-- SET begins. -/
def Mach.beginSet (m : Mach) (q i : Nat) (j : Job) : Mach :=
  (((m.wr (aSemV i) (BitVec.ofNat 32 (semN j.desc))).setSemOwner i none).endJob q j.seq .ok).semChanged i

/-- A semaphore descriptor of an operation begins. -/
def Mach.beginSem (m : Mach) (q op : Nat) (f : Mach → Nat → Nat → Job → Mach) : Mach :=
  m.beginDesc q 6 fun m d =>
    if semBad d then m.beginEnd q d .errDecode
    else if semOp d ≠ op then m
    else let (m, j) := m.takeHead q d; f (m.addJob q j) q (semOf q d) j

/-- ACQUIRE. -/
def execAcquire (q : Queue) : State → Host.Outcome State Fault Refusal :=
  whenOn fun m => m.beginSem q.val 0 Mach.beginAcquire
/-- RELEASE. -/
def execRelease (q : Queue) : State → Host.Outcome State Fault Refusal :=
  whenOn fun m => m.beginSem q.val 1 Mach.beginRelease
/-- SET. -/
def execSet (q : Queue) : State → Host.Outcome State Fault Refusal := whenOn fun m => m.beginSem q.val 2 Mach.beginSet

/-- The timeout of a waiting ACQUIRE has passed (R382). -/
def Mach.acqTimeout (m : Mach) (q : Nat) : Mach :=
  match m.waitingAcq q, (m.queue q).semFrom with
  | some j, some v =>
    if semTimeout j.desc ≠ 0 ∧ expired (m.now 0) v (semTimeout j.desc) then m.endAcq q .errTimeout else m
  | _, _ => m

/-- ACQUIRE_TIMEOUT. -/
def execAcquireTimeout (q : Queue) : State → Host.Outcome State Fault Refusal := whenOn fun m => m.acqTimeout q.val

/-! ### Cache packets (R255, R256) -/

/-- A cache packet that R256 refuses for its fields. -/
def packetBad (d : List Byte) : Bool :=
  descF d 8 8 % 128 != 0 || descF d 16 8 == 0 || descF d 16 8 % 128 != 0 || decide (descF d 24 1 > 4) || descF d 25 1 != 0 ||
    (descF d 26 2 != 0 && descF d 24 1 != 0) || descF d 28 4 != 0 || descF d 32 8 % 32 != 0 || !zeroIn d 40 128

/-- The report's address translates to writable memory of the partition (R256): `none` while a walk waits. -/
def Mach.reportOk (m : Mach) (q p va : Nat) : Mach × Option Bool :=
  if va / 2 ^ 57 ≠ 0 then (m, some false)
  else match m.engWalk q engCheck p va with
    | (m, none) => (m, none)
    | (m, some (.leaf frame size perm)) =>
      let there : Bool := match m.reach p (frame + va % size) with
        | .inl _ => true
        | .inr _ => false
      (m, some (perm / 2 % 2 == 1 && there))
    | (m, some _) => (m, some false)

/-- A cache packet begins, or is refused. -/
def Mach.beginPacket (m : Mach) (q : Nat) (d : List Byte) : Mach :=
  if packetBad d then m.beginEnd q d .errDecode
  else match m.reportOk q (qPart q) (descF d 32 8) with
    | (m, none) => m
    | (m, some false) => m.beginEnd q d .errDecode
    | (m, some true) =>
      let (m, j) := m.takeHead q d
      let m := m.addJob q j
      { m with ranges := m.ranges ++ [{ q := q, seq := j.seq, op := descF d 24 1, part := qPart q, cur := descF d 8 8,
                                        stop := descF d 8 8 + descF d 16 8, report := descF d 32 8, dies := descF d 26 2 }] }

/-- A cache packet of an operation that is a queue's next descriptor; a queue has one under way at a time (log 48). -/
def Mach.packet (m : Mach) (q op : Nat) : Mach :=
  m.beginDesc q 3 fun m d =>
    if descF d 24 1 ≤ 4 ∧ descF d 24 1 ≠ op then m
    else if (m.rangeOf? q).isSome then m
    else m.beginPacket q d

/-- PREFETCH. -/
def execPrefetch (q : Queue) : State → Host.Outcome State Fault Refusal := whenOn fun m => m.packet q.val 0
/-- FLUSH. -/
def execFlush (q : Queue) : State → Host.Outcome State Fault Refusal := whenOn fun m => m.packet q.val 1
/-- INVALIDATE. -/
def execInvalidate (q : Queue) : State → Host.Outcome State Fault Refusal := whenOn fun m => m.packet q.val 2
/-- PIN. -/
def execPin (q : Queue) : State → Host.Outcome State Fault Refusal := whenOn fun m => m.packet q.val 3
/-- UNPIN. -/
def execUnpin (q : Queue) : State → Host.Outcome State Fault Refusal := whenOn fun m => m.packet q.val 4

/-! ### Completion records (R373, R374, R383, R384) -/

/-- The status with which a queue's next descriptor that has not begun completes (R329, R375). -/
def Mach.abortStatus (m : Mach) (q : Nat) : Option Status :=
  let x := m.queue q
  if x.arrived.isEmpty then none
  else match x.abort with
    | some a => some a.2
    | none => if m.failedDegraded then some .errGated else none

/-- One fewer descriptor to abort. -/
def QueueSt.abortOne (x : QueueSt) : QueueSt :=
  { x with abort := match x.abort with
      | some (n, st) => if n ≤ 1 then none else some (n - 1, st)
      | none => none }

/-- The next descriptor that is aborted completes without beginning; a header that cannot be read gives no tag. -/
def Mach.abortNext (m : Mach) (q : Nat) (st : Status) : Mach :=
  match m.readHead q with
  | (m, none) => m
  | (m, some (r, d)) =>
    let (m, j) := m.takeHead q (if r = .ok then d else [])
    let m := (m.addJob q j).endJob q j.seq st
    m.setQueue q (m.queue q).abortOne

/-- The flags of a record. -/
def Job.flags (j : Job) : Nat :=
  (if j.waitedRoom then 1 else 0) + (if j.slowed then 2 else 0) + (if j.preempts ≠ 0 then 4 else 0)

/-- A record's bytes (Table 13.5); OK with a delay flag is DELAYED (R384). -/
def Job.record (j : Job) : List Byte :=
  let st := if j.status = .ok ∧ (j.waitedRoom ∨ j.slowed) then Status.delayed else j.status
  bytesOf (descF j.desc 4 4) 4 ++ [st.code, BitVec.ofNat 8 j.flags] ++ bytesOf j.seq 2 ++ bytesOf j.steps 8 ++
    bytesOf (if j.adm.fallback then j.waited else 0) 8 ++
    bytesOf (if j.adm.fallback then min j.preempts 65535 else 0) 2 ++ bytesOf 0 6

/-- A job whose record stands: counts and accounting, and the interrupt that its header asks for (R369, R373, R405). -/
def Mach.recorded (m : Mach) (q : Nat) (j : Job) : Mach :=
  let p := qPart q
  let m := (m.count32 (aQ q Reg.Q_CQ_TAIL)).count32 (aQ q Reg.Q_JOB_CNT)
  let m := if j.adm.fallback then
      (m.count64 (aPart p Reg.PART_ACCT_WAIT) j.waited).countFld (aPart p Reg.PART_ACCT_PREEMPT) 0 32 j.preempts else m
  let a := (m.rd64 (aQ q Reg.Q_IRQ_ADDR)).toNat
  if descIrq j.desc ∧ a ≠ 0 then m.notify false q a (bytesOf (m.rd (aQ q Reg.Q_IRQ_DATA)).toNat 4) else m

/-- The record of the job that ended first is written; when it cannot be, the queue stops (R374). -/
def Mach.writeRecord (m : Mach) (q : Nat) (j : Job) : Mach :=
  let addr := m.slotAddr q Reg.Q_CQ_BASE 32 j.seq
  match m.engWriteAt q engRecord (qPart q) addr j.record with
  | (m, .wait) => m
  | (m, .done st _) =>
    let x := m.queue q
    let m := m.setQueue q { x with ended := x.ended.tail }
    if st.failed then
      (m.setBit (aQ q Reg.Q_STATUS) 10 true).logFault 0 0x08 st 1 (m.sable (qPart q)) q addr j.seq
    else m.recorded q j

/-- COMPLETION_RECORD: the record of the job that ended first; with none, the next aborted descriptor completes. -/
def execCompletionRecord (q : Queue) : State → Host.Outcome State Fault Refusal :=
  whenOn fun m => match (m.queue q.val).ended with
    | j :: _ => m.writeRecord q.val j
    | [] => match m.abortStatus q.val with
      | some st =>
        let m := m.abortNext q.val st
        (match (m.queue q.val).ended with
         | j :: _ => m.writeRecord q.val j
         | [] => m)
      | none => m

end Sys2Proof.Machine
end

