-- ==== Sys2Proof/Machine/Launch.lean ====
section
/-! DEFINITION. Launches (R54 to R62, R80, R81): their checks, the clusters they receive (R398 to R401), block-clusters and
their slots (R57 to R63), halting and ending, and the saving and restoring of a pre-empted launch (R407 to R413). -/
namespace Sys2Proof.Machine

/-! ### The descriptor -/

/-- A launch descriptor that is refused (R55). -/
def launchBad (d : List Byte) : Bool :=
  let f (o n : Nat) : Nat := descF d o n
  f 8 8 % 8 != 0 || f 24 2 == 0 || f 26 2 == 0 || f 28 2 == 0 || decide (f 32 1 % 16 > 8) || decide (f 33 1 % 32 > 16) ||
    decide ((f 31 1 % 8 + 1) * (f 33 1 % 32) > 16) || f 30 1 / 8 % 2 != 0 || f 30 1 / 128 != 0 || f 31 1 / 8 != 0 ||
    f 32 1 / 16 != 0 || f 33 1 / 32 != 0 || f 34 2 / 2 != 0 || !zeroIn d 112 128

/-- Slots of a cluster for a launch (R58). -/
def Launch.perCluster (y : Launch) : Nat := 8 / y.bcX * (8 / y.bcY)
/-- Clusters that hold a whole grid (R400). -/
def Launch.wanted (y : Launch) : Nat := (y.total + y.perCluster - 1) / y.perCluster

/-- A launch that has block-clusters left to hand out. -/
def Launch.dispatching (y : Launch) : Bool := y.stat == .running && !y.halted && decide (y.next < y.total)
/-- A launch that gains further clusters (R400). -/
def Launch.gaining (y : Launch) : Bool := y.dispatching && decide (y.clusters.length < y.wanted)
/-- A launch whose block-clusters are all handed out, or that has been halted. -/
def Launch.handedOut (y : Launch) : Bool := y.halted || decide (y.next ≥ y.total)

/-! ### Clusters and their order (R398, R399, R401) -/

/-- The priority of a queue, and the dies it may use. -/
def Mach.prio (m : Mach) (q : Nat) : Nat := m.fld (aSched q Reg.SCHED_QCFG) 0 3
def Mach.diesOk (m : Mach) (q cl : Nat) : Bool :=
  let d := m.fld (aSched q Reg.SCHED_QCFG) 16 16
  d == 0 || d / 2 ^ (cl / 36) % 2 == 1

/-- A cluster that holds no launch, and is not under self-test. -/
def Mach.clusterFree (m : Mach) (cl : Nat) : Bool :=
  (m.cluster cl).launch.isNone && (m.dieSt (cl / 36)).bist != some (cl % 36)
/-- The `busy` bit of a cluster's owner register (Table 14.13, R501). -/
def Mach.clusterBusy (m : Mach) (cl : Nat) : Bool := !m.clusterFree cl

/-- A cluster that a launch of a queue may use (R398). -/
def Mach.eligible (m : Mach) (q cl : Nat) : Bool :=
  m.clusterOwner cl == some (qPart q) && m.diesOk q cl && m.clusterFree cl

/-- Who asks for a cluster (R401): a running launch, a suspended one, or the launch that waits in a queue. -/
inductive Asker where
  | run (l : Nat)
  | restore (l : Nat)
  | wait (q : Nat)
deriving DecidableEq, Repr

/-- A claim on a cluster: its priority, whether it is a restore, and its place in the order of beginning or waiting. -/
structure Claim where
  who : Asker
  prio : Nat
  order : Nat
deriving DecidableEq, Repr

/-- A restore (R401). -/
def Claim.restores (c : Claim) : Bool :=
  match c.who with
  | .restore _ => true
  | _ => false

/-- A claim that stands before another (R401). -/
def Claim.beats (a b : Claim) : Bool :=
  if a.prio ≠ b.prio then decide (a.prio > b.prio)
  else if a.restores ≠ b.restores then a.restores
  else decide (a.order < b.order)

/-- A suspended launch may be restored: the driver, when it asked for the pre-emption, has resumed it, and all the clusters
that it left are free and still owned (R412). -/
def Mach.mayRestore (m : Mach) (y : Launch) : Bool :=
  y.stat == .suspended && !y.halted && (!y.byDriver || y.resumed) && m.partState (qPart y.queue) == pACTIVE &&
    y.clusters.all fun c => m.clusterFree c && m.clusterOwner c == some (qPart y.queue)

/-- The claims on a cluster. -/
def Mach.claims (m : Mach) (cl : Nat) : List Claim :=
  let ofLaunch (x : Nat × Launch) : Option Claim :=
    let y := x.2
    if y.gaining ∧ m.eligible y.queue cl then some ⟨.run x.1, m.prio y.queue, y.began⟩
    else if m.mayRestore y ∧ y.clusters.contains cl then some ⟨.restore x.1, m.prio y.queue, y.began⟩ else none
  let ofQueue (x : Nat × QueueSt) : Option Claim :=
    match x.2.waitLaunch with
    | some o => if m.mayBegin x.1 ∧ m.eligible x.1 cl then some ⟨.wait x.1, m.prio x.1, o⟩ else none
    | none => none
  m.launches.filterMap ofLaunch ++ m.queues.filterMap ofQueue

/-- The claim that a cluster goes to (R401). -/
def Mach.bestClaim (m : Mach) (cl : Nat) : Option Claim :=
  (m.claims cl).foldl (fun (b : Option Claim) c => match b with
    | none => some c
    | some x => if c.beats x then some c else b) none

/-- A cluster that a claim may take: no other claim on it stands before. -/
def Mach.mayTake (m : Mach) (q cl : Nat) (mine : Claim) : Bool :=
  m.eligible q cl && (m.claims cl).all fun c => c.who == mine.who || mine.beats c

/-- The first cluster, in the order of R399, that a claim may take. -/
def Mach.pickCluster (m : Mach) (q : Nat) (anchor : Option Nat) (mine : Claim) : Option Nat :=
  let dist (cl : Nat) : Nat := match anchor with
    | some d => hops d (cl / 36)
    | none => 0
  (((List.range 576).filter fun cl => m.mayTake q cl mine).foldl (fun (b : Option Nat) cl => match b with
    | none => some cl
    | some x => if dist cl < dist x then some cl else b) none)

/-- The die that homes the page of `param_base`, when it is a die-local page of this device (R399): `none` while its walk
goes on. The walk's result is kept until the launch begins. -/
def Mach.anchorOf (m : Mach) (q p va : Nat) : Mach × Option (Option Nat) :=
  if va / 2 ^ 57 ≠ 0 then (m, some none)
  else match (m.queue q).eng.get? engCheck with
    | none => let r := m.walkStart (.queue q engCheck) 0 p va; (r.1.engKeep q engCheck (.tr r.2), none)
    | some (.ask _) | some (.tr (.more _)) => (m, none)
    | some (.tr (.bad _)) => (m, some none)
    | some (.tr (.leaf frame size _)) =>
      let gpa := frame + va % size
      let line := gpa % 2 ^ 46 / 128
      if gpa / 2 ^ 46 = m.device ∧ line < allLines ∧ line % dieLines < (192 - m.interleave) * 2 ^ 23 then
        (m, some (some (line / dieLines)))
      else (m, some none)

/-! ### Starting a block (R62, R63, R85) -/

/-- The registers of a group at its first instruction (Table 3.3). -/
def startGroup (y : Launch) (slot g rank idx : Nat) : Group :=
  let n (i x : Nat) : Nat × W64 := (i, BitVec.ofNat 64 x)
  { pc := y.codeBase
    lead := y.codeBase
    s := [n 1 (y.f 16 8)] ++ (List.range 8).map (fun k => n (2 + k) (y.f (48 + 8 * k) 8)) ++
      [n 10 (idx % y.gridX), n 11 (idx / y.gridX % y.gridY), n 12 (idx / y.gridX / y.gridY), n 13 (rank % y.bcX),
       n 14 (rank / y.bcX), n 15 g, n 16 rank, n 17 slot]
    v := [(0, (List.range 32).map fun l => BitVec.ofNat 32 l)] }

/-- The groups of a core removed: its block has ended. -/
def Mach.clearGroups (m : Mach) (slot : Nat) : Mach :=
  { m with groups := m.groups.filter fun x => x.1 / 8 != slot }

/-- A core prepared for a block (R62): the first block of its launch finds the scratchpad cleared and the whole L1
invalidated, a later one only the lines without a fabric tag. -/
def Mach.prepareCore (m : Mach) (l : Nat) (y : Launch) (slot rank idx : Nat) : Mach :=
  let first := (m.core slot).lastLaunch != some l
  let m := m.l1Drop slot fun line => first || !m.fabricLine line
  let m := m.clearGroups slot
  let c := m.core slot
  let m := m.setCore slot { c with
    launch := some l
    lastLaunch := some l
    bc := idx
    rank := rank
    rng := if first then rngSeed (BitVec.ofNat 64 (y.f 40 8)) slot else c.rng
    share := y.share
    spad := if first then [] else c.spad
    spadSoft := if first then [] else c.spadSoft
    spadBad := if first then [] else c.spadBad
    tiles := []
    flight := []
    barStart := none
    barKept := 0 }
  let m := (List.range y.nGroups).foldl (fun m g => m.setGroup slot g (startGroup y slot g rank idx)) m
  m.setBit64 (aCsup (clusterOfSlot slot) Reg.CSUP_CORE_ACTIVE) (indexOfSlot slot) true

/-- The next block-cluster of a launch placed in a free slot (R59). -/
def Mach.dispatchTo (m : Mach) (l cl i : Nat) : Mach :=
  match m.launch? l with
  | none => m
  | some y =>
    let c := m.cluster cl
    let m := m.setCluster cl { c with slots := c.slots.put i { index := y.next } }
    let m := ((bcSlots cl y.bcX y.bcY i).zipIdx).foldl (fun m x => m.prepareCore l y x.1 x.2 y.next) m
    m.updLaunch l fun y => { y with next := y.next + 1 }

/-- Every free slot of a cluster filled while block-clusters are left; a cluster that gets no more is draining. -/
def Mach.fillSlots (m : Mach) (l cl : Nat) : Mach :=
  match m.launch? l with
  | none => m
  | some y =>
    let m := (List.range y.perCluster).foldl (fun m i =>
      match m.launch? l with
      | some y => if y.dispatching ∧ ((m.cluster cl).slots.get? i).isNone then m.dispatchTo l cl i else m
      | none => m) m
    let n := (m.cluster cl).slots.length
    if y.halted then m else m.setFld (aCsup cl Reg.CSUP_STATE) 0 3 (if n < y.perCluster then 3 else 2)

/-- A cluster's supervisor takes over a launch: what its registers show of it (Table 3.6). -/
def Mach.csupLoad (m : Mach) (cl : Nat) (y : Launch) (bcDone : Nat) : Mach :=
  let m := m.wr (aCsup cl Reg.CSUP_LAUNCH_TAG) (BitVec.ofNat 32 y.tag)
  let m := m.wr (aCsup cl Reg.CSUP_SHAPE) (BitVec.ofNat 32
    (y.bcX - 1 + 8 * (y.bcY - 1) + 64 * (y.nGroups - 1) + 512 * y.share + 8192 * y.acc))
  let m := m.wr (aCsup cl Reg.CSUP_BAR_TIMEOUT) (BitVec.ofNat 32 y.barTimeout)
  m.wr (aCsup cl Reg.CSUP_BC_DONE) (BitVec.ofNat 32 bcDone)

/-- The fault records of a cluster end when a new launch is given to it (R85). -/
def Mach.csupClear (m : Mach) (cl : Nat) : Mach :=
  let m := m.clearWords (aCsup cl Reg.CSUP_REC_0) 512
  (m.wr64 (aCsup cl Reg.CSUP_CORE_FAULT) 0).wr (aCsup cl Reg.CSUP_FAULT_FIRST) 0

/-- A gated cluster is woken for a launch, whose record then carries `delayed_admission` (R439). -/
def Mach.wakeFor (m : Mach) (cl q seq : Nat) : Mach :=
  let a := at_ (cl / 36) Reg.PWR_GATED
  if m.bit64 a (cl % 36) then (m.setBit64 a (cl % 36) false).updJob q seq fun j => { j with waitedRoom := true } else m

/-- A cluster given to a launch: it is woken and prepared, and its first slots are filled. -/
def Mach.giveCluster (m : Mach) (l cl : Nat) : Mach :=
  match m.launch? l with
  | none => m
  | some y =>
    let m := ((m.wakeFor cl y.queue y.seq).csupLoad cl y 0).csupClear cl
    let c := m.cluster cl
    let m := m.setCluster cl { c with launch := some l, slots := [], tlb := [], walks := [], failed := [] }
    (m.updLaunch l fun y => { y with clusters := y.clusters ++ [cl] }).fillSlots l cl

/-- A running launch takes the eligible clusters that are free, one at a time, while it gains (R400). -/
def Mach.gain (m : Mach) (l : Nat) : Nat → Mach
  | 0 => m
  | n + 1 =>
    match m.launch? l with
    | none => m
    | some y =>
      if !y.gaining then m
      else match m.pickCluster y.queue y.anchor ⟨.run l, m.prio y.queue, y.began⟩ with
        | some cl => (m.giveCluster l cl).gain l n
        | none => m

/-! ### Restoring (R412) -/

/-- A scheduler register of a queue: the bits of `SCHED_QSTATE`. -/
def Mach.qSuspended (m : Mach) (q : Nat) (susp byDriver saving : Bool) : Mach :=
  m.wr (aSched q Reg.SCHED_QSTATE) (BitVec.ofNat 32
    ((if susp then 1 else 0) + (if byDriver then 2 else 0) + (if saving then 4 else 0)))

/-- A restore begins: the launch holds the clusters it left again. -/
def Mach.startRestore (m : Mach) (l : Nat) : Mach :=
  match m.launch? l with
  | none => m
  | some y =>
    let m := y.clusters.foldl (fun m cl =>
      let m := m.wakeFor cl y.queue y.seq
      let c := m.cluster cl
      m.setCluster cl { c with launch := some l, slots := [], tlb := [], walks := [], failed := [] }) m
    (m.updLaunch l fun y => { y with stat := .restoring }).qSuspended y.queue true y.byDriver true

/-- A cluster that has become free goes to the claim that stands first (R401); one that a waiting descriptor claims stays
free for it. -/
def Mach.award (m : Mach) (cl : Nat) : Mach :=
  match m.bestClaim cl with
  | some c => (match c.who with
    | .run l => m.giveCluster l cl
    | .restore l => m.startRestore l
    | .wait _ => m)
  | none => m

/-! ### Ending (R60, R80, R81, R417) -/

/-- The completion status of a launch (R81, R417, Table 18.1): what aborted it, or the first of its faults under R16; one that
END halted without a fault completes with `ABORT_SQUASHED`. -/
def Launch.endStatus (y : Launch) : Status :=
  y.aborted.getD (y.firstFault.getD (if y.halted then .abortSquashed else .ok))

/-- A launch ends: its descriptor completes, and an attachment to it ends (R496). -/
def Mach.endLaunch (m : Mach) (l : Nat) : Mach :=
  match m.launch? l with
  | none => m
  | some y =>
    let m := m.updJob y.queue y.seq fun j =>
      { j with steps := y.steps, preempts := y.preempts, slowed := j.slowed || y.slowed }
    let m := m.endJob y.queue y.seq y.endStatus
    let m := if y.attached then m.setBit (at_ 0 (Reg.DBG_ATTACH + 8 * qPart y.queue)) 9 false else m
    { m with launches := m.launches.del l
             reqs := m.reqs.mapV fun q => if q.saved = some l then { q with saved := none } else q }

/-- A cluster returns to the free set (R400): its cores hold no launch. -/
def Mach.freeCluster (m : Mach) (cl state : Nat) : Mach :=
  let c := m.cluster cl
  let m := m.setCluster cl { c with
    launch := none
    slots := []
    idle := m.now (cl / 36)
    mover := c.mover.filter fun t => t.queue.isSome }
  let m := (slotsOfCluster cl).foldl (fun m slot =>
    let m := m.clearGroups slot
    if (m.cores.get? slot).isNone then m
    else
      let k := m.core slot
      m.setCore slot { k with launch := none, lastLaunch := none, flight := [], barStart := none, barKept := 0 }) m
  (m.setFld (aCsup cl Reg.CSUP_STATE) 0 3 state).wr64 (aCsup cl Reg.CSUP_CORE_ACTIVE) 0

/-- A cluster of a launch without residents returns to the free set once nothing is left to dispatch; the launch ends with
its last cluster. -/
def Mach.tryFree (m : Mach) (l cl : Nat) : Mach :=
  match m.launch? l with
  | none => m
  | some y =>
    if !(m.cluster cl).slots.isEmpty then m
    else if !y.handedOut then m
    else
      let m := (m.freeCluster cl 0).updLaunch l fun y => { y with clusters := y.clusters.filter (· != cl) }
      let m := match m.launch? l with
        | some y => if y.clusters.isEmpty then (m.qSuspended y.queue false false false).endLaunch l else m
        | none => m
      m.award cl

/-- A request that a group has made waits for its answer. -/
def Mach.asked (m : Mach) (slot g : Nat) : Bool := m.reqs.any fun x => x.2.src == .group slot g && x.2.ans.isNone

/-- A group of a block-cluster has ended: it has exited or was halted, and its requests have been answered (R60, R192). -/
def Mach.groupEnded (m : Mach) (p : Nat × Nat) : Bool :=
  match m.group? p.1 p.2 with
  | some x => (x.stat == .exited || x.stat == .haltFault) && !(m.outPending x fun _ => true) && !m.asked p.1 p.2
  | none => true

/-- The answers that the groups of some cores have had and that nothing waits for any more. -/
def Mach.dropAnswered (m : Mach) (slots : List Nat) : Mach :=
  { m with reqs := m.reqs.filter fun x => x.2.ans.isNone || match x.2.src with
      | .group s _ => !slots.contains s
      | _ => true }

/-- A slot of a cluster may be freed (R60, R153, R201). -/
def Mach.slotEnded (m : Mach) (cl i : Nat) : Bool :=
  let slots := m.residentSlots cl i
  (m.bcGroups cl i).all m.groupEnded && (slots.all fun s => (m.core s).flight.isEmpty) &&
    (m.cluster cl).mover.all fun t => t.queue.isSome || t.status.isSome || !slots.contains t.slot

/-- A slot whose block-cluster has ended is freed: the next block-cluster takes it, or the cluster may return to the free
set (R59, R60, R400). -/
def Mach.slotFree (m : Mach) (cl i : Nat) : Mach :=
  match (m.cluster cl).launch, (m.cluster cl).slots.get? i with
  | some l, some _ =>
    if !m.slotEnded cl i then m
    else
      let slots := m.residentSlots cl i
      let m := m.dropAnswered slots
      let m := slots.foldl (fun m s =>
        let m := (m.clearGroups s).setBit64 (aCsup cl Reg.CSUP_CORE_ACTIVE) (indexOfSlot s) false
        let k := m.core s
        m.setCore s { k with launch := none }) m
      let a := aCsup cl Reg.CSUP_BC_DONE
      let m := m.setFld a 0 16 (m.fld a 0 16 + 1)
      let c := m.cluster cl
      let m := m.setCluster cl { c with
        slots := c.slots.del i
        mover := c.mover.filter fun t => t.queue.isSome || !slots.contains t.slot }
      let m := m.updLaunch l fun y => { y with ended := y.ended + 1 }
      match m.launch? l with
      | none => m
      | some y => if y.dispatching then m.dispatchTo l cl i
                  else if y.handedOut && !y.halted && y.stat == .running then
                    (m.setFld (aCsup cl Reg.CSUP_STATE) 0 3 3).tryFree l cl
                  else m.tryFree l cl
  | _, _ => m

/-- SLOT_FREE: slot number `slot` of the cluster, in the order of R58. -/
def execSlotFree (cl : Cluster) (slot : Fin 64) : State → Host.Outcome State Fault Refusal :=
  whenOn fun m => m.slotFree cl.val slot.val

/-- Every cluster that holds a halted launch halts its groups, and returns to the free set when it has no resident (R80).
A launch being saved is not pre-empted (R413); one that is suspended, or being restored, ends (R413, R417). -/
def Mach.haltLaunch (m : Mach) (l : Nat) : Mach :=
  match m.launch? l with
  | none => m
  | some y =>
    if !y.halted then m
    else if y.stat = .suspended then (m.qSuspended y.queue false false false).endLaunch l
    else if y.stat = .restoring then
      let m := y.clusters.foldl (fun m cl => m.freeCluster cl 0) m
      let m := (m.qSuspended y.queue false false false).endLaunch l
      y.clusters.foldl (fun m cl => m.award cl) m
    else
      let m := y.clusters.foldl (fun m cl => m.haltCluster cl) m
      let m := (m.updLaunch l fun y => { y with stat := .running }).qSuspended y.queue false false false
      y.clusters.foldl (fun m cl => m.tryFree l cl) m

/-- LAUNCH_HALT. -/
def execLaunchHalt (l : Nat) : State → Host.Outcome State Fault Refusal := whenOn fun m => m.haltLaunch l

/-! ### Pre-emption (R407 to R411) -/

/-- Device-local bytes that lie wholly in granules of a partition. -/
def Mach.inGranules (m : Mach) (p addr n : Nat) : Bool :=
  decide (addr + n ≤ 3072 * 2 ^ 30) &&
    (List.range ((addr + n - 1) / 2 ^ 30 - addr / 2 ^ 30 + 1)).all fun k => m.granuleOwner (addr / 2 ^ 30 + k) == some p

/-- The save area of a queue, and its size for a launch (R408). -/
def Mach.saveAddr (m : Mach) (q : Nat) : Nat := (m.rd64 (aSched q Reg.SCHED_QSAVE)).toNat
def saveBytes (clusters : Nat) : Nat := 2 ^ 16 + clusters * (24 * 2 ^ 20)

/-- A group of a launch is halted by a debugger. -/
def Mach.debugHalted (m : Mach) (y : Launch) : Bool :=
  y.clusters.any fun cl => (slotsOfCluster cl).any fun s => (groupsOf m s).any fun g => match m.group? s g with
    | some x => x.stat == .haltDebug
    | none => false

/-- A queue has a suspended launch, or one that is being saved or restored. -/
def Mach.hasSuspended (m : Mach) (q : Nat) : Bool :=
  m.launches.any fun x => x.2.queue == q && x.2.stat != .running && x.2.stat != .done

/-- A pre-emption of a launch begins (R409, step 1): dispatch stops, groups halt at their next instruction boundary, timers
pause, and semaphores that its queue owns become held (R382, R411). -/
def Mach.preempt (m : Mach) (l : Nat) (byDriver : Bool) : Mach :=
  match m.launch? l with
  | none => m
  | some y =>
    let m := m.updLaunch l fun y =>
      { y with stat := .saving, byDriver := byDriver, resumed := false }
    let m := m.qSuspended y.queue false false true
    let m := y.clusters.foldl (fun m cl =>
      let m := m.setFld (aCsup cl Reg.CSUP_STATE) 0 3 5
      (slotsOfCluster cl).foldl (fun m s =>
        let m := if (groupsOf m s).isEmpty then m else m.pauseBars s
        (groupsOf m s).foldl (fun m g =>
          (m.loseResv s g).updGroup s g fun x =>
            if x.stat = .exited ∨ x.stat = .haltFault then x else { x with stat := .parked, back := x.cur }) m) m) m
    let p := qPart y.queue
    (List.range 64).foldl (fun m k => if m.semOwner (64 * p + k) = some y.queue then m.semSweep (64 * p + k) else m) m

/-- A launch that the scheduler may pre-empt for one that waits in a queue (R407). -/
def Mach.mayPreempt (m : Mach) (q : Nat) (y : Launch) : Bool :=
  qPart y.queue == qPart q && y.stat == .running && !y.halted && decide (m.prio y.queue < m.prio q) &&
    m.saveAddr y.queue != 0 && !m.hasSuspended y.queue && !m.debugHalted y &&
    m.inGranules (qPart q) (m.saveAddr y.queue) (saveBytes y.clusters.length) && y.clusters.any fun cl => m.diesOk q cl

/-- A pre-emption that will free clusters for a queue is under way. -/
def Mach.freeingFor (m : Mach) (q : Nat) : Bool :=
  m.launches.any fun x => qPart x.2.queue == qPart q && x.2.stat == .saving && x.2.clusters.any fun cl => m.diesOk q cl

/-- The launch that the scheduler pre-empts for a waiting one: of the lowest priority, and among equals the last to begin. -/
def Mach.preemptFor (m : Mach) (q : Nat) : Mach :=
  if m.freeingFor q then m
  else
    let v := (m.launches.filter fun x => m.mayPreempt q x.2).foldl (fun (b : Option (Nat × Nat)) x =>
      let k := m.prio x.2.queue
      match b with
      | none => some (x.1, k)
      | some y => if k < y.2 ∨ (k = y.2 ∧ x.1 > y.1) then some (x.1, k) else b) none
    match v with
    | some x => m.preempt x.1 false
    | none => m

/-! ### The beginning of a launch -/

/-- A launch that finds no cluster waits (R399), and the scheduler may pre-empt another for it (R407). -/
def Mach.launchWaits (m : Mach) (q : Nat) : Mach :=
  let m := m.waitRoom q
  let x := m.queue q
  let m := if x.waitLaunch.isSome then m
    else { (m.setQueue q { x with waitLaunch := some m.nextLaunch }) with nextLaunch := m.nextLaunch + 1 }
  if (List.range 576).any fun cl => m.eligible q cl then m else m.preemptFor q

/-- The debugger is armed for the next launch of a queue, and its partition has no attachment (R496). -/
def Mach.armed (m : Mach) (q : Nat) : Bool :=
  let a := at_ 0 (Reg.DBG_ATTACH + 8 * qPart q)
  m.bit a 6 && !m.bit a 9 && m.fld a 0 6 == q % 64 && !m.sable (qPart q)

/-- A launch that has been given a cluster begins, or is refused (R55). -/
def Mach.launchOn (m : Mach) (q cl order : Nat) (anchor : Option Nat) (d : List Byte) : Mach :=
  let (m, j) := m.takeHead q d
  let m := m.addJob q j
  if launchBad d then (m.wakeFor cl q j.seq).endJob q j.seq .errDecode
  else
    let l := m.nextLaunch
    let att := m.armed q
    let m := if att then m.setBit (at_ 0 (Reg.DBG_ATTACH + 8 * qPart q)) 9 true else m
    let m := { m with
      nextLaunch := l + 1
      launches := m.launches.put l { queue := q, seq := j.seq, desc := d, began := order, anchor := anchor, attached := att } }
    (m.giveCluster l cl).gain l 576

/-- A launch descriptor that is next in its queue (R399). -/
def Mach.beginLaunch (m : Mach) (q : Nat) (d : List Byte) : Mach :=
  match m.anchorOf q (qPart q) (descF d 16 8) with
  | (m, none) => m
  | (m, some anchor) =>
    let order := ((m.queue q).waitLaunch).getD m.nextLaunch
    match m.pickCluster q anchor ⟨.wait q, m.prio q, order⟩ with
    | some cl => m.launchOn q cl order anchor d
    | none => m.launchWaits q

/-- LAUNCH. -/
def execLaunch (q : Queue) : State → Host.Outcome State Fault Refusal :=
  whenOn fun m => m.beginDesc q.val 1 fun m d => m.beginLaunch q.val d

/-! ### Saving (R409) -/

/-- The clusters of a launch, with their cores' slots. -/
def launchSlots (y : Launch) : List Nat := y.clusters.flatMap slotsOfCluster

/-- A request of a core slot. -/
def Req.ofSlot (q : Req) (slots : List Nat) : Bool :=
  match q.src with
  | .group s _ => slots.contains s
  | _ => false

/-- A request to another device. -/
def Target.far (t : Target) : Bool :=
  match t with
  | .remote _ _ => true
  | _ => false

/-- A group may be saved: it is halted, its ATOM, LDR and STC have completed, and what it has buffered is sent; only
requests to other devices may still be due (R193, Table 8.12). -/
def Mach.groupSaved (m : Mach) (x : Group) : Bool :=
  (x.stat == .parked || x.stat == .exited) && x.full.isEmpty &&
    ((outRids x.outs).all fun r => match m.req? r with
      | some q => q.tgt.far && (q.sent || q.ans.isSome)
      | none => true) &&
    x.loads.all fun r => r.rids.all fun i => match m.req? i with
      | some q => q.kind == .load
      | none => true

/-- Every part of a launch has come to rest (R409, steps 1 and 2). -/
def Mach.restReached (m : Mach) (y : Launch) : Bool :=
  (launchSlots y).all (fun s => (m.core s).flight.isEmpty && (groupsOf m s).all fun g => match m.group? s g with
    | some x => m.groupSaved x
    | none => true) &&
    y.clusters.all fun cl => (m.cluster cl).mover.all fun t => t.queue.isSome || t.status.isSome || t.between

/-- A group as it is saved: its outstanding loads are discarded, and are issued again after the restore (R193). -/
def Group.toSave (x : Group) : Group :=
  let x := { x with fetchRid := none, ir := none, fline := none }
  match x.loads with
  | r :: _ => { x with loads := [], pc := r.pc, lead := r.lead }
  | [] => x

/-- The saved part of one cluster. -/
def Mach.saveCluster (m : Mach) (cl : Nat) : SavedCl :=
  let c := m.cluster cl
  let slots := slotsOfCluster cl
  { cluster := cl
    slots := c.slots
    bcDone := m.fld (aCsup cl Reg.CSUP_BC_DONE) 0 16
    cores := Tab.mapV (m.cores.filter fun x => slots.contains x.1) fun k => { k with l1 := [] }
    groups := Tab.mapV (m.groups.filter fun x => slots.contains (x.1 / 8)) Group.toSave
    mover := c.mover.filter fun t => t.queue.isNone }

/-- A line that takes bytes internal to the device: their layout is not given (R408, R420). -/
def Mach.scribble (m : Mach) (line : Nat) : Mach :=
  let img := BitVec.ofNat 1024 (ofBytes ((List.range 128).map fun k => Config.internalByte (m.fresh * 2 ^ 46 + 128 * line + k)))
  match m.hline? line with
  | some h => m.setHline line { h with img := img, psn := 0, comb := [], st := if h.st = .filling then .filling else .dirty }
  | none => m.memWrite line img 0

/-- An area of memory written with internal bytes. -/
def Mach.scribbleArea (m : Mach) (addr bytes : Nat) : Mach :=
  let m := (List.range (bytes / 128)).foldl (fun m k => m.scribble (addr / 128 + k)) m
  { m with fresh := m.fresh + 1 }

/-- A pre-empted launch whose work has come to rest is saved: its clusters become free, and its queue shows a suspended
launch (R409). -/
def Mach.saveLaunch (m : Mach) (l : Nat) : Mach :=
  match m.launch? l with
  | none => m
  | some y =>
    if y.stat ≠ .saving ∨ y.halted ∨ !m.restReached y then m
    else
      let slots := launchSlots y
      let parts := y.clusters.map m.saveCluster
      let m := m.scribbleArea (m.saveAddr y.queue) (saveBytes y.clusters.length)
      let m := { m with reqs := m.reqs.mapV fun q => if q.ofSlot slots then { q with saved := some l } else q }
      let m := y.clusters.foldl (fun m cl => m.freeCluster cl 6) m
      let m := (m.updLaunch l fun y => { y with stat := .suspended, saved := parts, preempts := y.preempts + 1 }).qSuspended y.queue true y.byDriver false
      y.clusters.foldl (fun m cl => if m.clusterFree cl then m.award cl else m) m

/-- SAVE_COMPLETE. -/
def execSaveComplete (l : Nat) : State → Host.Outcome State Fault Refusal := whenOn fun m => m.saveLaunch l

/-! ### Restoring -/

/-- The saved part of a cluster written back (R412): the L1s come back empty. -/
def Mach.restoreCluster (m : Mach) (l : Nat) (y : Launch) (p : SavedCl) : Mach :=
  let c := m.cluster p.cluster
  let m := m.setCluster p.cluster { c with slots := p.slots, mover := c.mover ++ p.mover }
  let m := p.cores.foldl (fun m x => m.setCore x.1 x.2) m
  let m := p.groups.foldl (fun m x =>
    { m with groups := m.groups.put x.1 (if x.2.stat = .parked then { x.2 with stat := x.2.back } else x.2) }) m
  let m := m.csupLoad p.cluster y p.bcDone
  let m := (p.slots.flatMap fun x => bcSlots p.cluster y.bcX y.bcY x.1).foldl (fun m s =>
    m.setBit64 (aCsup p.cluster Reg.CSUP_CORE_ACTIVE) (indexOfSlot s) true) m
  (m.resumeBars p.cluster).fillSlots l p.cluster

/-- A restored launch runs on: the answers collected meanwhile reach their groups (R411, R412). -/
def Mach.restoreLaunch (m : Mach) (l : Nat) : Mach :=
  match m.launch? l with
  | none => m
  | some y =>
    if y.stat ≠ .restoring ∨ y.halted then m
    else
      let m := (m.updLaunch l fun y => { y with stat := .running, saved := [], byDriver := false, resumed := false }).qSuspended
        y.queue false false false
      let m := { m with reqs := m.reqs.mapV fun q => if q.saved = some l then { q with saved := none } else q }
      let m := y.saved.foldl (fun m p => m.restoreCluster l y p) m
      y.clusters.foldl (fun m cl => m.tryFree l cl) m

/-- RESTORE_COMPLETE. -/
def execRestoreComplete (l : Nat) : State → Host.Outcome State Fault Refusal := whenOn fun m => m.restoreLaunch l

end Sys2Proof.Machine
end

