-- ==== Sys2Proof/Machine/Partition.lean ====
section
/-! DEFINITION. Partitions (R387 to R394, R397, R402, R405, R414 to R421, R528): their commands, owner tables and
registers, the sequence of a reset or removal, freezing and thawing, and the retiring of epochs (R487). -/
namespace Sys2Proof.Machine

/-! ### Measurements and epochs (R474, R475, R487) -/

/-- Bytes of a measurement, byte 0 first. -/
def measBytes (x : BitVec 512) : List Byte := bytesOf x.toNat 64
/-- The key of a partition's measurement among the module's: MEAS0 to MEAS7 stand first. -/
def pmeasKey (p : Nat) : Nat := 8 + p
/-- A measurement extended: MEAS ← SHA-512(MEAS ‖ d) (R474). -/
def Mach.measUpdate (m : Mach) (i : Nat) (d : List Byte) : Mach :=
  { m with meas := m.meas.put i (Config.sha512 (measBytes (m.meas.get i 0) ++ d)) }
/-- A measurement extended with the SHA-512 of items (R474, R475). -/
def Mach.extendHash (m : Mach) (i : Nat) (items : List Byte) : Mach := m.measUpdate i (measBytes (Config.sha512 items))

/-- The registers of a key slot. -/
def aSlot (p off : Nat) : Nat := at_ 0 (off + 0x10 * p)
/-- The previous epoch of a fabric slot. -/
def Mach.prevEpoch (m : Mach) (p : Nat) : Nat := m.fld (aSlot p Reg.SEC_KSLOT_4) 16 16
/-- States of a fabric slot (R482). -/
def kEMPTY : Nat := 0
def kLOADED : Nat := 1
def kROTATING : Nat := 2
def kRETIRING : Nat := 3
/-- The state of a fabric slot. -/
def Mach.fabState (m : Mach) (p : Nat) : Nat := m.fld (aSlot p Reg.SEC_KSLOT) 1 3
def Mach.setFabState (m : Mach) (p s : Nat) : Mach := m.setFld (aSlot p Reg.SEC_KSLOT) 1 3 s

/-- Pairs added to the retired list: it holds 64, the oldest replaced first (R487). -/
def retirePairs (old new : List (Nat × Nat)) : List (Nat × Nat) :=
  let l := (old.filter fun x => !new.contains x) ++ new
  l.drop (l.length - 64)

/-- An epoch of a partition retired (R487): the receive table's entries with that epoch that name the partition end, and
those pairs and the partition's own are listed as retired and told to the fabric manager. -/
def Mach.retireEpoch (m : Mach) (p e : Nat) : Mach :=
  if e = 0 then m
  else
    let a (i : Nat) : Nat := at_ 0 (Reg.SEC_RX + 8 * i)
    let hit := (List.range 64).filter fun i => m.bit (a i) 5 && m.fld (a i + 4) 0 16 == e && m.fld (a i) 6 5 == p
    let pairs := (hit.map fun i => (m.fld (a i) 0 5, e)).filter (· != (p, e)) ++ [(p, e)]
    let m := hit.foldl (fun m i => m.setBit (a i) 5 false) m
    { m with retired := retirePairs m.retired pairs }.slateNotice 0x23
      (pairs.flatMap fun (x : Nat × Nat) => bytesOf x.1 2 ++ bytesOf x.2 2)

/-! ### Owner tables (R387, R388, R417) -/

/-- A partition whose reset or removal runs. -/
def Mach.resetting (m : Mach) (p : Nat) : Bool := m.partState p == pRESETTING || m.partState p == pREMOVING

/-- The status of a write of an owner (R388, R417). -/
def Mach.ownerStatus (m : Mach) (old new : Option Nat) (busy : Bool) : Status :=
  let is (o : Option Nat) (f : Nat → Bool) : Bool := match o with
    | some p => f p
    | none => false
  if is new fun p => m.partState p == pFREE then .errDecode
  else if is old m.resetting || is new m.resetting then .busyResetting
  else if old = new then .ok
  else if is old (fun p => m.partState p != pCONFIG) || (old.isSome && is new fun p => m.partState p != pCONFIG) || busy then
    .busyOwned
  else .ok

/-- The owner that a written word names. -/
def ownerOf (v : W32) : Option Nat := if v.getLsbD 5 then some (bitsOf v.toNat 0 5) else none

/-- A write of `PART_CLUSTER_OWNER`; `CSUP_STATE` shows the same owner, and cached translations end (R388). -/
def Mach.clusterOwnerWrite (m : Mach) (cl : Nat) (v : W32) : Mach × Status :=
  let st := m.ownerStatus (m.clusterOwner cl) (ownerOf v) (m.clusterBusy cl)
  if st ≠ .ok then (m, st)
  else
    let m := m.setFld (Reg.PART_CLUSTER_OWNER + 4 * cl) 0 6 (bitsOf v.toNat 0 6)
    let m := m.setFld (aCsup cl Reg.CSUP_STATE) 8 6 (bitsOf v.toNat 0 6)
    let c := m.cluster cl
    let m := m.setCluster cl { c with tlb := [], failed := [] }
    (if m.clusterFree cl then m.award cl else m, .ok)

/-- CLUSTER_OWNER_WRITE. -/
def execClusterOwnerWrite (who : Requester) (cl : Cluster) (v : W32) : State → Host.Outcome State Fault Refusal :=
  whenOn fun m => m.regWrite who 0 (Reg.PART_CLUSTER_OWNER + 4 * cl.val) fun m => m.clusterOwnerWrite cl.val v

/-- A write of `PART_GRANULE_OWNER` (R388). -/
def Mach.granuleOwnerWrite (m : Mach) (g : Nat) (v : W32) : Mach × Status :=
  let st := m.ownerStatus (m.granuleOwner g) (ownerOf v) false
  (if st = .ok then m.setFld (Reg.PART_GRANULE_OWNER + 4 * g) 0 6 (bitsOf v.toNat 0 6) else m, st)

/-- GRANULE_OWNER_WRITE. -/
def execGranuleOwnerWrite (who : Requester) (gr : Fin 3072) (v : W32) : State → Host.Outcome State Fault Refusal :=
  whenOn fun m => m.regWrite who 0 (Reg.PART_GRANULE_OWNER + 4 * gr.val) fun m => m.granuleOwnerWrite gr.val v

/-- The granules that a partition owns. -/
def Mach.ownGranules (m : Mach) (p : Nat) : List Nat := (List.range 3072).filter fun g => m.granuleOwner g == some p

/-! ### Registers of the block (R393, R394, R397, R402, R528) -/

/-- A write of a register of a partition's block other than `PART_CMD` (R394), with the status of its own checks: the code that
stands first is given (R16). -/
def Mach.partGuard (m : Mach) (p : Nat) (own : Status) (f : Mach → Mach) : Mach × Status :=
  let st := own.first (if m.resetting p then .busyResetting else if m.partState p = pFREEZING then .busyOwned else .ok)
  (if st = .ok then f m else m, st)

/-- A write of `PART_CFG` (R393, Table 14.12). -/
def Mach.partCfg (m : Mach) (p : Nat) (v : W32) : Mach × Status :=
  let a := aPart p Reg.PART_CFG
  m.partGuard p
    (if bitsOf v.toNat 0 8 = 0 ∨ bitsOf v.toNat 9 2 = 3 then .errDecode
     else if m.partState p ≠ pCONFIG ∧ bitsOf v.toNat 9 3 ≠ m.fld a 9 3 then .busyOwned else .ok)
    fun m => m.setFld a 0 13 (bitsOf v.toNat 0 13)

/-- PART_CFG_WRITE. -/
def execPartCfgWrite (who : Requester) (p : Part) (v : W32) : State → Host.Outcome State Fault Refusal :=
  whenOn fun m => m.regWrite who 0 (aPart p.val Reg.PART_CFG) fun m => m.partCfg p.val v

/-- A write of `PART_RATE` fills the bucket to the new `burst` (R402). -/
def Mach.partRate (m : Mach) (p : Nat) (v : W32) : Mach × Status :=
  m.partGuard p .ok fun m =>
    (m.wr (aPart p Reg.PART_RATE) v).wr (aPart p Reg.PART_TOKENS) (BitVec.ofNat 32 (bitsOf v.toNat 16 16))

/-- PART_RATE_WRITE. -/
def execPartRateWrite (who : Requester) (p : Part) (v : W32) : State → Host.Outcome State Fault Refusal :=
  whenOn fun m => m.regWrite who 0 (aPart p.val Reg.PART_RATE) fun m => m.partRate p.val v

/-- A partition's bucket gains `rate` tokens, up to `burst` (R402). -/
def Mach.refill (m : Mach) (p : Nat) : Mach :=
  let a := aPart p Reg.PART_TOKENS
  let rate := m.fld (aPart p Reg.PART_RATE) 0 16
  let burst := m.fld (aPart p Reg.PART_RATE) 16 16
  if rate = 0 then m else m.wr a (BitVec.ofNat 32 (max (m.rd a).toNat (min ((m.rd a).toNat + rate) burst)))

/-- TOKEN_REFILL: each time die 0's timer reaches a multiple of 100,000 ticks (R402). -/
def execTokenRefill : State → Host.Outcome State Fault Refusal :=
  whenOn fun m =>
    if m.now 0 % 100000 = 0 ∧ m.refillAt ≠ m.now 0 then (List.range 32).foldl Mach.refill { m with refillAt := m.now 0 } else m

/-- A walk of a partition made old: its translations were invalidated after it began. -/
def WalkRes.aged (p : Nat) (r : WalkRes) : WalkRes :=
  match r with
  | .more w => .more (if w.part = p then { w with old := true } else w)
  | r => r
/-- A walk that goes on. -/
def WalkRes.runs : WalkRes → Bool
  | .more _ => true
  | _ => false

/-- The translations that a partition holds end, in its clusters' units and in the engine and the range operations of its queues;
what its walks under way find is not used (R397). -/
def Mach.tlbDrop (m : Mach) (p : Nat) : Mach :=
  let unit (cl : Nat) (c : ClusterSt) : ClusterSt :=
    let own := m.clusterOwner cl == some p
    { c with
      tlb := if own then [] else c.tlb
      failed := if own then [] else c.failed
      walks := c.walks.mapV fun w => if w.part = p then { w with old := true } else w }
  let acc (a : EngAcc) : Option EngAcc := match a with
    | .ask r => some (.ask r)
    | .tr r => if r.runs then some (.tr (r.aged p)) else none
  { m with
    clusters := m.clusters.map fun (x : Nat × ClusterSt) => (x.1, unit x.1 x.2)
    queues := m.queues.map fun (x : Nat × QueueSt) =>
      if qPart x.1 = p then (x.1, { x.2 with eng := x.2.eng.filterMap fun e => (acc e.2).map fun a => (e.1, a) }) else x
    ranges := m.ranges.map fun o => if o.part = p then { o with page := match o.page with
        | some r => if r.runs then some (r.aged p) else none
        | none => none } else o }

/-- `busy` of `PART_TLB_INV`: a walk of the partition that began before its translations were invalidated goes on (R397). -/
def Mach.tlbBusy (m : Mach) (p : Nat) : Bool :=
  let stale (w : Walk) : Bool := w.part == p && w.old
  let isOld (r : WalkRes) : Bool := match r with
    | .more w => stale w
    | _ => false
  (m.clusters.any fun x => x.2.walks.any fun w => stale w.2) ||
    (m.queues.any fun x => x.2.eng.any fun e => match e.2 with
      | .tr r => isOld r
      | .ask _ => false) ||
    m.ranges.any fun o => match o.page with
      | some r => isOld r
      | none => false

/-- A write of `PART_TLB_INV`: with `go`, the translations that the partition's clusters hold end (R397). -/
def Mach.tlbInv (m : Mach) (p : Nat) (v : W32) : Mach × Status :=
  m.partGuard p .ok fun m => if v.getLsbD 0 then m.tlbDrop p else m

/-- PART_TLB_INV. -/
def execPartTlbInv (who : Requester) (p : Part) (v : W32) : State → Host.Outcome State Fault Refusal :=
  whenOn fun m => m.regWrite who 0 (aPart p.val Reg.PART_TLB_INV) fun m => m.tlbInv p.val v

/-- A write of `PART_NOTIFY_ADDR` (R528). -/
def Mach.partNotify (m : Mach) (p : Nat) (x : WideAcc) : Mach × Status :=
  let r := m.noticeWrite (aPart p Reg.PART_NOTIFY_ADDR) x
  m.partGuard p r.2 fun _ => r.1

/-- PART_NOTIFY_ADDR_WRITE. -/
def execPartNotifyAddrWrite (who : Requester) (p : Part) (x : WideAcc) : State → Host.Outcome State Fault Refusal :=
  whenOn fun m => m.wideReg who 0 (aPart p.val Reg.PART_NOTIFY_ADDR) x fun m => m.partNotify p.val x

/-- A write of `PART_PT_ROOT`: refused to a Sable-mode partition from `activate` on (R479). -/
def Mach.ptRoot (m : Mach) (p : Nat) (f : Mach → Mach) : Mach × Status :=
  m.partGuard p (if m.sable p ∧ m.partState p ≠ pCONFIG then .errSecurity else .ok) f

/-! ### Creating and activating (R392, R393, R475, R479) -/

/-- Consecutive words put back to their reset values. -/
def Mach.resetWords (m : Mach) (a n : Nat) : Mach :=
  (List.range n).foldl (fun m k => { m with regs := m.regs.del (a + 4 * k) }) m

/-- A partition's semaphores back at 0, with no owner and no waiter. -/
def Mach.clearSems (m : Mach) (p : Nat) : Mach :=
  let m := m.resetWords (Reg.Q_SEM_VALUE + 512 * p) 128
  { m with semWait := m.semWait.filter fun x => x.1 / 64 != p }

/-- A partition's hint and recorded power step end (R432). -/
def Mach.clearHint (m : Mach) (p : Nat) : Mach :=
  let x := m.part p
  ((m.resetWords (Reg.PWR_HINT + 8 * p) 2).setPart p { x with hintUntil := none, hintPeriods := 0, hintMw := 0 })

/-- `create` (R393). -/
def Mach.partCreate (m : Mach) (p : Nat) : Mach × Status :=
  let s := m.partState p
  if s = pFREE then
    let m := (m.resetWords (aPart p Reg.PART_STATE) 64).clearSems p
    let m := (m.setPart p {}).clearHint p
    ({ m with meas := m.meas.del (pmeasKey p) }.setPartState p pCONFIG, .ok)
  else (m, if m.resetting p then .busyResetting else .busyOwned)

/-- The page-table entry at an address, as its home gives it now. -/
def Mach.pte (m : Mach) (a : Nat) : W64 := lword (m.peekLine (a / 128)).1 (a % 128 / 8)
/-- An entry that names a table below its level. -/
def isTable (lvl : Nat) (e : W64) : Bool := e.getLsbD 0 && !e.getLsbD 1 && lvl != 0
/-- The address of the table that an entry names. -/
def tableOf (e : W64) : Nat := e.toNat / 256 % 2 ^ 38 * 256

/-- Every entry reachable from a table, in walk order: an entry, then what stands below it (R475). -/
def Mach.reachable (m : Mach) : Nat → Nat → Nat → List W64
  | 0, _, _ => []
  | fuel + 1, lvl, table => (List.range (levelEntries lvl)).flatMap fun i =>
      let e := m.pte (table + 8 * i)
      e :: if isTable lvl e then m.reachable fuel (lvl - 1) (tableOf e) else []

/-- Every table reachable from a table lies in granules of a partition (R479). -/
def Mach.tablesOwned (m : Mach) (p : Nat) : Nat → Nat → Nat → Bool
  | 0, _, _ => true
  | fuel + 1, lvl, table =>
    m.inGranules p table (8 * levelEntries lvl) && (List.range (levelEntries lvl)).all fun i =>
      let e := m.pte (table + 8 * i)
      !isTable lvl e || m.tablesOwned p fuel (lvl - 1) (tableOf e)

/-- A map of bits as bytes. -/
def mapBytes (n : Nat) (f : Nat → Bool) : List Byte :=
  bytesOf ((List.range n).foldl (fun a i => if f i then a + 2 ^ i else a) 0) (n / 8)

/-- The items that `activate` measures (R475). -/
def Mach.partItems (m : Mach) (p : Nat) : List Byte :=
  let root := (m.rd64 (aPart p Reg.PART_PT_ROOT)).toNat
  bytesOf (m.rd (aPart p Reg.PART_CFG)).toNat 4 ++ mapBytes 576 (fun c => m.clusterOwner c == some p) ++
    mapBytes 3072 (fun g => m.granuleOwner g == some p) ++
    (if m.sable p then measBytes (Config.sha512 ((m.reachable 5 4 root).flatMap fun e => bytesOf e.toNat 8)) else [])

/-- `activate` (R393, R475, R479). -/
def Mach.partActivate (m : Mach) (p : Nat) : Mach × Status :=
  let s := m.partState p
  let root := (m.rd64 (aPart p Reg.PART_PT_ROOT)).toNat
  if s = pFREE then (m, .errDecode)
  else if s = pACTIVE then (m, .ok)
  else if m.resetting p then (m, .busyResetting)
  else if s ≠ pCONFIG then (m, .busyOwned)
  else if m.sable p ∧ ((m.key p).memKey.isNone ∨ !m.tablesOwned p 5 4 root) then (m, .errSecurity)
  else if (m.ownClusters p).isEmpty ∨ (m.ownGranules p).isEmpty then (m, .errDecode)
  else ((m.extendHash (pmeasKey p) (m.partItems p)).setPartState p pACTIVE, .ok)

/-! ### Reset and removal (R414 to R417) -/

/-- A buffered entry discarded (R227) and logged: one not yet sent has no effect; of one that was sent to a home of this module a
free value tells whether its bytes are still written there, for nobody then; one sent elsewhere is past the module's reach. -/
def Mach.discardReq (m : Mach) (slot g rid : Nat) (st : Status) : Mach :=
  match m.req? rid with
  | none => m
  | some q =>
    if q.ans.isSome then m.dropReq rid
    else
      let m := m.logFault (dieOfSlot slot) 0x04 st 1 (m.sableCluster (clusterOfSlot slot)) slot (m.lineAddr q)
        (g + if q.sent then 8 else 0)
      let here : Bool := match q.tgt with
        | .home _ => true
        | _ => false
      let (x, m) := m.draw
      if q.sent && here && q.kind != .stc && x.getLsbD 0 then m.updReq rid fun q => { q with src := .log .nothing }
      else ((m.unnote rid).freeEnt rid).dropReq rid

/-- What the groups of a core have buffered and not had answered is discarded, and their loads are dropped. -/
def Mach.discardSlot (m : Mach) (slot : Nat) (st : Status) : Mach :=
  (groupsOf m slot).foldl (fun m g => match m.group? slot g with
    | none => m
    | some x =>
      let m := (outRids x.outs ++ x.full).foldl (fun m rid => m.discardReq slot g rid st) m
      let rest := (m.reqs.filter fun y => y.2.src == .group slot g).map (·.1)
      let m := rest.foldl (fun m rid => ((m.unnote rid).freeEnt rid).dropReq rid) m
      m.updGroup slot g fun x => { x with outs := [], full := [], loads := [], fetchRid := none }) m

/-- A launch ended by force: what its cores have buffered is discarded, and its clusters return to the free set. -/
def Mach.forceEnd (m : Mach) (l : Nat) (st : Status) : Mach :=
  match m.launch? l with
  | none => m
  | some y =>
    let m := (launchSlots y).foldl (fun m s => m.discardSlot s st) m
    let m := y.clusters.foldl (fun m cl => m.freeCluster cl 0) m
    ((m.qSuspended y.queue false false false).endLaunch l)

/-- The launches of a partition, and its queues. -/
def Mach.partLaunches (m : Mach) (p : Nat) : List Nat := (m.launches.filter fun x => qPart x.2.queue == p).map (·.1)
def partQueues (p : Nat) : List Nat := (List.range 64).map fun k => 64 * p + k

/-- The pins of a partition released (R261): what waits for a way of their slices is tried again. -/
def Mach.dropPins (m : Mach) (p : Nat) : Mach :=
  let pinned := (m.lines.filter fun x => x.2.pin == some p).map (·.1)
  let m := { m with lines := m.lines.mapV fun h => if h.pin = some p then { h with pin := none } else h }
  pinned.foldl (fun m line => m.reseat (m.hd line) (m.hc line)) m

/-- A sequence at a step, timed from now. -/
def Mach.atStep (m : Mach) (p step : Nat) : Mach :=
  let x := m.part p
  m.setPart p { x with resetStep := step, resetFrom := m.now 0 }

/-- A core of the partition is under a core reset (R454). -/
def Mach.coreResetIn (m : Mach) (p : Nat) : Bool :=
  m.dies.any fun x => match x.2.coreReset with
    | some r => m.clusterOwner (clusterOfSlot r.1) == some p
    | none => false

/-- A reset or removal that was taken: its launches will complete with ABORT_PARTITION_RESET. -/
def Mach.resetTaken (m : Mach) (p : Nat) (removing : Bool) : Mach :=
  let m := m.dbgCut (fun slot => m.clusterOwner (clusterOfSlot slot) == some p) .abortPartitionReset
  let m := (m.setPartState p (if removing then pREMOVING else pRESETTING)).atStep p 0
  let m := m.setPart p { m.part p with freezing := false }
  (m.partLaunches p).foldl (fun m l => m.updLaunch l fun y => if y.halted then y.halt (some .abortPartitionReset) else y) m

/-- Step 1 of Table 14.8. -/
def Mach.resetStep1 (m : Mach) (p : Nat) : Mach :=
  let m := (partQueues p).foldl (fun m q => if (m.queues.get? q).isSome then m.abortQueue q .abortPartitionReset else m) m
  (m.squashQueues (fun q => qPart q == p) .abortPartitionReset).atStep p 1

/-- Step 1 is complete: the queued descriptors of every queue that is not stopped have completed. -/
def Mach.step1Done (m : Mach) (p : Nat) : Bool :=
  m.queues.all fun x => qPart x.1 != p || m.bit (aQ x.1 Reg.Q_STATUS) 10 || (x.2.arrived.isEmpty && x.2.ended.isEmpty)

/-- Step 2: launches halt, transfers stop at chunk boundaries, pins are released. -/
def Mach.resetStep2 (m : Mach) (p : Nat) : Mach :=
  let m := { m with clusters := m.clusters.mapV fun c => stopMover c (fun t => t.part == p) .abortPartitionReset }
  let m := (m.partLaunches p).foldl (fun m l =>
    (m.updLaunch l fun y => y.halt (some .abortPartitionReset)).haltLaunch l) m
  (m.dropPins p).atStep p 2

/-- Nothing of the partition runs. -/
def Mach.drained (m : Mach) (p : Nat) : Bool :=
  (m.partLaunches p).isEmpty && (m.queues.all fun x => qPart x.1 != p || x.2.jobs.isEmpty) &&
    m.clusters.all fun c => c.2.mover.all fun t => t.part != p || t.status.isSome

/-- The drain of step 2 has taken 10,000 ticks: the rest is discarded (Table 8.12). -/
def Mach.endDrain (m : Mach) (p : Nat) : Mach :=
  let m := (m.partLaunches p).foldl (fun m l => m.forceEnd l .abortPartitionReset) m
  let m := (m.queues.filter fun x => qPart x.1 == p).foldl (fun m x =>
    x.2.jobs.foldl (fun m j => m.endJob x.1 j.seq .abortPartitionReset) m) m
  { m with clusters := m.clusters.mapV fun c => { c with mover := c.mover.filter fun t => t.part != p } }

/-- Step 3: epochs are retired, and the partition's outstanding fabric entries complete. -/
def Mach.resetStep3 (m : Mach) (p : Nat) : Mach :=
  let m := ((m.retireEpoch p (m.prevEpoch p)).retireEpoch p (m.epoch p)).setFabState p kRETIRING
  let mine := m.reqs.filter fun x => x.2.part == p && x.2.ans.isNone && x.2.tgt.far && match x.2.src with
    | .fabric _ _ => false
    | _ => true
  (mine.foldl (fun m x => (m.freeEnt x.1).giveAnswer x.1 { status := .abortPartitionReset }) m).atStep p 3

/-- A line in a granule of a partition. -/
def Mach.lineOf (m : Mach) (p line : Nat) : Bool := m.granuleOwner (line / 2 ^ 23) == some p

/-- A write of a line in a partition's granules is on its way to its channel. -/
def Mach.writesDue (m : Mach) (p : Nat) : Bool :=
  m.chans.any fun x => x.2.sent.any fun c => match c with
    | .write line _ _ => m.lineOf p line
    | _ => false

/-- Step 4 goes on: the lines of a Sable-mode partition are written back and invalidated. -/
def Mach.resetStep4 (m : Mach) (p : Nat) : Mach :=
  if m.sable p then (m.lines.map (·.1)).foldl (fun m line => if m.lineOf p line then m.evict line else m) m else m
/-- A line whose channel is gated, and which therefore stays where it is (R303). -/
def Mach.lineStays (m : Mach) (line : Nat) : Bool := m.chanGated (m.hd line) (m.hc line)
/-- Step 4 is complete. -/
def Mach.step4Done (m : Mach) (p : Nat) : Bool :=
  !m.sable p || (!m.writesDue p && m.lines.all fun x => !m.lineOf p x.1 || m.lineStays x.1)

/-- Step 5: the key slots are zeroised. -/
def Mach.zeroise (m : Mach) (p : Nat) : Mach :=
  (m.setKey p {}).clearWords (aSlot p Reg.SEC_KSLOT) 2

/-- A notice word of a partition (Table 14.8, step 6). -/
def Mach.partNotice (m : Mach) (p : Nat) : Mach :=
  let a := (m.rd64 (aPart p Reg.PART_NOTIFY_ADDR)).toNat
  if a = 0 then m else m.notify false p a (bytesOf (p + 256 * m.partState p) 4)

/-- Resources after a reset and after a removal (Table 14.9). -/
def Mach.resetResources (m : Mach) (p : Nat) (removing : Bool) : Mach :=
  let m := (partQueues p).foldl (fun m q =>
    let keep := m.queues.get? q
    let m := (m.setBit (aQ q Reg.Q_CFG) 5 false).clearWords (aQ q Reg.Q_TAIL) 4
    let m := (m.clearWords (aQ q Reg.Q_JOB_CNT) 1).clearWords (aQ q Reg.Q_ADMIT_REFUSED_CNT) 1
    if keep.isSome then m.setQueue q {} else m) m
  let m := ((m.clearSems p).clearHint p).clearWords (aPart p Reg.PART_ACCT_WAIT) 3
  let m := m.setBit (at_ 0 (Reg.DBG_ATTACH + 8 * p)) 9 false
  if !removing then m.wr (aPart p Reg.PART_TOKENS) (BitVec.ofNat 32 (m.fld (aPart p Reg.PART_RATE) 16 16))
  else
    let m := (m.ownClusters p).foldl (fun m cl =>
      let m := (m.wr (Reg.PART_CLUSTER_OWNER + 4 * cl) 0).setFld (aCsup cl Reg.CSUP_STATE) 8 6 0
      let c := m.cluster cl
      m.setCluster cl { c with tlb := [], failed := [] }) m
    let m := (m.ownGranules p).foldl (fun m g => m.wr (Reg.PART_GRANULE_OWNER + 4 * g) 0) m
    let m := (List.range 1024).foldl (fun m i => m.wr (aSlice (i / 64) (i % 64) (Reg.SLICE_PIN_QUOTA + 8 * p)) 0) m
    let m := (List.range 31).foldl (fun m fp => m.wr (aFp fp Reg.LU_CREDIT_RES + 4 * p) 0) m
    let m := (partQueues p).foldl (fun m q => m.resetWords (aSched q Reg.SCHED_QCFG) 4) m
    let m := m.resetWords (aPart p Reg.PART_CFG) 2
    (m.resetWords (aPart p Reg.PART_PT_ROOT) 6).wr (aPart p Reg.PART_TOKENS) 0

/-- Step 6: the partition's new state, its time and its notice. -/
def Mach.resetStep6 (m : Mach) (p : Nat) : Mach :=
  let removing := m.partState p == pREMOVING
  let m := m.resetResources p removing
  let m := (m.setPart p {}).setPartState p (if removing then pFREE else pCONFIG)
  (m.wr64 (aPart p Reg.PART_EVENT_TIME) (BitVec.ofNat 64 (m.now 0))).partNotice p

/-- The sequence carried on through every step whose predecessor is complete; step 4 ends no earlier than 400,000 ticks
after step 3. -/
def Mach.resetOn (m : Mach) (p : Nat) : Nat → Mach
  | 0 => m
  | n + 1 =>
    let x := m.part p
    if !m.resetting p then m
    else match x.resetStep with
      | 0 => if m.coreResetIn p then m else (m.resetStep1 p).resetOn p n
      | 1 => if m.step1Done p then (m.resetStep2 p).resetOn p n else m
      | 2 => if m.drained p then (m.resetStep3 p).resetOn p n
             else if expired (m.now 0) x.resetFrom 10000 then ((m.endDrain p).resetStep3 p).resetOn p n else m
      | 3 => if !expired (m.now 0) x.resetFrom 400000 then m
             else
               let m := m.resetStep4 p
               if m.step4Done p then (m.zeroise p).resetStep6 p else m
      | _ => m

/-- RESET_STEP4_TIMEOUT: the sequence of a partition carried on; 400,000 ticks after step 3 it ends (R414). -/
def execResetStep4Timeout (p : Part) : State → Host.Outcome State Fault Refusal := whenOn fun m => m.resetOn p.val 5

/-- `reset` and `remove` (Table 14.3). -/
def Mach.partResetCmd (m : Mach) (p : Nat) (removing : Bool) : Mach × Status :=
  let s := m.partState p
  if s = pFREE then (m, .errDecode)
  else if s = pREMOVING then (m, if removing then .ok else .busyResetting)
  else if s = pRESETTING then (if removing then m.setPartState p pREMOVING else m, .ok)
  else ((m.resetTaken p removing).resetOn p 5, .ok)

/-! ### Pre-emption by the driver (R408, R412) -/

/-- The status of a command that only an ACTIVE partition takes, in another state (Table 14.3). -/
def Mach.onlyActive (m : Mach) (p : Nat) : Option Status :=
  let s := m.partState p
  if s = pACTIVE then none
  else if s = pFREE ∨ s = pCONFIG then some .errDecode
  else if m.resetting p then some .busyResetting else some .busyOwned

/-- `preempt` (R407, R408). -/
def Mach.partPreempt (m : Mach) (p k : Nat) : Mach × Status :=
  let q := 64 * p + k
  match m.onlyActive p with
  | some st => (m, st)
  | none =>
    match m.launches.find? fun x => x.2.queue == q && x.2.stat == .running && !x.2.halted with
    | none => (m, .busyOwned)
    | some (l, y) =>
      if m.saveAddr q = 0 then (m, .busyOwned)
      else if !m.inGranules p (m.saveAddr q) (saveBytes y.clusters.length) then (m, .errSecurity)
      else if m.hasSuspended q ∨ m.debugHalted y then (m, .busyOwned)
      else (m.preempt l true, .ok)

/-- `resume` (R412): a launch whose clusters are all free is restored at once. -/
def Mach.partResume (m : Mach) (p k : Nat) : Mach × Status :=
  let q := 64 * p + k
  match m.onlyActive p with
  | some st => (m, st)
  | none =>
    match m.launches.find? fun x => x.2.queue == q && (x.2.stat == .suspended || x.2.stat == .restoring) with
    | none => (m, .busyOwned)
    | some (l, y) =>
      let m := m.updLaunch l fun y => { y with resumed := true }
      (match y.clusters with
       | cl :: _ => if y.stat = .suspended ∧ m.clusterFree cl then m.award cl else m
       | [] => m, .ok)

/-! ### Freezing and thawing (R418, R420, R421, R486) -/

/-- A running launch that a freeze pre-empts: its queue has a save area and no suspended launch. -/
def Mach.freezes (m : Mach) (p : Nat) (y : Launch) : Bool :=
  qPart y.queue == p && y.stat == .running && !y.halted && m.saveAddr y.queue != 0 && !m.hasSuspended y.queue &&
    !m.debugHalted y && m.inGranules p (m.saveAddr y.queue) (saveBytes y.clusters.length)

/-- The running launches of a partition that a freeze pre-empts. -/
def Mach.freezeLaunches (m : Mach) (p : Nat) : Mach :=
  m.launches.foldl (fun m x => match m.launch? x.1 with
    | some y => if m.freezes p y then m.preempt x.1 false else m
    | none => m) m

/-- `freeze` (R420): no descriptor begins, and the timeouts of waiting ACQUIREs pause. -/
def Mach.partFreeze (m : Mach) (p : Nat) : Mach × Status :=
  let s := m.partState p
  let base := (m.rd64 (aPart p Reg.PART_FREEZE_BASE)).toNat
  if s = pFREE ∨ s = pCONFIG then (m, .errDecode)
  else if m.resetting p then (m, .busyResetting)
  else if s = pFREEZING ∨ s = pFROZEN then (m, .ok)
  else if !m.inGranules p base 65536 then (m, .errSecurity)
  else if m.fld (aPart p Reg.PART_CFG) 9 2 ≠ 2 then (m, .errDecode)
  else
    let m := (m.setPartState p pFREEZING).setPart p { m.part p with freezing := true }
    let m := { m with
      queues := m.queues.map fun (x : Nat × QueueSt) =>
        if qPart x.1 = p then (x.1, { x.2 with semFrom := none, semKept := x.2.semFrom.map fun v => m.now 0 - v }) else x }
    (m.freezeLaunches p, .ok)

/-- Steps 2 and 3 of a freeze are complete: only suspended launches and waiting ACQUIREs are left, and every request has
completed. -/
def Mach.freezeRest (m : Mach) (p : Nat) : Bool :=
  (m.launches.all fun x => qPart x.2.queue != p || x.2.stat == .suspended) &&
    (m.queues.all fun x => qPart x.1 != p || (x.2.ended.isEmpty && x.2.jobs.all fun j =>
      j.kind == 6 || (j.kind == 1 && m.launches.any fun y => y.2.queue == x.1 && y.2.seq == j.seq && y.2.stat == .suspended))) &&
    m.reqs.all fun x => x.2.part != p || x.2.ans.isSome || match x.2.src with
      | .notice _ _ => true
      | _ => false

/-- One line written back and kept Clean (R420, step 4); one whose contributions are not merged is merged first. A line whose write
its channel would refuse now stays as it is. -/
def Mach.cleanLine (m : Mach) (line : Nat) : Mach :=
  match m.hline? line with
  | none => m
  | some h =>
    if h.pend.isSome ∨ (m.chanBar (m.hd line) (m.hc line)).isSome then m
    else match h.st with
      | .dirty =>
        let r := m.scanWay line h
        (r.1.writeBack line r.2).setHline line { r.2 with st := .clean }
      | .combining => m.fetchBase line h .idle
      | _ => m

/-- The slices have written a partition's lines back. -/
def Mach.cleaned (m : Mach) (p : Nat) : Bool :=
  !m.writesDue p && m.lines.all fun x => !m.lineOf p x.1 || (x.2.st == .clean && x.2.pend.isNone) || m.lineStays x.1

/-- A freeze carried on; once every line is written back, the image is written and the partition is FROZEN. -/
def Mach.freezeOn (m : Mach) (p : Nat) : Mach :=
  if m.partState p ≠ pFREEZING then m
  else
    let m := m.freezeLaunches p
    if !m.freezeRest p then m
    else
      let m := (m.lines.map (·.1)).foldl (fun m line => if m.lineOf p line then m.cleanLine line else m) m
      if !m.cleaned p then m
      else
        let m := m.scribbleArea (m.rd64 (aPart p Reg.PART_FREEZE_BASE)).toNat 65536
        ((m.setPart p { m.part p with freezing := false }).setPartState p pFROZEN).partNotice p

/-- FREEZE_COMPLETE. -/
def execFreezeComplete (p : Part) : State → Host.Outcome State Fault Refusal := whenOn fun m => m.freezeOn p.val

/-- What a state image holds (R420): the owned clusters, the queues' registers and work, the semaphores with their waiters,
the bucket, and the suspended launches. -/
structure FreezeImage where
  clusters : List Nat
  queueRegs : List (List W32)
  queues : List QueueSt
  sems : List (W32 × W32 × List Nat)
  tokens : W32
  launches : List Launch
deriving DecidableEq, Repr

end Sys2Proof.Machine
namespace Sys2Proof.Config

/-- The image that bytes spell: "Its layout is internal to the device, with a version and a CRC-32" (R420). None where
the version is unknown or the CRC fails. What the save areas hold is not given either, so that each reading is fresh. -/
opaque thawImage : Nat → List Byte → Option Sys2Proof.Machine.FreezeImage

end Sys2Proof.Config
namespace Sys2Proof.Machine

/-- A queue number of a source partition as one of the target's. -/
def moveQueue (p q : Nat) : Nat := 64 * p + q % 64

/-- A scratchpad that an image holds, within the array's bytes. -/
def imageSpad (cs : List Host.Cell) : List Host.Cell :=
  cs.foldl (fun a c => if c.1 < 262144 then Cells.write a c.1 c.2 else a) []

/-- A group that an image holds: it has nothing outstanding. -/
def Group.fromImage (x : Group) : Group :=
  { x with outs := [], full := [], loads := [], fetchRid := none, ir := none, fline := none, resv := none }

/-- A cluster's part of a suspended launch that an image holds, kept to that cluster and its launch (R6). -/
def SavedCl.fromImage (p l : Nat) (x : SavedCl) : SavedCl :=
  let slots := slotsOfCluster x.cluster
  { x with
    slots := x.slots.filter fun r => r.1 < 64
    cores := Tab.mapV (x.cores.filter fun c => slots.contains c.1) fun k => { k with
      launch := k.launch.map fun _ => l
      lastLaunch := k.lastLaunch.map fun _ => l
      spad := imageSpad k.spad
      l1 := []
      reset := false }
    groups := Tab.mapV (x.groups.filter fun g => slots.contains (g.1 / 8)) Group.fromImage
    mover := (x.mover.filter fun t => slots.contains t.slot && t.queue.isNone).map fun t =>
      { t with part := p, pend := [], bytes := [], bad := [], wpend := none } }

/-- A suspended launch that an image holds, kept to the partition's queues and clusters (R6). -/
def Launch.fromImage (y : Launch) (p l : Nat) (own : List Nat) : Launch :=
  { y with
    queue := moveQueue p y.queue
    stat := .suspended
    attached := false
    clusters := y.clusters.filter own.contains
    saved := (y.saved.filter fun x => own.contains x.cluster).map fun x => x.fromImage p l }

/-- An image restored into a partition (R421). Whatever it spells, it reaches nothing but the partition's own queues, semaphores
and clusters (R6). -/
def Mach.restoreImage (m : Mach) (p : Nat) (x : FreezeImage) : Mach :=
  let own := m.ownClusters p
  let m := ((x.queueRegs.take 64).zipIdx).foldl (fun m r =>
    let q := 64 * p + r.2
    let m := m.wrWords (aQ q Reg.Q_BASE) (r.1.take 16)
    if noticeAddr (m.rd64 (aQ q Reg.Q_IRQ_ADDR)) then m else m.wr64 (aQ q Reg.Q_IRQ_ADDR) 0) m
  let m := ((x.queues.take 64).zipIdx).foldl (fun m r => m.setQueue (64 * p + r.2) { r.1 with
    eng := []
    next := none
    semFrom := (r.1.semKept).map fun v => m.now 0 - v
    semKept := none }) m
  let m := ((x.sems.take 64).zipIdx).foldl (fun m r =>
    { (m.wr (aSemV (64 * p + r.2)) r.1.1).wr (aSemO (64 * p + r.2)) (r.1.2.1 &&& 0x7F) with
      semWait := m.semWait.put (64 * p + r.2) (r.1.2.2.map (moveQueue p)) }) m
  let m := m.wr (aPart p Reg.PART_TOKENS) (x.tokens &&& 0xFFFF)
  x.launches.foldl (fun m y =>
    let y := y.fromImage p m.nextLaunch own
    { m.qSuspended y.queue true y.byDriver false with
      launches := m.launches.put m.nextLaunch y, nextLaunch := m.nextLaunch + 1 }) m

/-- The restores that a partition's clusters now allow begin. -/
def Mach.awardAll (m : Mach) (p : Nat) : Mach :=
  (m.ownClusters p).foldl (fun m cl => if m.clusterFree cl then m.award cl else m) m

/-- `thaw` (R421, R486). -/
def Mach.partThaw (m : Mach) (p : Nat) : Mach × Status :=
  let s := m.partState p
  if s = pFREE then (m, .errDecode)
  else if m.resetting p then (m, .busyResetting)
  else if s = pFROZEN then
    let m := { m with
      queues := m.queues.map fun (x : Nat × QueueSt) =>
        if qPart x.1 = p then (x.1, { x.2 with semKept := none, semFrom := x.2.semKept.map fun v => m.now 0 - v }) else x }
    ((m.setPartState p pACTIVE).awardAll p, .ok)
  else if s ≠ pCONFIG then (m, .busyOwned)
  else if m.sable p ∧ (m.key p).memKey.isNone then (m, .errSecurity)
  else
    let base := (m.rd64 (aPart p Reg.PART_FREEZE_BASE)).toNat
    if base / 128 + 512 > allLines then (m, .errDecode)
    else
      let bytes := (List.range 512).flatMap fun k => lineBytes (m.peekLine (base / 128 + k)).1 0 128
      match Config.thawImage m.fresh bytes with
      | none => ({ m with fresh := m.fresh + 1 }, .errDecode)
      | some x =>
        if x.clusters ≠ m.ownClusters p then ({ m with fresh := m.fresh + 1 }, .errDecode)
        else ((({ m with fresh := m.fresh + 1 }.restoreImage p x).setPartState p pACTIVE).awardAll p, .ok)

/-! ### Commands (R392) -/

/-- A command written to `PART_CMD`; `status` of `PART_STATE` holds what it completes with. -/
def Mach.partCmd (m : Mach) (p code k : Nat) : Mach × Status :=
  let (m, st) := match code with
    | 1 => m.partCreate p
    | 2 => m.partActivate p
    | 3 => m.partResetCmd p false
    | 4 => m.partResetCmd p true
    | 5 => m.partPreempt p k
    | 6 => m.partResume p k
    | 7 => m.partFreeze p
    | 8 => m.partThaw p
    | _ => (m, .errDecode)
  (m.setFld (aPart p Reg.PART_STATE) 8 8 st.code.toNat, st)

/-- PART_CREATE. -/
def execPartCreate (who : Requester) (p : Part) : State → Host.Outcome State Fault Refusal :=
  whenOn fun m => m.regWrite who 0 (aPart p.val Reg.PART_CMD) fun m => m.partCmd p.val 1 0
/-- PART_ACTIVATE. -/
def execPartActivate (who : Requester) (p : Part) : State → Host.Outcome State Fault Refusal :=
  whenOn fun m => m.regWrite who 0 (aPart p.val Reg.PART_CMD) fun m => m.partCmd p.val 2 0
/-- PART_RESET. -/
def execPartReset (who : Requester) (p : Part) : State → Host.Outcome State Fault Refusal :=
  whenOn fun m => m.regWrite who 0 (aPart p.val Reg.PART_CMD) fun m => m.partCmd p.val 3 0
/-- PART_REMOVE. -/
def execPartRemove (who : Requester) (p : Part) : State → Host.Outcome State Fault Refusal :=
  whenOn fun m => m.regWrite who 0 (aPart p.val Reg.PART_CMD) fun m => m.partCmd p.val 4 0
/-- PART_PREEMPT. -/
def execPartPreempt (who : Requester) (p : Part) (q : Fin 64) : State → Host.Outcome State Fault Refusal :=
  whenOn fun m => m.regWrite who 0 (aPart p.val Reg.PART_CMD) fun m => m.partCmd p.val 5 q.val
/-- PART_RESUME. -/
def execPartResume (who : Requester) (p : Part) (q : Fin 64) : State → Host.Outcome State Fault Refusal :=
  whenOn fun m => m.regWrite who 0 (aPart p.val Reg.PART_CMD) fun m => m.partCmd p.val 6 q.val
/-- PART_FREEZE. -/
def execPartFreeze (who : Requester) (p : Part) : State → Host.Outcome State Fault Refusal :=
  whenOn fun m => m.regWrite who 0 (aPart p.val Reg.PART_CMD) fun m => m.partCmd p.val 7 0
/-- PART_THAW. -/
def execPartThaw (who : Requester) (p : Part) : State → Host.Outcome State Fault Refusal :=
  whenOn fun m => m.regWrite who 0 (aPart p.val Reg.PART_CMD) fun m => m.partCmd p.val 8 0

end Sys2Proof.Machine
end

