-- ==== Sys2Proof/Machine/Power.lean ====
section
/-! DEFINITION. Power, droop, temperature and gating (R41, R45, R301 to R303, R379, R423 to R444), and the training and
loss of the Vilpin link (R269, R361, R362). -/
namespace Sys2Proof.Machine

/-- The power block of a die runs: its die has joined and its manager works (Table 16.4). -/
def Mach.powerRuns (m : Mach) (die : Nat) : Bool := m.bit (at_ die Reg.CLK_EN) 2

/-! ### Operating points (R423, R429) -/

/-- The driver's target of a die, and the target in force, in mV. -/
def Mach.vcoreTarget (m : Mach) (die : Nat) : Nat := m.fld (at_ die Reg.PWR_VCORE_TARGET) 0 10
def Mach.vcoreApplied (m : Mach) (die : Nat) : Nat := m.fld (at_ die Reg.PWR_VCORE_STATUS) 10 10
/-- The target in force set: VCORE ramps while it is more than 5 mV away (R423). -/
def Mach.setApplied (m : Mach) (die mv : Nat) : Mach :=
  let a := at_ die Reg.PWR_VCORE_STATUS
  let got := m.fld a 0 10
  (m.setFld a 10 10 mv).setBit a 20 (decide ((got - mv) + (mv - got) > 5))
/-- `cap_vcore`: some die runs below its driver's target (R429). -/
def Mach.noteCapVcore (m : Mach) : Mach :=
  m.setBit (at_ 0 Reg.PWR_CAP_STATUS) 0 ((List.range 16).any fun d => decide (m.vcoreApplied d < m.vcoreTarget d))

/-- A write of `PWR_VCORE_TARGET`: a target lowered by the cap stays so (R423, R429). -/
def Mach.vcoreWrite (m : Mach) (die : Nat) (v : W32) : Mach × Status :=
  let mv := bitsOf v.toNat 0 10
  if mv < 500 ∨ mv > 800 ∨ mv % 5 ≠ 0 then (m, .errDecode)
  else
    let now := m.vcoreApplied die
    let mv' := if now < m.vcoreTarget die then min mv now else mv
    (((m.setFld (at_ die Reg.PWR_VCORE_TARGET) 0 10 mv).setApplied die mv').noteCapVcore, .ok)

/-- VCORE_TARGET_WRITE. -/
def execVcoreTargetWrite (who : Requester) (die : Die) (v : W32) : State → Host.Outcome State Fault Refusal :=
  whenOn fun m => m.regWrite who die.val Reg.PWR_VCORE_TARGET fun m => m.vcoreWrite die.val v

/-- VCORE_RAMP_DONE: VCORE has come within 5 mV of the target in force, at a value not given. -/
def execVcoreRampDone (die : Die) : State → Host.Outcome State Fault Refusal :=
  whenOn fun m =>
    let a := at_ die.val Reg.PWR_VCORE_STATUS
    if !m.bit a 20 then m
    else
      let (x, m) := m.draw
      (m.setFld a 0 10 (m.vcoreApplied die.val - 5 + x.toNat % 11)).setBit a 20 false

/-! ### The limiter's setting (R426) -/

/-- `k_applied` of a die is the least of its settings. -/
def Mach.limit (m : Mach) (die : Nat) : Mach :=
  let a := at_ die Reg.PWR_LIMIT
  let k := min (m.fld a 8 7) (m.fld a 16 7)
  m.setFld a 0 7 (if m.bit a 7 then min k (m.fld (at_ die Reg.PWR_DROOP_CFG) 8 7) else k)
/-- `k_cap`, which is one for every die. -/
def Mach.kCap (m : Mach) : Nat := m.fld (at_ 0 Reg.PWR_LIMIT) 8 7
/-- `k_cap` of every die set. -/
def Mach.setKCap (m : Mach) (k : Nat) : Mach :=
  (List.range 16).foldl (fun m d => (m.setFld (at_ d Reg.PWR_LIMIT) 8 7 k).limit d) m

/-! ### Gating clusters (R438, R439) -/

/-- A cluster gated: its cores keep no scratchpad or L1 contents (R438). -/
def Mach.gateCluster (m : Mach) (cl : Nat) : Mach :=
  let m := (slotsOfCluster cl).foldl (fun m slot =>
    if (m.cores.get? slot).isNone then m
    else let c := m.core slot; m.setCore slot { c with spad := [], spadSoft := [], spadBad := [], l1 := [] }) m
  m.setBit64 (at_ (cl / 36) Reg.PWR_GATED) (cl % 36) true
/-- A cluster that is gated. -/
def Mach.isGated (m : Mach) (cl : Nat) : Bool := m.bit64 (at_ (cl / 36) Reg.PWR_GATED) (cl % 36)

/-- A write of `PWR_GATE_REQ` (R439). -/
def Mach.gateReq (m : Mach) (die : Nat) (v : W32) : Mach × Status :=
  let a := at_ die Reg.PWR_GATE_REQ
  let k := bitsOf v.toNat 0 6
  let op := bitsOf v.toNat 6 2
  let cl := die * 36 + k
  if op ≠ 1 ∧ op ≠ 2 then (m, .ok)
  else if k > 35 then m.finishCmd a 8 .errDecode
  else if op = 1 then (if m.clusterBusy cl then m.finishCmd a 8 .busyOwned else (m.gateCluster cl).finishCmd a 8 .ok)
  else if !m.isGated cl then m.finishCmd a 8 .ok
  else
    let m := m.setBit64 (at_ die Reg.PWR_GATED) k false
    let c := m.cluster cl
    (m.setCluster cl { c with idle := m.now die }).finishCmd a 8 .ok

/-- GATE. -/
def execGate (who : Requester) (die : Die) (cl : BitVec 6) : State → Host.Outcome State Fault Refusal :=
  whenOn fun m => m.regWrite who die.val Reg.PWR_GATE_REQ fun m => m.gateReq die.val (cl.setWidth 32 ||| 0x40)
/-- WAKE_CLUSTER. -/
def execWakeCluster (who : Requester) (die : Die) (cl : BitVec 6) : State → Host.Outcome State Fault Refusal :=
  whenOn fun m => m.regWrite who die.val Reg.PWR_GATE_REQ fun m => m.gateReq die.val (cl.setWidth 32 ||| 0x80)

/-! ### The power cap (R427 to R429, R441, R442) -/

/-- The cap in mW. -/
def Mach.capMw (m : Mach) : Nat := 1000 * m.fld (at_ 0 Reg.PWR_CAP) 0 13
/-- The mean input power of the latest loop period, in mW. -/
def Mach.inputMw (m : Mach) : Nat := (m.rd (at_ 0 Reg.PWR_INPUT)).toNat

/-- A write of `PWR_CAP`. -/
def Mach.capWrite (m : Mach) (v : W32) : Mach × Status :=
  let w := bitsOf v.toNat 0 13
  if w < 2500 ∨ w > 7200 then (m, .errDecode) else (m.setFld (at_ 0 Reg.PWR_CAP) 0 13 w, .ok)

/-- PWR_CAP_WRITE. -/
def execPwrCapWrite (who : Requester) (v : W32) : State → Host.Outcome State Fault Refusal :=
  whenOn fun m => m.regWrite who 0 Reg.PWR_CAP fun m => m.capWrite v

/-- The setting that the loop gives after a period of mean `p` under a cap, both in mW (R428). -/
def capLoopK (cap p k : Nat) (held : Bool) : Nat :=
  if p > cap then max 1 (k - (64 * (p - cap) + cap - 1) / cap)
  else
    let d := 64 * (cap - p) / cap
    if d ≥ 1 ∧ held = false then min 64 (k + min 2 d) else k

/-- The registers and the power step of a partition's hint (R430, R432). -/
def aHint (p : Nat) : Nat := at_ 0 (Reg.PWR_HINT + 8 * p)
def aHintE (p : Nat) : Nat := at_ 0 (Reg.PWR_HINT_E + 8 * p)
/-- The phase of the hint in force of a partition, 3 for none. -/
def Mach.phase (m : Mach) (p : Nat) : Nat := m.fld (aHint p) 0 2

/-- A loop period has ended under a partition's hint: a heavy-matrix phase records its power step from the second one
(R432, step 3). -/
def Mach.hintPeriod (m : Mach) (mw k p : Nat) : Mach :=
  if m.phase p = 3 then m
  else
    let x := m.part p
    let m := m.setPart p { x with hintPeriods := x.hintPeriods + 1 }
    let n := (m.ownClusters p).length
    if m.phase p = 1 ∧ x.hintPeriods = 1 ∧ n ≠ 0 then
      m.setFld (aHintE p) 0 16 (min ((mw - x.hintMw) * 64 / k / n) 65535)
    else m

/-- The steward moves every applied target by 10 mV, downward to 500 mV or upward to the driver's (R429). -/
def Mach.moveApplied (m : Mach) (down : Bool) : Mach :=
  (List.range 16).foldl (fun m d =>
    let a := m.vcoreApplied d
    let b := if down then max 500 (a - 10) else min (m.vcoreTarget d) (a + 10)
    if b = a then m else m.setApplied d b) m

/-- A status bit of the cap raised, with its record, unless it stands already (R429, R441). -/
def Mach.capAlarm (m : Mach) (bit info : Nat) : Mach :=
  if m.bit (at_ 0 Reg.PWR_CAP_STATUS) bit then m
  else (m.setBit (at_ 0 Reg.PWR_CAP_STATUS) bit true).logFault 0 0x09 .ok 0 false 0 0 info

/-- The applied targets under the cap (R429): `k` is `k_cap` during the period that has ended. -/
def Mach.capVcore (m : Mach) (mw k : Nat) : Mach :=
  let excess := decide (mw > m.capMw)
  let floor := (List.range 16).all fun d => m.vcoreApplied d == 500
  let m' := if excess && k == 1 && floor then m.capAlarm 1 1 else m
  let m' := if excess && k == 1 && decide (m.capLow ≥ 10) then m'.moveApplied true
            else if decide (m.capUnder ≥ 100) then m'.moveApplied false else m'
  m'.noteCapVcore

/-- The coolant sensors read out (R441). -/
def Mach.coolant (m : Mach) (inA outA inB outB : Nat) : Mach :=
  let m := m.wr (at_ 0 Reg.PWR_COOLANT) (BitVec.ofNat 32 (inA + 256 * (outA + 256 * (inB + 256 * outB))))
  let bad (i o : Nat) : Bool := decide (o > i + 12) || decide (i < 15) || decide (i > 40)
  if bad inA outA || bad inB outB then m.capAlarm 2 2 else m

/-- The end of a loop period of the steward, with its measurements (R428, R429, R432, R441). -/
def Mach.capLoop (m : Mach) (mw volt inA outA inB outB : Nat) : Mach :=
  let k := m.kCap
  let m := (List.range 32).foldl (fun m p => m.hintPeriod mw k p) m
  let m := (m.wr (at_ 0 Reg.PWR_INPUT) (BitVec.ofNat 32 mw)).wr (at_ 0 Reg.PWR_INPUT_VOLT) (BitVec.ofNat 32 volt)
  let m := { m with capAt := m.now 0, capUnder := if 100 * mw < 95 * m.capMw then m.capUnder + 1 else 0 }
  let m := m.capVcore mw k
  let m := { m with capLow := if k = 1 then m.capLow + 1 else 0 }
  let m := { m.setKCap (capLoopK m.capMw mw k m.capHeld) with capHeld := false }
  m.coolant inA outA inB outB

/-- Input energy of a loop period of 100 µs, added to the counter, in µJ (R442). -/
def addEnergy (e : W64) (mw : Nat) : W64 := BitVec.ofNat 64 (min (e.toNat + mw / 10) (2 ^ 64 - 1))

/-- CAP_LOOP: each time die 0's timer reaches a multiple of 10,000 ticks. -/
def execCapLoop (mw : W32) (volt : BitVec 16) (inA outA inB outB : Byte) (s : State) : Host.Outcome State Fault Refusal :=
  if s.m.powered && s.m.powerRuns 0 && s.m.now 0 % 10000 == 0 && s.m.capAt != s.m.now 0 then
    .next { s with
      kept := { s.kept with energy := addEnergy s.kept.energy mw.toNat }
      m := s.m.capLoop mw.toNat volt.toNat inA.toNat outA.toNat inB.toNat outB.toNat }
  else .next s

/-! ### Power hints (R379, R430 to R432) -/

/-- The feed-forward of a heavy-matrix hint (R432, steps 1 and 2), in mW: the quotient of step 2 is 64 × (cap − p_now) ÷
(E × clusters). -/
def Mach.feedForward (m : Mach) (p : Nat) : Mach :=
  let e := m.fld (aHintE p) 0 16 * (m.ownClusters p).length
  let now := m.inputMw
  if 64 * now + e * m.kCap > 64 * m.capMw ∧ e ≠ 0 then
    { m.setKCap (max 1 (min m.kCap (64 * (m.capMw - now) / e))) with capHeld := true }
  else m

/-- The free clusters of a partition are gated at once (Table 15.2, phase 0). -/
def Mach.gateFree (m : Mach) (p : Nat) : Mach :=
  (m.ownClusters p).foldl (fun m cl => if m.clusterFree cl && !m.isGated cl then m.gateCluster cl else m) m

/-- A hint of a partition begins. -/
def Mach.hint (m : Mach) (p phase duration : Nat) : Mach :=
  let m := m.setFld (aHint p) 0 2 phase
  let m := m.setPart p { m.part p with
    hintUntil := if duration = 0 then none else some (m.now 0 + duration)
    hintPeriods := 0
    hintMw := m.inputMw }
  match phase with
  | 0 => m.gateFree p
  | 1 => m.feedForward p
  | _ => m

/-- A power-hint descriptor begins and ends at once (R379). -/
def Mach.beginHint (m : Mach) (q : Nat) (d : List Byte) : Mach :=
  if descF d 8 1 > 2 ∨ !zeroIn d 9 12 ∨ !zeroIn d 16 128 then m.beginEnd q d .errDecode
  else (m.beginEnd q d .ok).hint (qPart q) (descF d 8 1) (descF d 12 4)

/-- POWER_HINT. -/
def execPowerHint (q : Queue) : State → Host.Outcome State Fault Refusal :=
  whenOn fun m => m.beginDesc q.val 5 fun m d => m.beginHint q.val d

/-- HINT_EXPIRY: the duration of a partition's hint has passed (R51). -/
def execHintExpiry (p : Part) : State → Host.Outcome State Fault Refusal :=
  whenOn fun m => match (m.part p.val).hintUntil with
    | some t =>
      if m.now 0 ≤ t then m
      else (m.setFld (aHint p.val) 0 2 3).setPart p.val { m.part p.val with hintUntil := none }
    | none => m

/-- The mode of a die's regulator: that of the most demanding hint over its clusters (R431). -/
def Mach.regMode (m : Mach) (die : Nat) : Nat :=
  let has (ph : Nat) : Bool := (List.range 36).any fun k => match m.clusterOwner (36 * die + k) with
    | some p => m.phase p == ph
    | none => false
  if has 1 || has 2 then 1 else if has 0 then 2 else 0

/-! ### Droop (R433, R444) -/

/-- DROOP_TRIP: a detector of the die trips; a clamp already in force is extended. -/
def execDroopTrip (die : Die) (_cl : Fin 36) : State → Host.Outcome State Fault Refusal :=
  whenOn fun m =>
    if !m.powerRuns die.val then m
    else
      let d := m.dieSt die.val
      let hold := (m.fld (at_ die.val Reg.PWR_DROOP_CFG) 16 14 + 9) / 10
      let m := m.setDie die.val { d with clampUntil := some (m.now die.val + hold) }
      if d.clampUntil.isSome then m
      else ((m.count64 (at_ die.val Reg.PWR_DROOP_CNT) 1).setBit (at_ die.val Reg.PWR_LIMIT) 7 true).limit die.val

/-- CLAMP_RELEASE: VCORE has stood above its threshold for `hold_ns`. -/
def execClampRelease (die : Die) : State → Host.Outcome State Fault Refusal :=
  whenOn fun m =>
    let d := m.dieSt die.val
    match d.clampUntil with
    | none => m
    | some t =>
      if m.now die.val ≤ t then m
      else ((m.setDie die.val { d with clampUntil := none }).setBit (at_ die.val Reg.PWR_LIMIT) 7 false).limit die.val

/-- A write of `PWR_DROOP_CFG` (R444). -/
def Mach.droopCfg (m : Mach) (die : Nat) (v : W32) : Mach × Status :=
  let mv := bitsOf v.toNat 0 8
  let k := bitsOf v.toNat 8 7
  let ns := bitsOf v.toNat 16 14
  if mv < 10 ∨ mv > 100 ∨ k < 1 ∨ k > 64 ∨ ns < 100 ∨ ns > 10000 then (m, .errDecode)
  else ((m.wr (at_ die Reg.PWR_DROOP_CFG) (BitVec.ofNat 32 (mv + 256 * k + 65536 * ns))).limit die, .ok)

/-- DROOP_CFG_WRITE. -/
def execDroopCfgWrite (who : Requester) (die : Die) (v : W32) : State → Host.Outcome State Fault Refusal :=
  whenOn fun m => m.regWrite who die.val Reg.PWR_DROOP_CFG fun m => m.droopCfg die.val v

/-- A write of `PWR_THERM_CFG` (R444). -/
def Mach.thermCfg (m : Mach) (die : Nat) (v : W32) : Mach × Status :=
  let t := bitsOf v.toNat 0 8
  if t < 80 ∨ t > 100 then (m, .errDecode) else (m.setFld (at_ die Reg.PWR_THERM_CFG) 0 8 t, .ok)

/-- THERM_CFG_WRITE. -/
def execThermCfgWrite (who : Requester) (die : Die) (v : W32) : State → Host.Outcome State Fault Refusal :=
  whenOn fun m => m.regWrite who die.val Reg.PWR_THERM_CFG fun m => m.thermCfg die.val v

/-! ### Halting an array (R41, R434, R437) -/

/-- A die's array halted by its undervoltage monitor (bit 0) or for its temperature (bit 1): a fatal fault. -/
def Mach.haltArray (m : Mach) (die bit : Nat) : Mach :=
  let m := { m.setDie die { m.dieSt die with halted := true } with warmDue := m.warmDue || bit == 0 }
  (m.setBit (at_ die Reg.PWR_EVENTS) bit true).fatal die 0x07 die 0 0x07

/-- UNDERVOLTAGE. -/
def execUndervoltage (die : Die) : State → Host.Outcome State Fault Refusal :=
  whenOn fun m => if m.powerRuns die.val then m.haltArray die.val 0 else m

/-! ### The loop period of a die (R301 to R303, R435 to R437, R439) -/

/-- A limit of Table 11.4 is in force: its entry value is reached, or it was in force and 2 K are not yet lost. -/
def limitIn (was : Bool) (entry t : Nat) : Bool := decide (t ≥ entry) || (was && decide (t + 2 > entry))

/-- `throttle` after a stack's temperature is known (R302). -/
def throttleOf (old t : Nat) : Nat :=
  if limitIn (decide (old ≥ 3)) 101 t then 3
  else if limitIn (decide (old ≥ 2)) 98 t then 2
  else if limitIn (decide (old ≥ 1)) 95 t then 1 else 0

/-- A channel learns the temperature of its stack (R301, R302); a move of 5 K begins a round, or is taken by the one that runs
(R299). -/
def Mach.chanTemp (m : Mach) (die ch t : Nat) : Mach :=
  let a := aSlice die ch Reg.MC_THERMAL
  let x2 := limitIn (m.bit a 8) 85 t
  let th := throttleOf (m.fld a 9 2) t
  let m := ((m.setFld a 0 8 t).setBit a 8 x2).setFld a 9 2 th
  let c := m.chan die ch
  if (t - c.recalTemp) + (c.recalTemp - t) < 5 then m
  else if c.recalWire.isSome then m.setChan die ch { c with recalTemp := t }
  else m.recalStart die ch

/-- A stack above 105 °C: its channels are SHUT (R303). -/
def Mach.shutStack (m : Mach) (die s : Nat) : Mach :=
  if (List.range 16).all fun c => m.chanState die (16 * s + c) == cSHUT then m
  else
    let m := (List.range 16).foldl (fun m c =>
      let a := aSlice die (16 * s + c) Reg.MC_THERMAL
      ((m.setFld a 9 2 3).setBit a 11 true).chanDown die (16 * s + c) cSHUT) m
    m.fatal die 0x06 die 0 0x06

/-- The highest of the temperatures, and the first sensor that gives it. -/
def hottest (ts : List Nat) : Nat × Nat :=
  let t := ts.foldl max 0
  (t, (ts.findIdx? (· == t)).getD 0)

/-- `k_thermal` after a period (R436). -/
def kThermal (k t limit : Nat) : Nat := if t ≥ limit then max 1 (k - 4) else if t + 3 < limit then min 64 (k + 1) else k

/-- The clusters of a die that have been free long enough are gated (R439). -/
def Mach.autoGate (m : Mach) (die : Nat) : Mach :=
  if !m.bit (at_ die Reg.PWR_GATE_CFG) 0 then m
  else (List.range 36).foldl (fun m k =>
    let cl := 36 * die + k
    if m.clusterFree cl && !m.isGated cl && decide (m.now die ≥ (m.cluster cl).idle + (m.rd (at_ die Reg.PWR_GATE_IDLE)).toNat)
    then m.gateCluster cl else m) m

/-- The end of a die manager's loop period with the samples of its 13 sensors. -/
def Mach.diePeriod (m : Mach) (die : Nat) (ts : List Nat) : Mach :=
  let m := (ts.zipIdx).foldl (fun m x => m.wr (at_ die Reg.PWR_TEMP + 4 * x.2) (BitVec.ofNat 32 x.1)) m
  let top := hottest ts
  let m := m.wr (at_ die Reg.PWR_TEMP_MAX) (BitVec.ofNat 32 (top.1 + 256 * top.2))
  let m := (List.range 64).foldl (fun m ch => m.chanTemp die ch (ts.getD (ch / 16) 0)) m
  let m := (List.range 4).foldl (fun m s => if ts.getD s 0 > 105 then m.shutStack die s else m) m
  let a := at_ die Reg.PWR_LIMIT
  let m := (m.setFld a 16 7 (kThermal (m.fld a 16 7) top.1 (m.fld (at_ die Reg.PWR_THERM_CFG) 0 8))).limit die
  let m := m.autoGate die
  if (ts.drop 4).any fun t => decide (t > 110) then m.haltArray die 1 else m

/-- DIE_LOOP_PERIOD: each time the die's timer reaches a multiple of 10,000 ticks. -/
def execDieLoopPeriod (die : Die) (temps : BitVec 104) : State → Host.Outcome State Fault Refusal :=
  whenOn fun m =>
    let d := m.dieSt die.val
    if m.powerRuns die.val && m.now die.val % 10000 == 0 && d.periodAt != m.now die.val then
      (m.setDie die.val { d with periodAt := m.now die.val }).diePeriod die.val ((bytesOf temps.toNat 13).map (·.toNat))
    else m

/-! ### Gating a rim block's clock (R45) -/

/-- The crossing FIFOs of a rim block hold entries, in either direction (Table 2.2). -/
def Mach.crossingBusy (m : Mach) (die : Die) (b : RimBlock) : Bool :=
  match b with
  | .channel n => let c := m.chan die.val n.val; !c.sent.isEmpty || !c.out.isEmpty
  | .linkUnit p u => match fportOf ⟨die, p, u⟩ with
    | some fp => let p := m.port fp; !p.held.isEmpty || !p.tx.isEmpty || !p.rx.isEmpty
    | none => false
  | .clusters => false

/-- A rim block whose clock may be gated: the supervisors' domain cannot be stopped (Table 16.3), nor can a die link, which no
request takes down (R327), nor the host unit, by which the driver reaches the module (R362). -/
def gateable (die : Die) (b : RimBlock) : Bool :=
  match b with
  | .channel _ => true
  | .linkUnit p u => (fportOf ⟨die, p, u⟩).isSome
  | .clusters => false

/-- A rim block's clock gated: channels and link units are so through their own states (R451). -/
def Mach.gateBlock (m : Mach) (die : Die) (b : RimBlock) : Mach :=
  match b with
  | .channel n => if m.chanState die.val n.val == cFAILED || m.chanState die.val n.val == cSHUT then m else m.chanDown die.val n.val cOFF
  | .linkUnit p u => match fportOf ⟨die, p, u⟩ with
    | some fp => m.fpOff fp
    | none => m
  | .clusters => m

/-- RIM_CLOCK_GATE_REQUEST: gated at once when the crossing is empty. -/
def execRimClockGateRequest (die : Die) (blk : RimBlock) : State → Host.Outcome State Fault Refusal :=
  whenOn fun m =>
    if !gateable die blk then m.answer .busyOwned
    else if !m.crossingBusy die blk then (m.gateBlock die blk).answer .ok
    else if m.gates.any fun g => g.die == die.val && g.blk == blk then m
    else { m with gates := m.gates ++ [{ die := die.val, blk := blk, since := m.now die.val }] }

/-- CROSSING_DRAINED. -/
def execCrossingDrained (die : Die) (blk : RimBlock) : State → Host.Outcome State Fault Refusal :=
  whenOn fun m =>
    if !(m.gates.any fun g => g.die == die.val && g.blk == blk) || m.crossingBusy die blk then m
    else ({ m with gates := m.gates.filter fun g => !(g.die == die.val && g.blk == blk) }.gateBlock die blk).answer .ok

/-- RIM_CLOCK_GATE_TIMEOUT: after 10 µs, which are 1,000 ticks, the clock stays running. -/
def execRimClockGateTimeout (die : Die) (blk : RimBlock) : State → Host.Outcome State Fault Refusal :=
  whenOn fun m =>
    match m.gates.find? fun g => g.die == die.val && g.blk == blk with
    | none => m
    | some g =>
      if !expired (m.now die.val) g.since 1000 || !m.crossingBusy die blk then m
      else { m with gates := m.gates.filter fun g => !(g.die == die.val && g.blk == blk) }.answer .busyOwned

/-! ### The Vilpin link (R361, R362) -/

/-- The two lane groups of the host unit shown as locked, or not. -/
def Mach.hostGroups (m : Mach) (locked : Bool) : Mach := [0, 1].foldl (fun m g => m.setGroupState 0 3 g 3 locked false) m

/-- The link is trained, and the mode that every die shows (R269, R362). -/
def Mach.vilpinUp (m : Mach) (rev2 : Bool) : Mach :=
  if m.fld (at_ 0 Reg.VL_STATE) 0 3 ≠ 1 then m
  else
    let m := (m.setFld (at_ 0 Reg.VL_STATE) 0 5 (2 + 8 * (if rev2 then 2 else 1))).hostGroups true
    (List.range 16).foldl (fun m d => m.setFld (at_ d Reg.HOME_CMP_STATUS) 0 2 (if rev2 then 1 else 3)) m

/-- VILPIN_TRAINED. -/
def execVilpinTrained (rev2 : Bool) : State → Host.Outcome State Fault Refusal := whenOn fun m => m.vilpinUp rev2

/-- The link has lost its partner and trains again. -/
def Mach.vilpinDown (m : Mach) : Mach :=
  if !m.vlUp then m
  else
    let m := ((m.setFld (at_ 0 Reg.VL_STATE) 0 3 1).count64 (at_ 0 Reg.VL_DOWN_CNT) 1).hostGroups false
    (List.range 16).foldl (fun m d => m.setBit (at_ d Reg.HOME_CMP_STATUS) 0 false) m

/-- VILPIN_LOSS. -/
def execVilpinLoss : State → Host.Outcome State Fault Refusal := whenOn Mach.vilpinDown

end Sys2Proof.Machine
end

