-- ==== Sys2Proof/Machine/Reset.lean ====
section
/-! DEFINITION. Clocks (R449 to R452), firmware images (R470, R471, R473), start-up (R460 to R463), power-on and warm resets
(R453 to R456, R521, R524), core resets (R457), and standby (R458, R459). -/
namespace Sys2Proof.Machine

/-! ### Clocks -/

/-- Loop A of a die is locked. -/
def Mach.loopALocked (m : Mach) (die : Nat) : Bool := m.bit (at_ die Reg.CLK_STATUS) 3

/-- A write of `CLK_CTRL_SRC` (R449, Table 16.9). -/
def Mach.ctrlSrc (m : Mach) (die : Nat) (v : W32) : Mach × Status :=
  let a := at_ die Reg.CLK_CTRL_SRC
  if v.getLsbD 0 ∧ !m.loopALocked die then m.finishCmd a 8 .errGated else (m.setBit a 0 (v.getLsbD 0)).finishCmd a 8 .ok

/-- CLK_CTRL_SRC_WRITE. -/
def execClkCtrlSrcWrite (who : Requester) (die : Die) (v : W32) : State → Host.Outcome State Fault Refusal :=
  whenOn fun m => m.regWrite who die.val Reg.CLK_CTRL_SRC fun m => m.ctrlSrc die.val v

/-- A loss of lock counted. -/
def Mach.lockLost (m : Mach) (die : Nat) : Mach :=
  (m.setBit (at_ die Reg.CLK_STATUS) 9 true).countFld (at_ die Reg.CLK_LOCK_LOSS_CNT) 0 32 1

/-- LOOP_A_LOCK_LOSS (R450): of a die that runs. -/
def execLoopALockLoss (die : Die) : State → Host.Outcome State Fault Refusal :=
  whenOn fun m =>
    let d := die.val
    if !m.loopALocked d ∨ !(m.dieSt d).up then m
    else
      let m := ((m.setBit (at_ d Reg.CLK_STATUS) 3 false).setBit (at_ d Reg.CLK_STATUS) 8 true).lockLost d
      let m := (m.setBit (at_ d Reg.CLK_CTRL_SRC) 0 false).setFld (at_ d Reg.CLK_DOMAIN_STATUS) 0 2 0
      m.fatal d 0x07 d 0 0x07

/-- LOOP_B_LOCK_LOSS (R450): the lanes of an edge port stop. -/
def execLoopBLockLoss (die : Die) (n : Port) : State → Host.Outcome State Fault Refusal :=
  whenOn fun m =>
    let a := at_ die.val Reg.CLK_STATUS
    if m.bit a (4 + n.val) then (m.setBit a (4 + n.val) false).lockLost die.val else m

/-- A write of `CLK_EN` (R451): only the debug block's bit may change; dies 1 to 15 have no bits 5 to 7. -/
def Mach.clkEn (m : Mach) (die : Nat) (v : W32) : Mach × Status :=
  let a := at_ die Reg.CLK_EN
  let v := if die = 0 then v else v &&& 0xFFFFFF1F
  if (v ^^^ m.rd a) &&& 0xFF ≠ 0 then (m, .busyOwned) else (m.setBit a 8 (v.getLsbD 8), .ok)

/-- CLK_EN_WRITE. -/
def execClkEnWrite (who : Requester) (die : Die) (v : W32) : State → Host.Outcome State Fault Refusal :=
  whenOn fun m => m.regWrite who die.val Reg.CLK_EN fun m => m.clkEn die.val v

/-- What a die latches at a capture pulse (R452). -/
def Mach.capture (m : Mach) (die : Nat) : W64 :=
  if !(m.dieSt die).joined then 0 else if !m.loopALocked die then 0xFFFFFFFFFFFFFFFF else m.rd64 (at_ die Reg.CLK_RIM_TIMER)

/-- A write of `CLK_SNAP_CTRL`. -/
def Mach.snapshot (m : Mach) (v : W32) : Mach × Status :=
  let a := at_ 0 Reg.CLK_SNAP_CTRL
  if !v.getLsbD 0 then (m, .ok)
  else if m.bit a 1 then m.finishCmd a 8 .busyOwned
  else
    let m := (List.range 16).foldl (fun m d => m.wr64 (at_ 0 (Reg.CLK_SNAP_VAL + 8 * d)) (m.capture d)) m
    (m.setFld a 16 16 (m.fld a 16 16 + 1)).finishCmd a 8 .ok

/-- TIMER_SNAPSHOT. -/
def execTimerSnapshot (who : Requester) (v : W32) : State → Host.Outcome State Fault Refusal :=
  whenOn fun m => m.regWrite who 0 Reg.CLK_SNAP_CTRL fun m => m.snapshot v

/-! ### Firmware images -/

/-- Bytes of an image or message as a number. -/
def partOf (bs : List Byte) (o n : Nat) : Nat := ofBytes ((bs.drop o).take n)

/-- An image that is accepted (R470, Table 17.3): `kind` is 1 for the steward and 2 for the die manager. -/
def imageOk (svnMin kind : Nat) (header body : List Byte) (keys : Nat → BitVec 256) : Bool :=
  let k := partOf header 5 1
  let key := keys k
  decide (partOf header 0 4 = 0x54574649) && decide (partOf header 4 1 = kind) && decide (k < 4) && !Config.keyRevoked k &&
    Config.keyDigest k == (Config.sha512 (bytesOf key.toNat 32)).setWidth 256 &&
    Config.ed25519Verify key (header.take 128) (BitVec.ofNat 512 (partOf header 128 64)) &&
    decide (partOf header 64 64 = (Config.sha512 body).toNat) && decide (partOf header 8 4 ≥ svnMin)

/-- The header of an accepted image of a set. -/
def setHeader (svnMin : Nat) (dm : Bool) (set : List Byte) : Option (List Byte) :=
  match Config.imageParts set with
  | none => none
  | some (st, d, keys) =>
    let x := if dm then d else st
    if imageOk svnMin (if dm then 2 else 1) x.1 x.2 keys then some x.1 else none

/-- The image set of a bank. -/
def Kept.set (k : Kept) (bank : Bool) : List Byte := if bank then k.bankB else k.bankA

/-- The bank whose image runs, the given one first and the other once, with its header (R471). -/
def Kept.tryBanks (k : Kept) (dm first : Bool) : Option (Bool × List Byte) :=
  match setHeader k.svnMin dm (k.set first) with
  | some h => some (first, h)
  | none => (setHeader k.svnMin dm (k.set (!first))).map fun h => (!first, h)

/-- The selector at a boot: a trial set that has failed twice gives way to the previous bank (R473). -/
def Kept.select (k : Kept) : Kept :=
  if !k.trial then k
  else if k.trialFails ≥ 2 then { k with bank := !k.bank, trial := false, trialFails := 0 }
  else { k with trialFails := k.trialFails + 1 }

/-! ### Start-up -/

/-- STRAP_DELAY_EXPIRY (R460): stage 2 runs and the crystal checks begin; the model has no time of its own between the
stages 1 and 2. -/
def execStrapDelayExpiry : State → Host.Outcome State Fault Refusal :=
  whenOn fun m => if m.stage = 1 then { m.setFld (at_ 0 Reg.BOOT_STATE) 0 4 2 with strapDone := true } else m

/-- A count of 1,000 SOSC periods within 10 % of nominal. -/
def crystalOk (count nominal : Nat) : Bool := decide (10 * ((count - nominal) + (nominal - count)) ≤ nominal)

/-- Every die has locked loop A: die 0 leaves reset and its timer starts; how long it took is not given. -/
def Mach.leaveReset (m : Mach) : Mach :=
  let (us, m) := m.draw
  let m := (m.wr (at_ 0 Reg.BOOT_PRE_US) (us.setWidth 32)).setBit (at_ 0 Reg.CLK_DOMAIN_STATUS) 2 true
  (m.setDie 0 { m.dieSt 0 with up := true, joined := true }).endStage 2

/-- CRYSTAL_CHECK of one die (R460, R463). -/
def Mach.crystalCheck (m : Mach) (d countA countB : Nat) (locks : Bool) : Mach :=
  if m.stage ≠ 2 ∨ m.strapDone = false ∨ m.bootStopped ∨ m.loopALocked d then m
  else
    let a := at_ d Reg.CLK_STATUS
    let okA := crystalOk countA 25000
    let okB := crystalOk countB 156250
    let m := (m.setBit a 1 okA).setBit a 2 okB
    if !okA then m.bootFail 0x01 d
    else if !okB then m.bootFail 0x02 d
    else if !locks then m.bootFail 0x03 d
    else
      let m := ((m.setBit a 3 true).setBit (at_ d Reg.CLK_CTRL_SRC) 0 true).setFld (at_ d Reg.CLK_DOMAIN_STATUS) 0 2 3
      let m := m.enable d [0]
      if (List.range 16).all m.loopALocked then m.leaveReset else m

/-- CRYSTAL_CHECK. -/
def execCrystalCheck (die : Die) (countA countB : Nat) (locks : Bool) : State → Host.Outcome State Fault Refusal :=
  whenOn fun m => m.crystalCheck die.val countA countB locks

/-- A die starts its loops B and enables every die link that it has. -/
def Mach.startLinks (m : Mach) (d : Nat) : Mach :=
  let m := m.setFld (at_ d Reg.CLK_STATUS) 4 4 15
  (List.range 4).foldl (fun m p => if outward d p then m else m.setLu d p 0 1 0 1) m

/-- The steward runs: measurements 0 and 1, the security block and die 0's others, and die 0's links (R460, R474). -/
def Mach.stewardRuns (m : Mach) (k : Kept) (bank : Bool) (header : List Byte) : Mach :=
  let m := ({ m with runBank := bank }.extendHash 0 (Config.romFuseImage ++ bytesOf k.svnMin 8)).extendHash 1 header
  let m := m.wr64 (at_ 0 Reg.SEC_FW_RUN) (BitVec.ofNat 64 (partOf header 8 8))
  (((m.enable 0 [1, 2, 4, 7, 8]).bootRoles 0).startLinks 0).endStage 3

/-- STEWARD_BOOT (R471, R473). -/
def execStewardBoot (s : State) : Host.Outcome State Fault Refusal :=
  if !s.m.powered ∨ s.m.stage ≠ 3 ∨ s.m.bootStopped then .next s
  else
    let k := s.kept.select
    match k.tryBanks false k.bank with
    | none => .next { s with kept := k, m := s.m.bootFail 0x04 0 }
    | some (b, h) => .next { s with kept := k, m := s.m.stewardRuns k b h }

/-- A die leaves reset with a verified image (R460, R474). -/
def Mach.dieStarts (m : Mach) (d : Nat) (header : List Byte) : Mach :=
  let m := m.extendHash 2 (header ++ bytesOf d 1)
  let m := m.setBit (at_ d Reg.CLK_DOMAIN_STATUS) 2 true
  (((m.setDie d { m.dieSt d with up := true }).bootRoles d).startLinks d).joinOn

/-- DIE_JOIN (R460, R471): in the order of die numbers. -/
def execDieJoin (die : Die) (s : State) : Host.Outcome State Fault Refusal :=
  let d := die.val
  if !s.m.powered ∨ s.m.stage ≠ 4 ∨ s.m.bootStopped ∨ (s.m.dieSt d).up ∨ !(List.range d).all (fun e => (s.m.dieSt e).joined)
  then .next s
  else match s.kept.tryBanks true s.m.runBank with
    | none => .next { s with m := s.m.bootFail 0x04 d }
    | some (_, h) => .next { s with m := s.m.dieStarts d h }

/-- The bounds of stages 4 to 7, in ticks of die 0's timer (Table 16.7). -/
def stageBound (k : Nat) : Nat := match k with
  | 4 => 20000000
  | 5 => 60000000
  | 7 => 30000000
  | _ => 10000000

/-- The bound of the stage under way has passed. -/
def Mach.boundPassed (m : Mach) : Bool := expired (m.now 0) m.stageFrom (stageBound m.stage)

/-- STAGE_BOUND_EXPIRY (R461, R463): a die that has not joined, the channels that have not trained, or the Vilpin link; stage 7
ends without the fabric ports that found no partner, and stage 8 with it (log 49). -/
def Mach.boundExpiry (m : Mach) : Mach :=
  if !m.boundPassed ∨ m.bootStopped then m
  else match m.stage with
    | 4 => m.bootFail 0x05 (((List.range 16).find? fun d => !(m.dieSt d).joined).getD 0)
    | 5 =>
      let m := (List.range 1024).foldl (fun m i =>
        if m.chanState (i / 64) (i % 64) = cOFF ∨ m.chanState (i / 64) (i % 64) = cTRAINING then
          m.chanFails (i / 64) (i % 64) else m) m
      { m with dies := m.dies.mapV fun x => { x with bist := none } }.bootOn
    | 6 => if m.vlUp then m else m.bootFail 0x07 0
    | 7 => (m.endStage 7).endStage 8
    | _ => m

/-- STAGE_BOUND_EXPIRY. -/
def execStageBoundExpiry : State → Host.Outcome State Fault Refusal := whenOn Mach.boundExpiry

/-- The credential table as it is measured: the key and the roles of each entry, zero for one that is absent (R474; the
manual gives no layout). -/
def Kept.credBytes (k : Kept) : List Byte :=
  (List.range 8).flatMap fun i => let c := k.creds.get i {}; bytesOf c.key.toNat 32 ++ bytesOf c.roles.toNat 1

/-- The notice of readiness holds the stage times (Table 17.9). -/
def Mach.stageTimes (m : Mach) : List Byte :=
  (List.range 6).flatMap fun k => bytesOf (m.rd64 (at_ 0 (Reg.BOOT_STAGE_TIME + 8 * k))).toNat 8

/-- Stage 6 ends: the module is ready, and enables its fabric ports (R354, R460). -/
def Mach.readyNow (m : Mach) (k : Kept) : Mach :=
  let m := m.extendHash 3 (bytesOf k.strap.toNat 4 ++ k.credBytes)
  let m := ((m.setBit (at_ 0 Reg.BOOT_STATE) 4 true).enable 0 [5, 6]).endStage 6
  let m := (List.range 31).foldl (fun m fp => if m.fpRole fp = 2 ∧ m.fpState fp = 0 then m.putFp fp 1 0 else m) m
  (m.slateNotice 0x22 m.stageTimes).fabStage

/-- MODULE_READY (R460, R463): the Vilpin link has trained, or its bound has passed. -/
def execModuleReady (s : State) : Host.Outcome State Fault Refusal :=
  if s.m.powered && s.m.stage == 6 && !s.m.ready && (s.m.vlUp || s.m.boundPassed) then
    let m := if s.m.vlUp then s.m else s.m.bootFail 0x07 0
    .next { s with kept := { s.kept with trialFails := 0 }, m := m.readyNow s.kept }
  else .next s

/-! ### Power-on and warm resets -/

/-- What outlives the loss of power: flash and fuses (R453, R455, R521). -/
def Kept.powerOn (k : Kept) (strap : Byte) (clear : Bool) : Kept :=
  { k with
    sealed := false
    winBase := 0
    energy := 0
    moduleAddr := 0
    managerAddr := 0
    strap := strap &&& 0x1F
    creds := if clear then [] else k.creds
    lastSeq := if clear then [] else k.lastSeq }

/-- POWER_ON_RESET (R447, R453, R493, R524): it overrides everything else. WARM_RST_N low at that moment changes nothing,
since no later pulse counts before stage 3 has ended. -/
def execPowerOnReset (strap : Byte) (credClrLow _warmLow : Bool) (s : State) : Host.Outcome State Fault Refusal :=
  .next { s with kept := s.kept.powerOn strap credClrLow, m := { fresh := s.m.fresh, outbox := s.m.outbox } }

/-- PWR_GOOD_FALL (R521): the module stops at once and loses what is not in flash. -/
def execPwrGoodFall (s : State) : Host.Outcome State Fault Refusal :=
  .next { s with kept := s.kept.powerOn 0 false, m := { fresh := s.m.fresh, outbox := s.m.outbox, off := true } }

/-- The buffered entries of the groups that have not been answered, with their slots and groups. -/
def Mach.bufferEntries (m : Mach) : List (Nat × Nat × Nat) :=
  m.groups.flatMap fun x => ((outRids x.2.outs).filter fun r => match m.req? r with
    | some q => q.ans.isNone
    | none => false).map fun r => (x.1 / 8, x.1 % 8, r)

/-- A store-buffer entry lost to a reset: logged while the log has room, and counted (R227, R456). -/
def Mach.discardLog (m : Mach) (slot g rid : Nat) : Mach :=
  let die := dieOfSlot slot
  let full := (m.rd (at_ die Reg.DM_FLT_WRITTEN) - m.rd (at_ die Reg.DM_FLT_CONSUMED)).toNat = 240
  let m := m.count64 (at_ die Reg.RST_DISCARD_CNT) 1
  match m.req? rid with
  | none => m
  | some q =>
    if full then m
    else m.logFault die 0x04 .abortSquashed 1 (m.sableCluster (clusterOfSlot slot)) slot (m.lineAddr q)
      (g + if q.sent then 8 else 0) false

/-- An offset of control space whose word a warm reset keeps (Table 16.6). -/
def keptWord (off : Nat) : Bool :=
  (Reg.DM_FLT_WRITTEN ≤ off && off ≤ Reg.DM_PENDING) || (Reg.DM_FLT_ENTRY ≤ off && off < Reg.DM_FLT_ENTRY + 0x2000) ||
    off == Reg.RST_WARM_CNT || off == Reg.RST_DISCARD_CNT || off == Reg.RST_DISCARD_CNT + 4

/-- The module after a warm reset (R455, R456): start-up runs again from stage 2. -/
def Mach.warmed (m : Mach) (cause : Nat) : Mach :=
  let m := m.bufferEntries.foldl (fun m e => m.discardLog e.1 e.2.1 e.2.2) m
  let m : Mach := { regs := m.regs.filter fun x => keptWord (x.1 % dieSpan), strapDone := true, fresh := m.fresh, outbox := m.outbox }
  let m := (List.range 16).foldl (fun m d =>
    (m.setFld (at_ d Reg.RST_CAUSE) 0 3 cause).count32 (at_ d Reg.RST_WARM_CNT)) m
  m.setFld (at_ 0 Reg.BOOT_STATE) 0 4 2

/-- What a warm reset leaves of the rest (R477): an unsealed window base is reset; a bank being staged is invalid (R472). -/
def Kept.warmed (k : Kept) (m : Mach) : Kept :=
  let k := if k.sealed then k else { k with winBase := 0 }
  if m.fld (at_ 0 Reg.SEC_STATUS) 2 2 ≠ 1 then k
  else if m.runBank then { k with bankA := [] } else { k with bankB := [] }

/-- A module warm reset with its cause (Table 16.10). -/
def State.warm (s : State) (cause : Nat) : State := { s with kept := s.kept.warmed s.m, m := s.m.warmed cause }

/-- A write by a requester reaches a register. -/
def Mach.reaches (m : Mach) (who : Requester) (die off : Nat) : Bool :=
  m.canReach who && !(who == .driver && m.cmpWriteDue) && match m.ctlLook die off with
    | .inl _ => true
    | .inr _ => false

/-- A warm reset by `RST_CMD`; one more during a warm reset changes nothing (R454). -/
def State.warmByCmd (s : State) (who : Requester) : State :=
  if s.m.reaches who 0 Reg.RST_CMD && !s.m.warming then let t := s.warm 1; { t with m := t.m.answer .ok }
  else { s with m := s.m.regWrite who 0 Reg.RST_CMD fun m => (m, .ok) }

/-- RST_CMD_WARM_RESET. -/
def execRstCmdWarmReset (who : Requester) (s : State) : Host.Outcome State Fault Refusal :=
  .next (if s.m.powered then s.warmByCmd who else s)

/-- WARM_RST_N (R524): without effect before stage 3 has ended, or during a warm reset. -/
def execWarmRstN (s : State) : Host.Outcome State Fault Refusal :=
  .next (if s.m.powered && decide (s.m.stage ≥ 4) && !s.m.warming then s.warm 3 else s)

/-- STEWARD_WARM_RESET (R434): after an undervoltage fault. -/
def execStewardWarmReset (s : State) : Host.Outcome State Fault Refusal :=
  .next (if s.m.powered && s.m.warmDue then s.warm 4 else s)

/-! ### Core resets (R457) -/

/-- A launch that holds a core under reset: it halts and completes with ABORT_SQUASHED, and a pre-emption of it is
abandoned. -/
def Mach.squashLaunch (m : Mach) (l : Nat) : Mach :=
  (m.updLaunch l fun y => { y with halted := true, aborted := some .abortSquashed }).haltLaunch l

/-- A write of `RST_CORE`. -/
def Mach.rstCore (m : Mach) (die : Nat) (v : W32) : Mach × Status :=
  let core := bitsOf v.toNat 0 12
  let slot := die * 2304 + core
  let resetting : Bool := match m.clusterOwner (clusterOfSlot slot) with
    | some p => m.resetting p
    | none => false
  if !v.getLsbD 12 then (m, .ok)
  else if core > 2303 then (m, .errDecode)
  else if m.warming || resetting then (m, .busyResetting)
  else if (m.dieSt die).coreReset.isSome then (m, .busyOwned)
  else
    let m := m.dbgCut (· == slot) .busyResetting
    let m := (m.setDie die { m.dieSt die with coreReset := some (slot, m.now die) }).setBit (at_ die Reg.RST_CORE) 13 true
    let k := m.core slot
    let m := m.setCore slot { k with reset := true }
    (match k.launch with
     | some l => m.squashLaunch l
     | none => m, .ok)

/-- CORE_RESET. -/
def execCoreReset (who : Requester) (die : Die) (v : W32) : State → Host.Outcome State Fault Refusal :=
  whenOn fun m => m.regWrite who die.val Reg.RST_CORE fun m => m.rstCore die.val v

/-- Every request of a core's groups has been answered. -/
def Mach.coreDrained (m : Mach) (slot : Nat) : Bool :=
  (groupsOf m slot).all fun g => match m.group? slot g with
    | some x => !(m.outPending x fun _ => true) && !m.asked slot g
    | none => true

/-- The end of a core reset: what is left is discarded, logged and counted, and the core's state is cleared. -/
def Mach.coreCleared (m : Mach) (die slot : Nat) : Mach :=
  let n := (m.bufferEntries.filter fun e => e.1 == slot).length
  let m := ((m.discardSlot slot .abortSquashed).count64 (at_ die Reg.RST_DISCARD_CNT) n).clearGroups slot
  let m := { m with cores := m.cores.del slot }
  let m := m.setDie die { m.dieSt die with coreReset := none }
  let a := at_ die Reg.RST_CORE
  (m.setBit a 13 false).putStatus a 16 .ok

/-- CORE_RESET_DRAIN_TIMEOUT (R226, R457): the reset ends once the core's requests have drained, or the bound of 10,000 ticks has
expired (R51). -/
def execCoreResetDrainTimeout (die : Die) : State → Host.Outcome State Fault Refusal :=
  whenOn fun m => match (m.dieSt die.val).coreReset with
    | none => m
    | some (slot, since) =>
      if m.coreDrained slot || expired (m.now die.val) since 10000 then m.coreCleared die.val slot else m

/-! ### Standby (R458, R459) -/

/-- A standby request: `op` 2 of `RST_CMD`. -/
def Mach.standbyReq (m : Mach) : Mach × Status :=
  let a := at_ 0 Reg.RST_CMD
  let owned := (List.range 32).any fun p =>
    m.partState p != pFREE && m.partState p != pCONFIG && m.partState p != pFROZEN
  if m.warming then m.finishCmd a 8 .busyResetting
  else if owned || m.lines.any (fun x => x.2.pin.isSome) || m.dies.any (fun x => x.2.bist.isSome) then m.finishCmd a 8 .busyOwned
  else if m.pdState = 1 ∨ m.pdState = 2 then m.finishCmd a 8 .ok
  else
    let m := (List.range 1024).foldl (fun m i => m.scrubEnd (i / 64) (i % 64) .abortSquashed) m
    ({ m with standbyFrom := some (m.now 0) }.setFld (at_ 0 Reg.PD_STATE) 0 3 1).finishCmd a 8 .ok

/-- STANDBY. -/
def execStandby (who : Requester) : State → Host.Outcome State Fault Refusal :=
  whenOn fun m => m.regWrite who 0 Reg.RST_CMD Mach.standbyReq

/-- Step 2 of standby entry is over: every request has been answered, or the bound of 8 ms has expired. -/
def Mach.standbyDrained (m : Mach) : Bool :=
  (m.reqs.all fun x => x.2.ans.isSome || match x.2.src with
    | .notice _ _ => true
    | _ => false) || expired (m.now 0) (m.standbyFrom.getD 0) 800000

/-- Steps 4 and 5: the channels are gated with their stacks in self-refresh, every cluster is gated, and the regulators
are off. -/
def Mach.powerDown (m : Mach) : Mach :=
  let m := (List.range 1024).foldl (fun m i =>
    let st := m.chanState (i / 64) (i % 64)
    if st = cFAILED ∨ st = cSHUT then m else m.chanDown (i / 64) (i % 64) cOFF) { m with tints := [] }
  let m := (List.range 576).foldl (fun m cl => if m.isGated cl then m else m.gateCluster cl) m
  let m := (List.range 16).foldl (fun m d => let a := at_ d Reg.PWR_VCORE_STATUS; (m.setFld a 0 10 0).setBit a 20 false) m
  { m with standbyFrom := none }.setFld (at_ 0 Reg.PD_STATE) 0 3 (2 + 4)

/-- Standby entry carried on: the slices write back and invalidate what they hold, and when nothing is left the module is
in standby. -/
def Mach.standbyOn (m : Mach) : Mach :=
  if m.pdState ≠ 1 ∨ !m.standbyDrained then m
  else
    let m := (m.lines.map (·.1)).foldl (fun m line => m.evict line) m
    if m.lines.all (fun x => m.lineStays x.1) && m.chans.all fun x => x.2.out.isEmpty && x.2.sent.all fun c => match c with
        | .write _ _ _ => false
        | _ => true
    then m.powerDown else m

/-- STANDBY_COMPLETE. -/
def execStandbyComplete : State → Host.Outcome State Fault Refusal := whenOn Mach.standbyOn

/-- A channel leaves self-refresh with one recalibration round, or at once when no spare is free for one. -/
def Mach.chanWake (m : Mach) (die ch : Nat) : Mach :=
  if m.chanState die ch ≠ cOFF then m
  else if m.bit (aSlice die ch Reg.MC_STATE) 8 then m.setChanState die ch cONLINE
  else m.roundBegin die ch

/-- `op` 3 of `RST_CMD`: it wakes the module in state 2, and changes nothing in any other (R459). -/
def Mach.wakeReq (m : Mach) : Mach × Status :=
  let a := at_ 0 Reg.RST_CMD
  if m.warming then m.finishCmd a 8 .busyResetting
  else if m.pdState ≠ 2 then m.finishCmd a 8 .ok
  else
    let m := m.setFld (at_ 0 Reg.PD_STATE) 0 3 3
    let m := (List.range 16).foldl (fun m d =>
      let m := (m.wr64 (at_ d Reg.HOME_AMBER_REQ) 0xFFFFFFFFFFFFFFFF).wr64 (at_ d Reg.HOME_AMBER_ACTIVE) 0xFFFFFFFFFFFFFFFF
      m.setApplied d (m.vcoreTarget d)) m
    ((List.range 1024).foldl (fun m i => m.chanWake (i / 64) (i % 64)) m).noteCapVcore.wakeOn.finishCmd a 8 .ok

/-- WAKE. -/
def execWake (who : Requester) : State → Host.Outcome State Fault Refusal :=
  whenOn fun m => m.regWrite who 0 Reg.RST_CMD Mach.wakeReq

/-- A write of `RST_CMD` other than a warm reset. -/
def Mach.rstCmd (m : Mach) (v : W32) : Mach × Status :=
  match bitsOf v.toNat 0 4 with
  | 2 => m.standbyReq
  | 3 => m.wakeReq
  | _ => m.finishCmd (at_ 0 Reg.RST_CMD) 8 .errDecode

end Sys2Proof.Machine
end

