-- ==== Sys2Proof/Machine/Security.lean ====
section
/-! DEFINITION. Identity (R466 to R469), attestation (R474 to R476), sealing (R477), key slots (R482 to R485), the Slate
network (R489 to R492), firmware updates (R472) and the SMBus sideband (R493). -/
namespace Sys2Proof.Machine

/-! ### Sealing, measurements and driver-set epochs -/

/-- A write of `SEC_SEAL` (R477). -/
def State.sealWrite (s : State) (who : Requester) (v : W32) : State :=
  { s with
    kept := if s.m.reaches who 0 Reg.SEC_SEAL && v.getLsbD 0 then { s.kept with sealed := true } else s.kept
    m := s.m.regWrite who 0 Reg.SEC_SEAL fun m => (m, .ok) }

/-- SEAL. -/
def execSeal (who : Requester) (v : W32) (s : State) : Host.Outcome State Fault Refusal :=
  .next (if s.m.powered then s.sealWrite who v else s)

/-- The state of a firmware update: 0 idle, 1 staging, 2 staged, 3 activating (R472). -/
def Mach.update (m : Mach) : Nat := m.fld (at_ 0 Reg.SEC_STATUS) 2 2
def Mach.setUpdate (m : Mach) (u : Nat) : Mach := m.setFld (at_ 0 Reg.SEC_STATUS) 2 2 u

/-- The 64 bytes of `SEC_MEAS_DATA`. -/
def Mach.measData (m : Mach) : List Byte :=
  (List.range 16).flatMap fun k => bytesOf (m.rd (at_ 0 Reg.SEC_MEAS_DATA + 4 * k)).toNat 4

/-- A write of `SEC_MEAS_EXTEND` (R474, R494). -/
def Mach.measWrite (m : Mach) (v : W32) : Mach × Status :=
  let a := at_ 0 Reg.SEC_MEAS_EXTEND
  let i := bitsOf v.toNat 0 3
  if v.getLsbD 3 ∧ i < 4 then m.finishCmd a 8 .errSecurity
  else if m.update = 1 ∨ m.update = 3 then m.finishCmd a 8 .busyUpdating
  else if v.getLsbD 3 then (m.measUpdate i m.measData).finishCmd a 8 .ok else (m, .ok)

/-- MEAS_EXTEND. -/
def execMeasExtend (who : Requester) (v : W32) : State → Host.Outcome State Fault Refusal :=
  whenOn fun m => m.regWrite who 0 Reg.SEC_MEAS_EXTEND fun m => m.measWrite v

/-- A write of a fabric slot's epoch (R482, Table 17.12). -/
def Mach.epochWrite (m : Mach) (p : Nat) (v : W32) : Mach × Status :=
  if !m.sable p ∧ (m.partState p = pCONFIG ∨ m.partState p = pACTIVE) then
    (m.setFld (aSlot p Reg.SEC_KSLOT_4) 0 16 (bitsOf v.toNat 0 16), .ok)
  else (m, .errSecurity)

/-- SEC_KSLOT_EPOCH_WRITE. -/
def execSecKslotEpochWrite (who : Requester) (p : Part) (v : W32) : State → Host.Outcome State Fault Refusal :=
  whenOn fun m => m.regWrite who 0 (Reg.SEC_KSLOT_4 + 0x10 * p.val) fun m => m.epochWrite p.val v

/-! ### Slate requests as they arrive (R489, R490, R492) -/

/-- The Slate network answers: stage 3 of start-up has ended (R460, R492). -/
def Mach.slateUp (m : Mach) : Bool := m.powered && decide (m.stage ≥ 4)

/-- A request of a type, with a body, that R490 acts on: its credential is present, signed it, counts upward and holds the role. -/
def Kept.accepts (k : Kept) (h : SlateHdr) (typ : Nat) (body : List Byte) (role : Nat) : Bool :=
  match k.creds.get? h.cred.toNat with
  | none => false
  | some c => Config.ed25519Verify c.key (slateBytes typ h.seq h.cred 0 body h.chunk.toNat) h.sig && decide ((k.lastSeq.get h.cred.toNat 0).toNat < h.seq.toNat) &&
      c.roles.getLsbD role

/-- A datagram collected: true when every one of its message has arrived, within 100 ms of the first (R489). -/
def Mach.collect (m : Mach) (h : SlateHdr) : Mach × Bool :=
  let mine (x : SlatePart) : Bool := x.cred == h.cred.toNat && x.seq == h.seq
  let old : SlatePart := (m.slate.find? fun x => mine x && !expired (m.now 0) x.since 10000000).getD
    ⟨h.cred.toNat, h.seq, [], m.now 0⟩
  let got := if old.got.contains h.chunk.toNat then old.got else h.chunk.toNat :: old.got
  let rest := m.slate.filter fun x => !mine x
  if (List.range h.chunks.toNat).all got.contains then ({ m with slate := rest }, true)
  else ({ m with slate := rest ++ [{ old with got := got }] }, false)

/-- A Slate request: dropped and counted when R490 turns it away, else collected, and acted on once it has arrived whole. -/
def State.slate (s : State) (h : SlateHdr) (typ : Nat) (body : List Byte) (role : Option Nat)
    (act : State → State × Status × List Byte) : State :=
  if !s.m.slateUp then s
  else
    let ok := match role with
      | none => true
      | some r => s.kept.accepts h typ body r
    if !ok then { s with m := s.m.count64 (at_ 0 Reg.SEC_SLATE_REJECT_CNT) 1 }
    else
      let (m, whole) := s.m.collect h
      let s := { s with m := m }
      if !whole then s
      else
        let s := if role.isNone then s
                 else { s with kept := { s.kept with lastSeq := s.kept.lastSeq.put h.cred.toNat h.seq } }
        let (t, st, out) := act s
        { t with m := t.m.emit (.slateReply (slateMessage typ h.seq st.code out)) }

/-- The outcome of a Slate request. -/
def slateDo (h : SlateHdr) (typ : Nat) (body : List Byte) (role : Option Nat) (act : State → State × Status × List Byte)
    (s : State) : Host.Outcome State Fault Refusal := .next (s.slate h typ body role act)

/-! ### The bodies of requests, as their signatures cover them (Table 17.9; the layouts are the model's, log 60) -/

/-- The body of an ATTEST. -/
def attestBody (part : Option Nat) (nonce : BitVec 256) : List Byte :=
  bytesOf nonce.toNat 32 ++ [if part.isSome then 1 else 0, BitVec.ofNat 8 (part.getD 0)]
/-- The body of a ROUTE_LOAD. -/
def routeBody (dev : Nat) (members groups : List (BitVec 31)) : List Byte :=
  bytesOf dev 4 ++ (members ++ groups).flatMap fun x => bytesOf x.toNat 4
/-- The word +0x0 of an entry of `SEC_RX` (Table 17.12). -/
def rxWord (e : RxEntry) : Nat := e.kslot.toNat + (if e.valid then 32 else 0) + 64 * e.partition.toNat
/-- The body of an RX_UPDATE: for each entry its index and its two words. -/
def rxBody (es : List (Fin 64 × RxEntry)) : List Byte :=
  es.flatMap fun x => bytesOf x.1.val 4 ++ bytesOf (rxWord x.2) 4 ++ bytesOf x.2.epoch.toNat 4
/-- The body of a SET_ADDR. -/
def addrBody (module manager : BitVec 128) : List Byte := bytesOf module.toNat 16 ++ bytesOf manager.toNat 16
/-- The body of an FW_STAGE: whether these bytes are the last, and the bytes. -/
def fwBody (chunk : List Byte) (last : Bool) : List Byte := (if last then 1 else 0) :: chunk
/-- The body of an EPOCH_RETIRE. -/
def epochBody (p : Nat) (epoch : BitVec 16) : List Byte := bytesOf p 2 ++ bytesOf epoch.toNat 2
/-- The body of a CRED_SET. -/
def credBody (i : Nat) (key : BitVec 256) (roles : BitVec 6) : List Byte :=
  BitVec.ofNat 8 i :: (bytesOf key.toNat 32 ++ bytesOf roles.toNat 1)

/-- SLATE_CHUNK_TIMEOUT (R489): a request still in pieces after 100 ms is dropped. -/
def execSlateChunkTimeout (seq : W64) : State → Host.Outcome State Fault Refusal :=
  whenOn fun m => { m with slate := m.slate.filter fun x => !(x.seq == seq && expired (m.now 0) x.since 10000000) }

/-! ### Quotes, identities and telemetry -/

/-- The svn and build of a set's steward header, and the headers of a staged set. -/
def setHeaders (set : List Byte) : List Byte := match Config.imageParts set with
  | some (st, d, _) => st.1 ++ d.1
  | none => []

/-- The staged set, when one is staged or activating. -/
def Mach.pendingSet (m : Mach) (k : Kept) : Option (List Byte) :=
  if m.update = 2 ∨ m.update = 3 then some (k.set (!m.runBank)) else none

/-- The bytes of a quote that are signed (Table 17.4). -/
def State.quote (s : State) (part : Option Nat) (nonce : BitVec 256) : List Byte :=
  let m := s.m
  let b (p : Bool) (n : Nat) : Nat := if p then n else 0
  let pend := m.pendingSet s.kept
  let sab := match part with
    | some p => m.sable p
    | none => false
  let flags := b pend.isSome 1 + b (s.kept.trial && s.kept.bank == m.runBank) 2 + b m.failedDegraded 4 + b sab 8
  [1, if part.isSome then 1 else 0, BitVec.ofNat 8 (part.getD 0), BitVec.ofNat 8 flags] ++ bytesOf moduleId.toNat 8 ++
    bytesOf nonce.toNat 32 ++ bytesOf (m.rd64 (at_ 0 Reg.SEC_FW_RUN)).toNat 8 ++ bytesOf (b m.runBank 1) 4 ++
    bytesOf (m.rd64 (at_ 0 Reg.SEC_FW_PENDING)).toNat 8 ++
    (match pend with
     | some set => measBytes (Config.sha512 (setHeaders set))
     | none => List.replicate 64 0) ++
    ((List.range 8).flatMap fun i => measBytes (m.meas.get i 0)) ++
    (match part with
     | some p => measBytes (m.meas.get (pmeasKey p) 0)
     | none => List.replicate 64 0) ++
    bytesOf kxPublic.toNat 32 ++ bytesOf (m.now 0) 8 ++ List.replicate 24 0

/-- The answer of an ATTEST (R476). -/
def State.attest (s : State) (part : Option Nat) (nonce : BitVec 256) : State × Status × List Byte :=
  let st : Status := match part with
    | none => .ok
    | some p => if s.m.resetting p then .busyResetting else if s.m.partState p = pFREE then .errDecode else .ok
  let q := s.quote part nonce
  (s, st, if st = .ok then q ++ bytesOf (Config.ed25519Sign idSeed q).toNat 64 else [])

/-- ATTEST. -/
def execAttest (h : SlateHdr) (part : Option Part) (nonce : BitVec 256) : State → Host.Outcome State Fault Refusal :=
  slateDo h 0x01 (attestBody (part.map (·.val)) nonce) none fun s => s.attest (part.map (·.val)) nonce

/-- A memory-die entry is valid once its stack's descriptor has been read (R466). -/
def Mach.memIdValid (m : Mach) (die s : Nat) : Bool := m.fld (aSlice die (16 * s) Reg.MC_ID) 10 2 != 0

/-- A word of the identity block of a die (Table 17.1). -/
def Mach.idWord (m : Mach) (die off : Nat) : W32 :=
  if off < 0x100 then m.rd (at_ die off)
  else
    let s := (off - 0x100) / 16 / 12
    if !m.memIdValid die s then 0
    else if off % 16 = 8 then BitVec.ofNat 32 (m.fld (aSlice die (16 * s) Reg.MC_ID) 10 2 + 4)
    else if off % 16 = 12 then 0 else if off % 16 = 4 then Config.idFuse die off &&& 0xFFFF1F else Config.idFuse die off

/-- The identities of the 16 compute dies and the 768 memory dies, each as its words of Table 17.1. -/
def Mach.identities (m : Mach) : List Byte :=
  ((List.range 16).flatMap fun d => [0, 4, 8].flatMap fun o => bytesOf (m.idWord d o).toNat 4) ++
    (List.range 768).flatMap fun j => [0, 4, 8].flatMap fun o => bytesOf (m.idWord (j / 48) (0x100 + 16 * (j % 48) + o)).toNat 4

/-- IDENTITY (R469): the certificate and the die identities. -/
def execIdentity (h : SlateHdr) : State → Host.Outcome State Fault Refusal :=
  slateDo h 0x02 [] none fun s => (s, .ok, bytesOf Config.certificate.toNat 128 ++ s.m.identities)

/-- TELEMETRY (R490). -/
def execTelemetry (h : SlateHdr) : State → Host.Outcome State Fault Refusal :=
  slateDo h 0x10 [] (some 0) fun s =>
    let w (a : Nat) : List Byte := bytesOf (s.m.rd a).toNat 4
    (s, .ok, w (at_ 0 Reg.BOOT_STATE) ++ w (at_ 0 Reg.FAB_MODULE_STATE) ++ bytesOf s.kept.energy.toNat 8 ++
      w (at_ 0 Reg.PWR_INPUT) ++ w (at_ 0 Reg.PWR_COOLANT) ++ (List.range 16).flatMap fun d => w (at_ d Reg.PWR_TEMP_MAX))

/-! ### Fabric management -/

/-- The outcome of a request that acts on the machine alone. -/
def onlyMach (f : Mach → Mach × Status) (s : State) : State × Status × List Byte :=
  let (m, st) := f s.m
  ({ s with m := m }, st, [])

/-- A route load is staged (R338, R492). -/
def Mach.stageRoutes (m : Mach) (dev : Nat) (members groups : List (BitVec 31)) : Mach × Status :=
  let a := at_ 0 Reg.FAB_ROUTE_STATUS
  if m.bit a 1 then (m, .busyOwned)
  else
    let tab : Tab W32 := (List.range 1280).map fun k =>
      (k, ((if k < 256 then members.getD k 0 else groups.getD (k - 256) 0) : BitVec 31).setWidth 32)
    ({ m with stagedDev := dev, route := tab }.setBit a 1 true, .ok)

/-- ROUTE_LOAD. -/
def execRouteLoad (h : SlateHdr) (dev : DevNo) (members groups : List (BitVec 31)) : State → Host.Outcome State Fault Refusal :=
  slateDo h 0x12 (routeBody dev.toNat members groups) (some 1) (onlyMach fun m => m.stageRoutes dev.toNat members groups)

/-- DEAD_CLEAR: as a write of 1 to the device's bit (R349). -/
def execDeadClear (h : SlateHdr) (dev : DevNo) : State → Host.Outcome State Fault Refusal :=
  slateDo h 0x13 (bytesOf dev.toNat 4) (some 1) (onlyMach fun m => (m.clearDead (dev.toNat / 32) (1#32 <<< (dev.toNat % 32)), .ok))

/-- Entries of the receive table written. -/
def Mach.rxUpdate (m : Mach) : List (Fin 64 × RxEntry) → Mach
  | [] => m
  | (i, e) :: t =>
    let m := m.wr (at_ 0 (Reg.SEC_RX + 8 * i.val)) (BitVec.ofNat 32 (rxWord e))
    (m.wr (at_ 0 (Reg.SEC_RX_4 + 8 * i.val)) (e.epoch.setWidth 32)).rxUpdate t

/-- RX_UPDATE (R481, R487). -/
def execRxUpdate (h : SlateHdr) (es : List (Fin 64 × RxEntry)) : State → Host.Outcome State Fault Refusal :=
  slateDo h 0x14 (rxBody es) (some 1) (onlyMach fun m => (m.rxUpdate es, .ok))

/-- SET_ADDR (R489). -/
def execSetAddr (h : SlateHdr) (module manager : BitVec 128) : State → Host.Outcome State Fault Refusal :=
  slateDo h 0x15 (addrBody module manager) (some 1) fun s =>
    ({ s with kept := { s.kept with moduleAddr := module, managerAddr := manager } }, .ok, [])

/-- WARM_RESET (R453, R454): during a warm reset it changes nothing. -/
def execWarmReset (h : SlateHdr) : State → Host.Outcome State Fault Refusal :=
  slateDo h 0x20 [] (some 2) fun s => (if s.m.warming then s else s.warm 2, .ok, [])

/-! ### Firmware updates (R472) -/

/-- The bank that does not run, replaced. -/
def State.putBank (s : State) (set : List Byte) : State :=
  { s with kept := if s.m.runBank then { s.kept with bankA := set } else { s.kept with bankB := set } }

/-- A set is accepted: both of its images are (R470). -/
def setOk (svnMin : Nat) (set : List Byte) : Bool := (setHeader svnMin false set).isSome && (setHeader svnMin true set).isSome

/-- FW_STAGE: bytes of an image set for the bank that does not run; the last ones bring its verification. A staging belongs
to the credential that began it (log 50). -/
def State.fwStage (s : State) (cred : Nat) (chunk : List Byte) (last : Bool) : State × Status × List Byte :=
  let m := s.m
  if m.update = 3 ∨ (m.update = 1 ∧ m.stageCred ≠ cred) then (s, .busyUpdating, [])
  else
    let set := (if m.update = 1 then m.staged else []) ++ chunk
    let clear := m.wr64 (at_ 0 Reg.SEC_FW_PENDING) 0
    if !last then ({ s.putBank [] with m := { clear with staged := set, stageCred := cred }.setUpdate 1 }, .ok, [])
    else if setOk s.kept.svnMin set then
      let v := BitVec.ofNat 64 (partOf ((setHeader s.kept.svnMin false set).getD []) 8 8)
      ({ s.putBank set with m := ({ m with staged := [] }.wr64 (at_ 0 Reg.SEC_FW_PENDING) v).setUpdate 2 }, .ok, [])
    else ({ s.putBank [] with m := { clear with staged := [] }.setUpdate 0 }, .errSecurity, [])

/-- FW_STAGE. -/
def execFwStage (h : SlateHdr) (chunk : List Byte) (last : Bool) : State → Host.Outcome State Fault Refusal :=
  slateDo h 0x30 (fwBody chunk last) (some 3) fun s => s.fwStage h.cred.toNat chunk last

/-- FW_ACTIVATE: the staged bank is selected, on trial; it runs from the next reset, until when the state is activating. -/
def State.fwActivate (s : State) : State × Status × List Byte :=
  if s.m.update = 1 ∨ s.m.update = 3 then (s, .busyUpdating, [])
  else if s.m.update ≠ 2 then (s, .errDecode, [])
  else ({ s with kept := { s.kept with bank := !s.m.runBank, trial := true, trialFails := 0 }, m := s.m.setUpdate 3 }, .ok, [])

/-- FW_ACTIVATE. -/
def execFwActivate (h : SlateHdr) : State → Host.Outcome State Fault Refusal := slateDo h 0x31 [] (some 3) State.fwActivate

/-- FW_CONFIRM: once the trial set has reached ready, `trial` ends and the fused minimum may rise. -/
def State.fwConfirm (s : State) : State × Status × List Byte :=
  if s.kept.trial && s.kept.bank == s.m.runBank && s.m.ready then
    let svn := (s.m.rd (at_ 0 Reg.SEC_FW_RUN)).toNat
    ({ s with kept := { s.kept with trial := false, trialFails := 0, svnMin := max s.kept.svnMin svn } }, .ok, [])
  else (s, .errDecode, [])

/-- FW_CONFIRM. -/
def execFwConfirm (h : SlateHdr) : State → Host.Outcome State Fault Refusal := slateDo h 0x32 [] (some 3) State.fwConfirm

/-! ### Key slots (R482 to R485) -/

/-- The key that a load's body wraps (R484): none when it is for another module or its tag fails. -/
def unwrapKey (b : List Byte) : Option (List Byte) :=
  if BitVec.ofNat 64 (partOf b 8 8) ≠ moduleId then none
  else
    let shared := Config.x25519 kxPrivate (BitVec.ofNat 256 (partOf b 16 32))
    let wrap := (Config.sha512 (bytesOf shared.toNat 32 ++ b.take 16)).setWidth 256
    Config.gcmOpen wrap (BitVec.ofNat 96 (partOf b 48 12)) (b.take 48) ((b.drop 64).take 64) (BitVec.ofNat 128 (partOf b 128 16))

/-- The status of a key load whose key was unwrapped (Table 17.5). -/
def Mach.loadStatus (m : Mach) (p kind epoch : Nat) : Status :=
  let s := m.partState p
  if !m.sable p then .errDecode
  else if m.resetting p then .busyResetting
  else if kind = 0 then (if s = pCONFIG ∧ (m.key p).memKey.isNone then .ok else .busyOwned)
  else if (s = pCONFIG ∨ s = pACTIVE) ∧ (m.fabState p = kEMPTY ∨ m.fabState p = kLOADED) ∧ epoch ≠ 0 ∧ epoch ≠ m.epoch p then .ok
  else .busyOwned

/-- An accepted load: the slot, and the key-load record (R485). -/
def Mach.loadKey (m : Mach) (p kind epoch : Nat) (key b : List Byte) : Mach :=
  let k := m.key p
  let m :=
    if kind = 0 then (m.setKey p { k with memKey := some (BitVec.ofNat 512 (partOf key 0 64)) }).setBit (aSlot p Reg.SEC_KSLOT) 0 true
    else
      let rot := m.fabState p == kLOADED
      let m := m.setKey p { k with cur := some (BitVec.ofNat 256 (partOf key 0 32)), prev := if rot then k.cur else none, ctr := [] }
      let m := m.setFld (aSlot p Reg.SEC_KSLOT_4) 16 16 (if rot then m.epoch p else 0)
      (m.setFld (aSlot p Reg.SEC_KSLOT_4) 0 16 epoch).setFabState p (if rot then kROTATING else kLOADED)
  m.extendHash (pmeasKey p) (b.take 48)

/-- KEY_LOAD (R483 to R485, Table 17.6). -/
def Mach.keyLoad (m : Mach) (b : List Byte) : Mach × Status :=
  let p := partOf b 0 1
  let kind := partOf b 1 1
  match unwrapKey b with
  | none => (m.count64 (at_ 0 Reg.SEC_GCM_FAIL_CNT) 1, .errSecurity)
  | some key =>
    if p > 31 ∨ kind > 1 then (m, .errDecode)
    else
      let st := m.loadStatus p kind (partOf b 2 2)
      (if st = .ok then m.loadKey p kind (partOf b 2 2) key b else m, st)

/-- KEY_LOAD. -/
def execKeyLoad (h : SlateHdr) (body : List Byte) : State → Host.Outcome State Fault Refusal :=
  slateDo h 0x40 body (some 4) (onlyMach fun m => m.keyLoad body)

/-- EPOCH_RETIRE of the previous epoch (Table 17.5). -/
def Mach.epochRetire (m : Mach) (p epoch : Nat) : Mach × Status :=
  if m.fabState p ≠ kROTATING ∨ epoch ≠ m.prevEpoch p then (m, .busyOwned)
  else
    let m := m.retireEpoch p epoch
    let m := m.setKey p { m.key p with prev := none }
    ((m.setFld (aSlot p Reg.SEC_KSLOT_4) 16 16 0).setFabState p kLOADED, .ok)

/-- EPOCH_RETIRE. -/
def execEpochRetire (h : SlateHdr) (p : Part) (epoch : BitVec 16) : State → Host.Outcome State Fault Refusal :=
  slateDo h 0x41 (epochBody p.val epoch) (some 4) (onlyMach fun m => m.epochRetire p.val epoch.toNat)

/-! ### Credentials (R490, R492, R493) -/

/-- A credential set, or removed by a key of zeros; one that administers must be left (R492). -/
def State.credSet (s : State) (i : Nat) (key : BitVec 256) (roles : BitVec 6) : State × Status × List Byte :=
  let creds := if key = 0 then s.kept.creds.del i else s.kept.creds.put i { key := key, roles := roles }
  if !creds.any fun c => c.2.roles.getLsbD 5 then (s, .busyOwned, [])
  else ({ s with kept := { s.kept with creds := creds, lastSeq := s.kept.lastSeq.del i } }, .ok, [])

/-- CRED_SET. -/
def execCredSet (h : SlateHdr) (i : Fin 8) (key : BitVec 256) (roles : BitVec 6) : State → Host.Outcome State Fault Refusal :=
  slateDo h 0x50 (credBody i.val key roles) (some 5) fun s => s.credSet i.val key roles

/-- ENROLL (R493): the first credential, with every role, in entry 0. -/
def execEnroll (key : BitVec 256) (s : State) : Host.Outcome State Fault Refusal :=
  if !s.m.powered then .next s
  else if !s.kept.creds.isEmpty then .next { s with m := s.m.answer .errSecurity }
  else .next { s with kept := { s.kept with creds := [(0, { key := key, roles := 0x3F })], lastSeq := [] }, m := s.m.answer .ok }

/-! ### Sideband reads (Table 17.11) -/

/-- READ_BOOT_STATE. -/
def execReadBootState : State → Host.Outcome State Fault Refusal :=
  whenOn fun m => m.answer .ok ((m.rd (at_ 0 Reg.BOOT_STATE)).setWidth 64)
/-- READ_MODULE_IDENTIFIER. -/
def execReadModuleIdentifier : State → Host.Outcome State Fault Refusal := whenOn fun m => m.answer .ok moduleId
/-- READ_HIGHEST_DIE_TEMPERATURE. -/
def execReadHighestDieTemperature : State → Host.Outcome State Fault Refusal :=
  whenOn fun m => m.answer .ok (BitVec.ofNat 64
    ((List.range 16).foldl (fun t d => max t (m.fld (at_ d Reg.PWR_TEMP_MAX) 0 8)) 0))
/-- READ_STANDBY_STATE. -/
def execReadStandbyState : State → Host.Outcome State Fault Refusal :=
  whenOn fun m => m.answer .ok ((m.rd (at_ 0 Reg.PD_STATE)).setWidth 64)

end Sys2Proof.Machine
end

