-- ==== Sys2Proof/Machine/Debug.lean ====
section
/-! DEFINITION. Debug access (R495 to R500), self-tests (R501 to R503), the configuration of the performance counters
(R505), and the registers of the fault logs (R84, R507, R509). -/
namespace Sys2Proof.Machine

/-! ### Attachment (R496) -/

/-- `DBG_ATTACH` of a partition. -/
def aAttach (p : Nat) : Nat := at_ 0 (Reg.DBG_ATTACH + 8 * p)

/-- The attachment of a partition ends. Its halted groups stay halted. -/
def Mach.detach (m : Mach) (p : Nat) : Mach :=
  { m.setBit (aAttach p) 9 false with
    launches := m.launches.mapV fun y => if qPart y.queue = p then { y with attached := false } else y }

/-- The running launch of a queue that began first. -/
def Mach.firstRunning (m : Mach) (q : Nat) : Option Nat :=
  (m.launches.foldl (fun (b : Option (Nat × Nat)) x =>
    if x.2.queue ≠ q ∨ x.2.stat ≠ .running then b
    else match b with
      | none => some (x.1, x.2.began)
      | some y => if x.2.began < y.2 then some (x.1, x.2.began) else b) none).map (·.1)

/-- A write of `DBG_ATTACH`: `detach`, then `now`. No debugger attaches to a Sable-mode partition (R488), and one that is
attached keeps its launch: a write that asks for another attachment changes nothing (R15). -/
def Mach.attachWrite (m : Mach) (who : Requester) (p : Nat) (v : W32) : Mach × Status :=
  if who ≠ .driver ∨ m.sable p then (m, .errSecurity)
  else if v.getLsbD 7 ∧ !v.getLsbD 8 ∧ m.bit (aAttach p) 9 then (m, .busyOwned)
  else
    let m := m.setFld (aAttach p) 0 7 v.toNat
    let m := if v.getLsbD 8 then m.detach p else m
    (if !v.getLsbD 7 then m
     else match m.firstRunning (64 * p + bitsOf v.toNat 0 6) with
       | none => m
       | some l => (m.setBit (aAttach p) 9 true).updLaunch l fun y => { y with attached := true }, .ok)

/-- A write of `DBG_ATTACH` by a requester. -/
def Mach.attachBy (m : Mach) (who : Requester) (p : Part) (v : W32) : Mach :=
  m.regWrite who 0 (Reg.DBG_ATTACH + 8 * p.val) fun m => m.attachWrite who p.val v

/-- DBG_ATTACH_ARM. -/
def execDbgAttachArm (who : Requester) (p : Part) (v : W32) : State → Host.Outcome State Fault Refusal :=
  whenOn fun m => m.attachBy who p ((v &&& 0x3F) ||| 0x40)
/-- DBG_ATTACH_NOW. -/
def execDbgAttachNow (who : Requester) (p : Part) (v : W32) : State → Host.Outcome State Fault Refusal :=
  whenOn fun m => m.attachBy who p ((v &&& 0x7F) ||| 0x80)
/-- DBG_DETACH. -/
def execDbgDetach (who : Requester) (p : Part) (v : W32) : State → Host.Outcome State Fault Refusal :=
  whenOn fun m => m.attachBy who p ((v &&& 0x7F) ||| 0x100)

/-! ### Requests to a group (R497 to R499) -/

/-- The core slot and the group that `DBG_CORE` of a die selects. -/
def Mach.dbgSlot (m : Mach) (die : Nat) : Nat := die * 2304 + m.fld (at_ die Reg.DBG_CORE) 0 12
def Mach.dbgGroup (m : Mach) (die : Nat) : Nat := m.fld (at_ die Reg.DBG_CORE) 12 3

/-- What a nibble of `DBG_GROUP_STATE` shows of a group (Table 18.6). -/
def Mach.groupState (m : Mach) (slot g : Nat) : Nat :=
  match m.group? slot g with
  | none => 0
  | some x => match x.stat with
    | .exited => 6
    | .haltFault => 5
    | .haltDebug => if m.groupHalting slot g x then 2 else if x.reason = 4 then 5 else 3
    | _ => if x.stepping then 4 else 1

/-- A write of `DBG_CORE`: a core above 2,303 does not exist. -/
def Mach.dbgCoreWrite (m : Mach) (die : Nat) (v : W32) : Mach × Status :=
  if bitsOf v.toNat 0 12 > 2303 then (m, .errDecode) else (m.setFld (at_ die Reg.DBG_CORE) 0 15 v.toNat, .ok)

/-- The selected core belongs to an attached launch, or the status a debug request completes with instead (R495, R496). -/
def Mach.dbgBar (m : Mach) (who : Requester) (slot : Nat) : Option Status :=
  if who ≠ .driver ∨ m.sableCluster (clusterOfSlot slot) then some .errSecurity
  else match m.coreLaunch slot with
    | none => some .busyOwned
    | some y => if y.attached then none else some .busyOwned

/-- A request to the selected group in a state that allows it; in any other it completes with BUSY_OWNED (R497). `own` is the
status of the request's own operands; the code that stands first is given (R16). A group that R80 has stopped for good takes none
(log 51). -/
def Mach.dbgTo (m : Mach) (who : Requester) (die : Nat) (states : List Nat) (own : Status)
    (f : Mach → Nat → Nat → Group → Mach) : Mach × Status :=
  let slot := m.dbgSlot die
  let g := m.dbgGroup die
  let a := at_ die Reg.DBG_CMD
  let st := own.first ((m.dbgBar who slot).getD .ok)
  match m.group? slot g with
  | none => m.finishCmd a 8 (st.first .busyOwned)
  | some x =>
    let no : Bool := x.stat == .parked || x.stat == .haltFault || !states.contains (m.groupState slot g)
    let st := if no then st.first .busyOwned else st
    (if st = .ok then f m slot g x else m).finishCmd a 8 st

/-- The latest HALT or STEP of a die. -/
def Mach.noteDbg (m : Mach) (die slot g : Nat) : Mach := m.setDie die { m.dieSt die with dbgReq := some (slot, g) }

/-- HALT: the group stops at its instruction boundary. -/
def Mach.dbgHaltReq (m : Mach) (who : Requester) (die : Nat) : Mach × Status :=
  m.dbgTo who die [1] .ok fun m slot g _ => (m.debugHalt slot g 1 0).noteDbg die slot g

/-- STEP: the group goes on until one instruction has issued; the timers of its barriers stay paused. -/
def Mach.dbgStepReq (m : Mach) (who : Requester) (die : Nat) : Mach × Status :=
  m.dbgTo who die [3, 5] .ok fun m slot g x =>
    (m.setGroup slot g { x with stat := x.back, back := .ready, stepping := true }).noteDbg die slot g

/-- RESUME: the group runs on, and so do the timers of its barriers (R74). -/
def Mach.dbgResumeReq (m : Mach) (who : Requester) (die : Nat) : Mach × Status :=
  m.dbgTo who die [3, 4, 5] .ok fun m slot g x =>
    let x := if x.stat = .haltDebug then { x with stat := x.back, back := .ready } else x
    (m.setGroup slot g { x with stepping := false }).resumeBars (clusterOfSlot slot)

/-- The tiles of each group of the selected core. -/
def Mach.dbgAcc (m : Mach) (slot : Nat) : Nat := ((m.coreLaunch slot).map Launch.acc).getD 0

/-- The status of a READ or WRITE for what `DBG_SEL` names: a group has no other registers than these. -/
def Mach.dbgSel (m : Mach) (die slot : Nat) : Status :=
  let a := at_ die Reg.DBG_SEL
  let i := m.fld a 3 6
  let there : Bool := match m.fld a 0 3 with
    | 0 => decide (i < 32)
    | 1 | 3 => true
    | 2 => decide (i < 16)
    | 4 => (m.coreLaunch slot).isNone || decide (i < m.dbgAcc slot)
    | _ => false
  if there then .ok else .errDecode

/-- The image of the register that `DBG_SEL` names. -/
def Mach.dbgImage (m : Mach) (die slot g : Nat) (x : Group) : List Byte :=
  let a := at_ die Reg.DBG_SEL
  let i := m.fld a 3 6
  match m.fld a 0 3 with
  | 0 => bytesOf (x.rs i).toNat 8
  | 1 => (List.range 32).flatMap fun l => bytesOf (vget (x.rv i) l).toNat 4
  | 2 => bytesOf (x.rp i).toNat 4
  | 3 => bytesOf x.pc.toNat 8
  | _ =>
    let t := (m.core slot).tile (tileOf (m.dbgAcc slot) g i)
    (List.range 256).flatMap fun k => bytesOf (tget t (k / 16) (k % 16)).toNat 4

/-- Bytes placed at the start of the data window. -/
def Mach.toWindow (m : Mach) (die : Nat) (bs : List Byte) : Mach :=
  m.wrWords (at_ die Reg.DBG_DATA) ((List.range (bs.length / 4)).map fun k => BitVec.ofNat 32 (ofBytes ((bs.drop (4 * k)).take 4)))

/-- READ: the register's image moves into the data window. -/
def Mach.dbgReadReq (m : Mach) (who : Requester) (die : Nat) : Mach × Status :=
  m.dbgTo who die [3, 5] (m.dbgSel die (m.dbgSlot die)) fun m slot g x => m.toWindow die (m.dbgImage die slot g x)

/-- A word of the data window. -/
def Mach.windowWord (m : Mach) (die k : Nat) : W32 := m.rd (at_ die (Reg.DBG_DATA + 4 * k))

/-- WRITE: the data window moves into the register; s0 and p0 discard it (R88), and a `pc` that is not a multiple of 8 is
refused (R499). -/
def Mach.dbgWriteReq (m : Mach) (who : Requester) (die : Nat) : Mach × Status :=
  let a := at_ die Reg.DBG_SEL
  let i := m.fld a 3 6
  let v := m.rd64 (at_ die Reg.DBG_DATA)
  let own := if m.fld a 0 3 = 3 ∧ v.toNat % 8 ≠ 0 then .errDecode else m.dbgSel die (m.dbgSlot die)
  m.dbgTo who die [3, 5] own fun m slot g x =>
    match m.fld a 0 3 with
    | 0 => m.setGroup slot g (x.ws i v)
    | 1 => m.setGroup slot g { x with v := x.v.put i (vmake fun l => m.windowWord die l) }
    | 2 => m.setGroup slot g (x.wp 0xFFFFFFFF i (m.windowWord die 0))
    | 3 => m.setGroup slot g { x with pc := v, back := .ready, ir := none, fetchRid := none }
    | _ =>
      let c := m.core slot
      m.setCore slot { c with
        tiles := c.tiles.put (tileOf (m.dbgAcc slot) g i) (tmake fun r q => m.windowWord die (16 * r + q)) }

/-- END: the launch halts under R80, and completes with its faults' status, or with ABORT_SQUASHED. -/
def Mach.dbgEndReq (m : Mach) (who : Requester) (die : Nat) : Mach × Status :=
  let slot := m.dbgSlot die
  let a := at_ die Reg.DBG_CMD
  match m.dbgBar who slot, (m.core slot).launch with
  | some st, _ => m.finishCmd a 8 st
  | none, none => m.finishCmd a 8 .busyOwned
  | none, some l => ((m.updLaunch l fun y => y.halt none).haltLaunch l).finishCmd a 8 .ok

/-- A write of `DBG_CMD`: an operation that does not exist completes with ERR_DECODE, but for a requester or a core that R495
bars. -/
def Mach.dbgCmd (m : Mach) (who : Requester) (die : Nat) (v : W32) : Mach × Status :=
  match bitsOf v.toNat 0 3 with
  | 1 => m.dbgHaltReq who die
  | 2 => m.dbgStepReq who die
  | 3 => m.dbgResumeReq who die
  | 4 => m.dbgReadReq who die
  | 5 => m.dbgWriteReq who die
  | 6 => m.dbgEndReq who die
  | _ => m.finishCmd (at_ die Reg.DBG_CMD) 8 (Status.errDecode.first ((m.dbgBar who (m.dbgSlot die)).getD .ok))

/-- DBG_HALT. -/
def execDbgHalt (who : Requester) (die : Die) : State → Host.Outcome State Fault Refusal :=
  whenOn fun m => m.regWrite who die.val Reg.DBG_CMD fun m => m.dbgHaltReq who die.val
/-- DBG_STEP. -/
def execDbgStep (who : Requester) (die : Die) : State → Host.Outcome State Fault Refusal :=
  whenOn fun m => m.regWrite who die.val Reg.DBG_CMD fun m => m.dbgStepReq who die.val
/-- DBG_RESUME. -/
def execDbgResume (who : Requester) (die : Die) : State → Host.Outcome State Fault Refusal :=
  whenOn fun m => m.regWrite who die.val Reg.DBG_CMD fun m => m.dbgResumeReq who die.val
/-- DBG_READ. -/
def execDbgRead (who : Requester) (die : Die) : State → Host.Outcome State Fault Refusal :=
  whenOn fun m => m.regWrite who die.val Reg.DBG_CMD fun m => m.dbgReadReq who die.val
/-- DBG_WRITE. -/
def execDbgWrite (who : Requester) (die : Die) : State → Host.Outcome State Fault Refusal :=
  whenOn fun m => m.regWrite who die.val Reg.DBG_CMD fun m => m.dbgWriteReq who die.val
/-- DBG_END. -/
def execDbgEnd (who : Requester) (die : Die) : State → Host.Outcome State Fault Refusal :=
  whenOn fun m => m.regWrite who die.val Reg.DBG_CMD fun m => m.dbgEndReq who die.val

/-! ### Self-tests (R501 to R503) -/

/-- A write of `DBG_BIST`: the test of a cluster begins, which wakes it and overwrites its local arrays. -/
def Mach.bistWrite (m : Mach) (die : Nat) (v : W32) : Mach × Status :=
  let a := at_ die Reg.DBG_BIST
  let k := bitsOf v.toNat 0 6
  let cl := 36 * die + k
  if !v.getLsbD 6 then (m.setFld a 0 6 k, .ok)
  else if k > 35 then m.finishCmd a 8 .errDecode
  else if (m.clusterOwner cl).isSome || m.clusterBusy cl || (m.dieSt die).bist.isSome then m.finishCmd a 8 .busyOwned
  else
    let m := (m.gateCluster cl).setBit64 (at_ die Reg.PWR_GATED) k false
    let m := m.setDie die { m.dieSt die with bist := some k }
    ((m.setFld a 0 6 k).setBit a 7 true).finishCmd a 8 .ok

/-- SELF_TEST. -/
def execSelfTest (who : Requester) (die : Die) (v : W32) : State → Host.Outcome State Fault Refusal :=
  whenOn fun m => m.regWrite who die.val Reg.DBG_BIST fun m => m.bistWrite die.val (v ||| 0x40)

/-- The end of a cluster's self-test: a core that failed is fatal (R503). At stage 5 of start-up the next cluster of the die
follows (R460); in service the registers show the result. -/
def Mach.bistEnd (m : Mach) (die : Nat) (failed : W64) : Mach :=
  match (m.dieSt die).bist with
  | none => m
  | some k =>
    let m := if failed = 0 then m else m.fatal die 0x07 (36 * die + k) 0 failed.toNat 0x0A
    if m.stage = 5 then
      (m.setDie die { m.dieSt die with bist := if k < 35 then some (k + 1) else none }).bootOn
    else
      let m := m.setDie die { m.dieSt die with bist := none }
      let c := m.cluster (36 * die + k)
      let m := m.setCluster (36 * die + k) { c with idle := m.now die }
      (m.wr64 (at_ die Reg.DBG_BIST_RESULT) failed).setBit (at_ die Reg.DBG_BIST) 7 false

/-- SELF_TEST_END. -/
def execSelfTestEnd (die : Die) (failed : W64) : State → Host.Outcome State Fault Refusal :=
  whenOn fun m => m.bistEnd die.val failed

/-- A write of `DBG_SLICE_TEST`: the slice is held in Amber mode for the length of the test. -/
def Mach.sliceTestWrite (m : Mach) (die : Nat) (v : W32) : Mach × Status :=
  let a := at_ die Reg.DBG_SLICE_TEST
  let k := bitsOf v.toNat 0 6
  if !v.getLsbD 6 then (m.setFld a 0 6 k, .ok)
  else if m.bit (aSlice die k Reg.SLICE_STATUS) 3 then m.finishCmd a 16 .busyCalibrating
  else if (m.dieSt die).sliceTest.isSome then m.finishCmd a 16 .busyOwned
  else
    let m := m.setDie die { m.dieSt die with sliceTest := some (k, (m.amberBase die).getLsbD k) }
    let m := m.setBit64 (at_ die Reg.HOME_AMBER_REQ) k true
    ((m.setFld a 0 6 k).setBit a 7 true).finishCmd a 16 .ok

/-- SLICE_TEST. -/
def execSliceTest (who : Requester) (die : Die) (v : W32) : State → Host.Outcome State Fault Refusal :=
  whenOn fun m => m.regWrite who die.val Reg.DBG_SLICE_TEST fun m => m.sliceTestWrite die.val (v ||| 0x40)

/-- The Amber bit that a slice test held becomes what it was before, or what was written to it meanwhile (R283); while the
exclusion sweep still holds it, it becomes so at the sweep's end (R286). -/
def Mach.testAmber (m : Mach) (die ch : Nat) (was : Bool) : Mach :=
  let a := at_ die Reg.HOME_AMBER_REQ
  let d := m.dieSt die
  match d.sweep with
  | none => m.setBit64 a ch was
  | some old =>
    let mask : W64 := 1#64 <<< ch
    let m := m.setDie die { d with sweep := some (if was then old ||| mask else old &&& ~~~mask) }
    if m.bit64 (at_ die Reg.HOME_AMBER_ACTIVE) ch then m.setBit64 a ch was else m

/-- SLICE_TEST_END: a failure is fatal (R503). -/
def execSliceTestEnd (die : Die) (failed : Bool) : State → Host.Outcome State Fault Refusal :=
  whenOn fun m => match (m.dieSt die.val).sliceTest with
    | none => m
    | some (k, was) =>
      let m := (m.setDie die.val { m.dieSt die.val with sliceTest := none }).testAmber die.val k was
      let a := at_ die.val Reg.DBG_SLICE_TEST
      let m := (m.setBit a 7 false).setBit a 8 failed
      if failed then m.fatal die.val 0x07 k 0 0 0x0A else m

/-! ### Counters and fault logs -/

/-- A write of `DBG_CNT_CFG`: it clears its counter (R505). -/
def Mach.cntCfgWrite (m : Mach) (die k : Nat) (v : W32) : Mach × Status :=
  if bitsOf v.toNat 0 8 > 0x0B ∨ bitsOf v.toNat 8 2 = 3 then (m, .errDecode)
  else ((m.setFld (at_ die (Reg.DBG_CNT_CFG + 0x10 * k)) 0 29 v.toNat).wr64 (at_ die (Reg.DBG_CNT_VAL + 0x10 * k)) 0, .ok)

/-- DBG_CNT_CFG_WRITE. -/
def execDbgCntCfgWrite (who : Requester) (die : Die) (k : Fin 16) (v : W32) : State → Host.Outcome State Fault Refusal :=
  whenOn fun m => m.regWrite who die.val (Reg.DBG_CNT_CFG + 0x10 * k.val) fun m => m.cntCfgWrite die.val k.val v

/-- The bits of a 64-bit register that a write of it, or of one half, carries. -/
def WideAcc_bits (x : WideAcc) : W64 := wideValue 0 x

/-- A write of `CSUP_CORE_FAULT`: a bit cleared clears that core's record (R84). `CSUP_FAULT_FIRST`, which the driver cannot write,
keeps the launch's first fault until the next launch (DESIGN CHOICE, log 101), and a core whose bit was cleared records its next
fault as a first one (DESIGN CHOICE, log 102). -/
def Mach.coreFaultClear (m : Mach) (cl : Nat) (x : WideAcc) : Mach × Status :=
  let v := WideAcc_bits x
  let a := aCsup cl Reg.CSUP_CORE_FAULT
  let m := (List.range 64).foldl (fun m i =>
    if v.getLsbD i && m.bit64 a i then m.clearWords (aCsup cl Reg.CSUP_REC_0 + 0x20 * i) 8 else m) m
  (m.wr64 a (m.rd64 a &&& ~~~v), .ok)

/-- CSUP_CORE_FAULT_CLEAR. -/
def execCsupCoreFaultClear (who : Requester) (cl : Cluster) (x : WideAcc) : State → Host.Outcome State Fault Refusal :=
  whenOn fun m => m.wideReg who (cl.val / 36) (Reg.CSUP_CORE_FAULT + cl.val % 36 * 0x10000) x fun m => m.coreFaultClear cl.val x

/-- A write of `DM_FLT_CONSUMED`: entries are freed up to a count between the present one and `written`; when they meet, the
die is no longer pending (R507, R509). -/
def Mach.consumedWrite (m : Mach) (die : Nat) (v : W32) : Mach × Status :=
  let a := at_ die Reg.DM_FLT_CONSUMED
  let w := m.rd (at_ die Reg.DM_FLT_WRITTEN)
  if (w - v).toNat > (w - m.rd a).toNat then (m, .errDecode)
  else
    let m := m.wr a v
    (if v = w then m.setBit (at_ 0 Reg.DM_PENDING) die false else m, .ok)

/-- DM_FLT_CONSUMED_WRITE. -/
def execDmFltConsumedWrite (who : Requester) (die : Die) (v : W32) : State → Host.Outcome State Fault Refusal :=
  whenOn fun m => m.regWrite who die.val Reg.DM_FLT_CONSUMED fun m => m.consumedWrite die.val v

/-- A write of `DM_FLT_STATUS`: `fatal_clear` frees every fatal entry (R507). -/
def Mach.fatalClearWrite (m : Mach) (die : Nat) (v : W32) : Mach × Status :=
  (if v.getLsbD 21 then m.setFld (at_ die Reg.DM_FLT_STATUS) 16 5 0 else m, .ok)

/-- FATAL_CLEAR. -/
def execFatalClear (who : Requester) (die : Die) (v : W32) : State → Host.Outcome State Fault Refusal :=
  whenOn fun m => m.regWrite who die.val Reg.DM_FLT_STATUS fun m => m.fatalClearWrite die.val v

/-- DM_IRQ_ADDR_WRITE (R509): 0, or an address of the companion window. -/
def execDmIrqAddrWrite (who : Requester) (x : WideAcc) : State → Host.Outcome State Fault Refusal :=
  whenOn fun m => m.wideReg who 0 Reg.DM_IRQ_ADDR x fun m => m.noticeWrite (at_ 0 Reg.DM_IRQ_ADDR) x

/-- DM_IRQ_PAUSE_EXPIRY (R509): 10,000 ticks after an interrupt write, one more covers the records logged meanwhile. The
companion takes it, or it is dropped and logged. -/
def Mach.irqPauseEnd (m : Mach) (taken : Bool) : Mach :=
  match m.irqPause with
  | none => m
  | some t =>
    if !expired (m.now 0) t 10000 then m
    else
      let due := m.irqDue
      let m := { m with irqPause := none, irqDue := false }
      let a := (m.rd64 (at_ 0 Reg.DM_IRQ_ADDR)).toNat
      if !due ∨ a = 0 then m
      else
        let m := { m with irqPause := some (m.now 0) }.emit (.writeCmp a (bytesOf (m.rd (at_ 0 Reg.DM_IRQ_DATA)).toNat 4))
        if taken then m else m.dropNotice true 0 a .errTimeout

/-- DM_IRQ_PAUSE_EXPIRY. -/
def execDmIrqPauseExpiry (taken : Bool) : State → Host.Outcome State Fault Refusal := whenOn fun m => m.irqPauseEnd taken

end Sys2Proof.Machine
end

