-- ==== Sys2Proof/Machine/Scalar.lean ====
section
/-! DEFINITION. Integer, logical, move, compare and predicate instructions (R97 to R106, Tables 4.6 to 4.9). -/
namespace Sys2Proof.Machine

/-- The vector majors take only 32-bit types (R97). -/
def tyVec (t : Nat) : Bool := tyWidth t == 32 && t < 7

/-- The types a form of an integer function accepts (Table 4.6, R97). -/
def aluTypes (op : IntOp) (vec : Bool) (t : Nat) : Bool := op.types t && t < 6 && (!vec || tyVec t)

/-- The word checks of an ALU function in its four majors; the unary functions exist only in Format R (R101). -/
def aluCheck (op : IntOp) (f : AluForm) (w : IW) : Option Refuse :=
  let un := op.unary
  match f with
  | .salu => checkR w (aluTypes op false w.t) .s .s (if un then .none else .s) .none
  | .salui => checkI w (aluTypes op false w.t && !un) .s .s true
  | .valu => checkR w (aluTypes op true w.t) (.v 1) (.v 1) (if un then .none else .vs) .none
  | .valui => checkI w (aluTypes op true w.t && !un) (.v 1) (.v 1) true

/-- The lanes of an integer function. -/
def intLanes (op : IntOp) (t : Nat) (a b c : Vec) : Vec :=
  vmake fun l => (intOp op t ((vget a l).setWidth 64) ((vget b l).setWidth 64) ((vget c l).setWidth 64)).setWidth 32

/-- The immediate of a vector instruction, in every lane (R99). -/
def immVec (w : IW) : Vec := vsplat w.lo

/-- What an ALU function writes (R98 to R101). -/
def Group.aluDo (g : Group) (op : IntOp) (f : AluForm) (w : IW) : Group :=
  let t := w.t
  match f with
  | .salu => g.scalarOut w (extend t (intOp op t (g.rs w.an) (g.rs w.b) 0))
  | .salui => g.scalarOut w (extend t (intOp op t (g.rs w.an) (immOf t w.lo) 0))
  | .valu => g.vectorOut w (intLanes op t (g.rv w.an) (g.vOrS w) [])
  | .valui => g.vectorOut w (intLanes op t (g.rv w.an) (immVec w) [])

/-- One ALU instruction. -/
def Mach.alu (m : Mach) (g : GRef) (op : IntOp) (f : AluForm) (w : IW) : Mach :=
  m.issueReg g (aluCheck op f w) fun x => x.aluDo op f w

/-- ADD. -/
def execAdd (g : GRef) (f : AluForm) (w : IW) : State → Host.Outcome State Fault Refusal := asFetched g (.add g f w) fun m => m.alu g .add f w
/-- SUB. -/
def execSub (g : GRef) (f : AluForm) (w : IW) : State → Host.Outcome State Fault Refusal := asFetched g (.sub g f w) fun m => m.alu g .sub f w
/-- MIN. -/
def execMin (g : GRef) (f : AluForm) (w : IW) : State → Host.Outcome State Fault Refusal := asFetched g (.min g f w) fun m => m.alu g .min f w
/-- MAX. -/
def execMax (g : GRef) (f : AluForm) (w : IW) : State → Host.Outcome State Fault Refusal := asFetched g (.max g f w) fun m => m.alu g .max f w
/-- ABS. -/
def execAbs (g : GRef) (f : AluForm) (w : IW) : State → Host.Outcome State Fault Refusal := asFetched g (.abs g f w) fun m => m.alu g .abs f w
/-- NEG. -/
def execNeg (g : GRef) (f : AluForm) (w : IW) : State → Host.Outcome State Fault Refusal := asFetched g (.neg g f w) fun m => m.alu g .neg f w
/-- AND. -/
def execAnd (g : GRef) (f : AluForm) (w : IW) : State → Host.Outcome State Fault Refusal := asFetched g (.and g f w) fun m => m.alu g .and f w
/-- OR. -/
def execOr (g : GRef) (f : AluForm) (w : IW) : State → Host.Outcome State Fault Refusal := asFetched g (.or g f w) fun m => m.alu g .or f w
/-- XOR. -/
def execXor (g : GRef) (f : AluForm) (w : IW) : State → Host.Outcome State Fault Refusal := asFetched g (.xor g f w) fun m => m.alu g .xor f w
/-- ANDN. -/
def execAndn (g : GRef) (f : AluForm) (w : IW) : State → Host.Outcome State Fault Refusal := asFetched g (.andn g f w) fun m => m.alu g .andn f w
/-- NOT. -/
def execNot (g : GRef) (f : AluForm) (w : IW) : State → Host.Outcome State Fault Refusal := asFetched g (.not g f w) fun m => m.alu g .not f w
/-- SHL. -/
def execShl (g : GRef) (f : AluForm) (w : IW) : State → Host.Outcome State Fault Refusal := asFetched g (.shl g f w) fun m => m.alu g .shl f w
/-- SHR. -/
def execShr (g : GRef) (f : AluForm) (w : IW) : State → Host.Outcome State Fault Refusal := asFetched g (.shr g f w) fun m => m.alu g .shr f w
/-- POPC. -/
def execPopc (g : GRef) (f : AluForm) (w : IW) : State → Host.Outcome State Fault Refusal := asFetched g (.popc g f w) fun m => m.alu g .popc f w
/-- CLZ. -/
def execClz (g : GRef) (f : AluForm) (w : IW) : State → Host.Outcome State Fault Refusal := asFetched g (.clz g f w) fun m => m.alu g .clz f w
/-- CTZ. -/
def execCtz (g : GRef) (f : AluForm) (w : IW) : State → Host.Outcome State Fault Refusal := asFetched g (.ctz g f w) fun m => m.alu g .ctz f w
/-- MOV. -/
def execMov (g : GRef) (f : AluForm) (w : IW) : State → Host.Outcome State Fault Refusal := asFetched g (.mov g f w) fun m => m.alu g .mov f w

/-- The word checks of SEL, which exists only in Format R (R101). -/
def selCheck (f : AluForm) (w : IW) : Option Refuse :=
  match f with
  | .salu => checkR w (tyB w.t) .s .s .s .s
  | .valu => checkR w (w.t == 4) (.v 1) (.v 1) .vs .p
  | .salui => some .opcode
  | .valui => some .opcode

/-- The value SEL selects (Table 4.6). -/
def Group.selDo (g : Group) (f : AluForm) (w : IW) : Group :=
  match f with
  | .salu | .salui =>
    let c := g.rs w.c
    let test := if w.t = 4 then c.setWidth 32 != (0 : W32) else c != 0
    g.scalarOut w (extend w.t (if test then g.rs w.an else g.rs w.b))
  | .valu | .valui =>
    let p := g.rp w.c
    let b := g.vOrS w
    g.vectorOut w (vmake fun l => if p.getLsbD l then vget (g.rv w.an) l else vget b l)

/-- SEL. -/
def execSel (g : GRef) (f : AluForm) (w : IW) : State → Host.Outcome State Fault Refusal :=
  asFetched g (.sel g f w) fun m => m.issueReg g (selCheck f w) fun x => x.selDo f w

/-- The word checks of the MUL majors; DIV and REM are scalar only (Table 4.6). -/
def mulCheck (op : IntOp) (f : MulForm) (w : IW) : Option Refuse :=
  let three := op == .mad
  match f with
  | .smul => checkR w (aluTypes op false w.t) .s .s .s (if three then .s else .none)
  | .vmul => if op == .div || op == .rem then some .opcode
             else checkR w (aluTypes op true w.t) (.v 1) (.v 1) .vs (if three then .v 1 else .none)

/-- What a function of the MUL majors writes. -/
def Group.mulDo (g : Group) (op : IntOp) (f : MulForm) (w : IW) : Group :=
  match f with
  | .smul => g.scalarOut w (extend w.t (intOp op w.t (g.rs w.an) (g.rs w.b) (g.rs w.c)))
  | .vmul => g.vectorOut w (intLanes op w.t (g.rv w.an) (g.vOrS w) (g.rv w.c))

/-- One instruction of the MUL majors. -/
def Mach.mulOp (m : Mach) (g : GRef) (op : IntOp) (f : MulForm) (w : IW) : Mach :=
  m.issueReg g (mulCheck op f w) fun x => x.mulDo op f w

/-- MUL. -/
def execMul (g : GRef) (f : MulForm) (w : IW) : State → Host.Outcome State Fault Refusal := asFetched g (.mul g f w) fun m => m.mulOp g .mul f w
/-- MULH. -/
def execMulh (g : GRef) (f : MulForm) (w : IW) : State → Host.Outcome State Fault Refusal := asFetched g (.mulh g f w) fun m => m.mulOp g .mulh f w
/-- MAD. -/
def execMad (g : GRef) (f : MulForm) (w : IW) : State → Host.Outcome State Fault Refusal := asFetched g (.mad g f w) fun m => m.mulOp g .mad f w
/-- DIV (R102). -/
def execDiv (g : GRef) (f : MulForm) (w : IW) : State → Host.Outcome State Fault Refusal := asFetched g (.div g f w) fun m => m.mulOp g .div f w
/-- REM (R102). -/
def execRem (g : GRef) (f : MulForm) (w : IW) : State → Host.Outcome State Fault Refusal := asFetched g (.rem g f w) fun m => m.mulOp g .rem f w

/-! ### Moves (R103, Table 4.7) -/

/-- MOVI. -/
def execMovi (g : GRef) (w : IW) : State → Host.Outcome State Fault Refusal :=
  asFetched g (.movi g w) fun m => m.issueReg g (checkI w (w.t < 6) .s .none true) fun x => x.scalarOut w (extend w.t (immOf w.t w.lo))
/-- MOVHI: the high half is replaced. -/
def execMovhi (g : GRef) (w : IW) : State → Host.Outcome State Fault Refusal :=
  asFetched g (.movhi g w) fun m => m.issueReg g (checkI w (w.t == 5) .s .none true) fun x =>
    x.scalarOut w ((x.rs w.dn &&& 0xFFFFFFFF) ||| (w.lo.setWidth 64 <<< 32))
/-- VMOVI. -/
def execVmovi (g : GRef) (w : IW) : State → Host.Outcome State Fault Refusal :=
  asFetched g (.vmovi g w) fun m => m.issueReg g (checkI w (tyVec w.t) (.v 1) .none true) fun x => x.vectorOut w (immVec w)
/-- VBCAST. -/
def execVbcast (g : GRef) (w : IW) : State → Host.Outcome State Fault Refusal :=
  asFetched g (.vbcast g w) fun m => m.issueReg g (checkR w (w.t == 4) (.v 1) .s .none .none) fun x =>
    x.vectorOut w (vsplat ((x.rs w.an).setWidth 32))

/-- The word checks of VLANE: `imm32`[31:5] must be zero, otherwise ILLEGAL_OPERAND. -/
def vlaneCheck (w : IW) : Option Refuse :=
  match checkI w (w.t < 2) .s (.v 1) true with
  | some r => some r
  | none => if w.lo.toNat < 32 then none else some .operand

/-- VLANE. -/
def execVlane (g : GRef) (w : IW) : State → Host.Outcome State Fault Refusal :=
  asFetched g (.vlane g w) fun m => m.issueReg g (vlaneCheck w) fun x =>
    x.scalarOut w (extend w.t ((vget (x.rv w.an) (w.lo.toNat % 32)).setWidth 64))
/-- VLANEID. -/
def execVlaneid (g : GRef) (w : IW) : State → Host.Outcome State Fault Refusal :=
  asFetched g (.vlaneid g w) fun m => m.issueReg g (checkR w (w.t == 0) (.v 1) .none .none .none) fun x =>
    x.vectorOut w (vmake fun l => BitVec.ofNat 32 l)

/-! ### Compares (R104, R105) -/

/-- The word checks of a compare: conditions 6 and 7 are for .F32 alone (Table 4.8). -/
def cmpCheck (f : CmpForm) (cond : Nat) (w : IW) : Option Refuse :=
  let int := decide (w.t < 4) && decide (cond < 6)
  let vec := (decide (w.t < 2) && decide (cond < 6)) || (w.t == 6 && decide (cond < 8))
  match f with
  | .scmp => checkR w int .pd .s .s .none
  | .scmpi => checkI w int .pd .s true
  | .vcmp => checkR w vec .pd (.v 1) .vs .none
  | .vcmpi => checkI w vec .pd (.v 1) true

/-- One lane of a vector compare. -/
def cmpLane (cond t : Nat) (a b : W32) : Bool :=
  if t = 6 then fCmp cond (f32 a) (f32 b) else intCmp cond t (a.setWidth 64) (b.setWidth 64)

/-- The bits a compare produces: one for every lane from a scalar form, each lane's own from a vector form (R104). -/
def Group.cmpBits (g : Group) (f : CmpForm) (cond : Nat) (w : IW) : W32 :=
  match f with
  | .scmp => if intCmp cond w.t (g.rs w.an) (g.rs w.b) then 0xFFFFFFFF else 0
  | .scmpi => if intCmp cond w.t (g.rs w.an) (immOf w.t w.lo) then 0xFFFFFFFF else 0
  | .vcmp => maskOf fun l => cmpLane cond w.t (vget (g.rv w.an) l) (vget (g.vOrS w) l)
  | .vcmpi => maskOf fun l => cmpLane cond w.t (vget (g.rv w.an) l) w.lo

/-- CMP. -/
def execCmp (g : GRef) (f : CmpForm) (cond : BitVec 6) (w : IW) : State → Host.Outcome State Fault Refusal :=
  asFetched g (.cmp g f cond w) fun m => m.issueReg g (cmpCheck f cond.toNat w) fun x => x.predOut w (x.cmpBits f cond.toNat w)
/-- SETC. -/
def execSetc (g : GRef) (cond : BitVec 6) (w : IW) : State → Host.Outcome State Fault Refusal :=
  asFetched g (.setc g cond w) fun m => m.issueReg g (checkR w (w.t < 4 && cond.toNat < 6) .s .s .s .none) fun x =>
    x.scalarOut w (if intCmp cond.toNat w.t (x.rs w.an) (x.rs w.b) then 1 else 0)

/-! ### Predicate instructions (R106, Table 4.9) -/

/-- A PRED instruction of two predicate sources. -/
def Mach.pred2 (m : Mach) (g : GRef) (w : IW) (f : W32 → W32 → W32) : Mach :=
  m.issueReg g (checkR w (w.t == 0) .pd .p .p .none) fun x => x.predOut w (f (x.rp w.an) (x.rp w.b))
/-- A PRED instruction of one predicate source. -/
def Mach.pred1 (m : Mach) (g : GRef) (w : IW) (f : W32 → W32) : Mach :=
  m.issueReg g (checkR w (w.t == 0) .pd .p .none .none) fun x => x.predOut w (f (x.rp w.an))
/-- A PRED instruction with a scalar destination. -/
def Mach.predS (m : Mach) (g : GRef) (w : IW) (f : W32 → W64) : Mach :=
  m.issueReg g (checkR w (w.t == 0) .s .p .none .none) fun x => x.scalarOut w (f (x.rp w.an))

/-- PAND. -/
def execPand (g : GRef) (w : IW) : State → Host.Outcome State Fault Refusal := asFetched g (.pand g w) fun m => m.pred2 g w fun a b => a &&& b
/-- POR. -/
def execPor (g : GRef) (w : IW) : State → Host.Outcome State Fault Refusal := asFetched g (.por g w) fun m => m.pred2 g w fun a b => a ||| b
/-- PXOR. -/
def execPxor (g : GRef) (w : IW) : State → Host.Outcome State Fault Refusal := asFetched g (.pxor g w) fun m => m.pred2 g w fun a b => a ^^^ b
/-- PANDN. -/
def execPandn (g : GRef) (w : IW) : State → Host.Outcome State Fault Refusal := asFetched g (.pandn g w) fun m => m.pred2 g w fun a b => a &&& ~~~b
/-- PNOT. -/
def execPnot (g : GRef) (w : IW) : State → Host.Outcome State Fault Refusal := asFetched g (.pnot g w) fun m => m.pred1 g w fun a => ~~~a
/-- PMOV. -/
def execPmov (g : GRef) (w : IW) : State → Host.Outcome State Fault Refusal := asFetched g (.pmov g w) fun m => m.pred1 g w fun a => a
/-- PSET. -/
def execPset (g : GRef) (w : IW) : State → Host.Outcome State Fault Refusal :=
  asFetched g (.pset g w) fun m => m.issueReg g (checkR w (w.t == 0) .pd .s .none .none) fun x => x.predOut w ((x.rs w.an).setWidth 32)
/-- PGET. -/
def execPget (g : GRef) (w : IW) : State → Host.Outcome State Fault Refusal := asFetched g (.pget g w) fun m => m.predS g w fun a => a.setWidth 64
/-- PPOP. -/
def execPpop (g : GRef) (w : IW) : State → Host.Outcome State Fault Refusal :=
  asFetched g (.ppop g w) fun m => m.predS g w fun a => BitVec.ofNat 64 (popcount 32 (a.setWidth 64))
/-- PFIRST. -/
def execPfirst (g : GRef) (w : IW) : State → Host.Outcome State Fault Refusal :=
  asFetched g (.pfirst g w) fun m => m.predS g w fun a => BitVec.ofNat 64 (lowestBit 32 (a.setWidth 64))

end Sys2Proof.Machine
end

