-- ==== Sys2Proof/Machine/Space.lean ====
section
/-! DEFINITION. CONTROL_WRITE and LOW_HALF_READ (R8 to R12): a write or a read of any word of control space, with the
effect that the word's register gives it, and the registers whose value is found when they are read. -/
namespace Sys2Proof.Machine

/-! ### Where a word stands -/

/-- The word that an offset of a die's control space names: the module-wide registers of the lane role block have one copy
(R356). -/
def ctlAddr (die off : Nat) (h : RegHit) : Nat :=
  if h.row.blk == .laneRole && h.row.addr != Reg.LR_ROLE then at_ 0 off else at_ die off

/-- An index of a register array. -/
def RegHit.i (h : RegHit) (n : Nat) : Nat := h.ix.getD n 0

/-- The unit of an edge port that a register belongs to. -/
def unitAt (die : Nat) (h : RegHit) : LinkUnit := ⟨Fin.ofNat 16 die, Fin.ofNat 4 (h.i 0), Fin.ofNat 2 (h.i 1)⟩

/-! ### Writes -/

/-- The word that a write of a 32-bit register carries. -/
def wordOf (x : WideAcc) : W32 :=
  match x with
  | .full v => v.setWidth 32
  | .low v => v
  | .high v => v

/-- A register whose fields only hold what is written. -/
def Mach.holdWrite (m : Mach) (die off : Nat) (h : RegHit) (x : WideAcc) : Mach × Status :=
  (match x with
   | .full v => (m.plainWrite die off { h with high := false } (v.setWidth 32)).plainWrite die (off + 4) { h with high := true }
       ((v >>> 32).setWidth 32)
   | .low v => m.plainWrite die off { h with high := false } v
   | .high v => m.plainWrite die (off + 4) { h with high := true } v, .ok)

/-- Writes of the cluster supervisors, slices and home blocks. -/
def Mach.writeCache (m : Mach) (die off : Nat) (h : RegHit) (x : WideAcc) : Mach × Status :=
  let a := h.row.addr
  let v := wordOf x
  if a = Reg.CSUP_CORE_FAULT then m.coreFaultClear (36 * die + h.i 0) x
  else if a = Reg.SLICE_CTRL then m.sliceCtrl die (h.i 0) v
  else if a = Reg.SLICE_CNT_CLEAR then m.sliceClear die (h.i 0) v
  else if a = Reg.SLICE_PIN_QUOTA then m.pinQuota die (h.i 0) (h.i 1) v
  else if a = Reg.HOME_INTERLEAVE then m.interleaveWrite die v
  else if a = Reg.HOME_AMBER_REQ then (m.amberWrite die x, .ok)
  else if a = Reg.HOME_CNT_CLEAR then m.homeClear die v
  else if a = Reg.HOME_LOG_STATUS then m.probeClear die v
  else m.holdWrite die off h x

/-- Writes of the memory channels. -/
def Mach.writeMem (m : Mach) (die off : Nat) (h : RegHit) (x : WideAcc) : Mach × Status :=
  let a := h.row.addr
  let v := wordOf x
  if a = Reg.MC_CTRL then m.mcCtrl die (h.i 0) v
  else if a = Reg.MC_SCRUB_CTRL then m.scrubCtrl die (h.i 0) v
  else if a = Reg.MC_RAW_CMD then m.rawCmd die (h.i 0) v
  else if a = Reg.MC_CNT_CLEAR then m.mcClear die (h.i 0) v
  else if a = Reg.MEM_CE_STATUS then m.ceClear die v
  else m.holdWrite die off h x

/-- Writes of the lane role block and the edge ports. -/
def Mach.writeLanes (m : Mach) (die off : Nat) (h : RegHit) (x : WideAcc) : Mach × Status :=
  let a := h.row.addr
  let v := wordOf x
  if a = Reg.LR_ROLE then m.roleWrite die (h.i 0) v
  else if a = Reg.FAB_DEAD_MAP then m.deadMapWrite die (h.i 0) v
  else if a = Reg.EP_CNT_CLEAR then m.epClear die (h.i 0) v
  else if a = Reg.LU_CTRL then m.luCtrl (unitAt die h) v
  else if a = Reg.LU_CREDIT_RES then match fportOf (unitAt die h) with
    | some fp => m.creditRes fp (h.i 2) v
    | none => (m, .ok)
  else m.holdWrite die off h x

/-- Writes of the queues, the scheduler and the partitions. -/
def Mach.writeQueues (m : Mach) (die off : Nat) (h : RegHit) (x : WideAcc) : Mach × Status :=
  let a := h.row.addr
  let i := h.i 0
  let v := wordOf x
  if a = Reg.Q_BASE ∨ a = Reg.Q_CQ_BASE then m.qBase i a x
  else if a = Reg.Q_CFG then m.qCfg i v
  else if a = Reg.Q_DOORBELL then m.doorbell i v
  else if a = Reg.Q_CQ_HEAD then m.cqHeadWrite i v
  else if a = Reg.Q_IRQ_ADDR then m.noticeWrite (aQ i Reg.Q_IRQ_ADDR) x
  else if a = Reg.PART_CMD then m.partCmd i (bitsOf v.toNat 0 4) (bitsOf v.toNat 4 6)
  else if a = Reg.PART_CFG then m.partCfg i v
  else if a = Reg.PART_RATE then m.partRate i v
  else if a = Reg.PART_TLB_INV then m.tlbInv i v
  else if a = Reg.PART_NOTIFY_ADDR then m.partNotify i x
  else if a = Reg.PART_PT_ROOT then m.ptRoot i fun m => (m.holdWrite die off h x).1
  else if a = Reg.PART_LOG_BASE ∨ a = Reg.PART_FREEZE_BASE then m.partGuard i .ok fun m => (m.holdWrite die off h x).1
  else if a = Reg.PART_CLUSTER_OWNER then m.clusterOwnerWrite i v
  else if a = Reg.PART_GRANULE_OWNER then m.granuleOwnerWrite i v
  else m.holdWrite die off h x

/-- Writes of the power, clock and reset blocks. -/
def Mach.writePower (m : Mach) (die off : Nat) (h : RegHit) (x : WideAcc) : Mach × Status :=
  let a := h.row.addr
  let v := wordOf x
  if a = Reg.PWR_VCORE_TARGET then m.vcoreWrite die v
  else if a = Reg.PWR_DROOP_CFG then m.droopCfg die v
  else if a = Reg.PWR_GATE_REQ then m.gateReq die v
  else if a = Reg.PWR_THERM_CFG then m.thermCfg die v
  else if a = Reg.PWR_CAP then m.capWrite v
  else if a = Reg.CLK_CTRL_SRC then m.ctrlSrc die v
  else if a = Reg.CLK_EN then m.clkEn die v
  else if a = Reg.CLK_SNAP_CTRL then m.snapshot v
  else if a = Reg.RST_CMD then m.rstCmd v
  else if a = Reg.RST_CORE then m.rstCore die v
  else m.holdWrite die off h x

/-- Writes of the security block, the mailbox and the debug block. -/
def Mach.writeDebug (m : Mach) (who : Requester) (die off : Nat) (h : RegHit) (x : WideAcc) : Mach × Status :=
  let a := h.row.addr
  let v := wordOf x
  if a = Reg.SEC_MEAS_EXTEND then m.measWrite v
  else if a = Reg.SEC_KSLOT_4 then m.epochWrite (h.i 0) v
  else if a = Reg.DM_FLT_CONSUMED then m.consumedWrite die v
  else if a = Reg.DM_FLT_STATUS then m.fatalClearWrite die v
  else if a = Reg.DM_IRQ_ADDR then m.noticeWrite (at_ 0 Reg.DM_IRQ_ADDR) x
  else if a = Reg.DBG_CORE then m.dbgCoreWrite die v
  else if a = Reg.DBG_CMD then m.dbgCmd who die v
  else if a = Reg.DBG_BIST then m.bistWrite die v
  else if a = Reg.DBG_SLICE_TEST then m.sliceTestWrite die v
  else if a = Reg.DBG_CNT_CFG then m.cntCfgWrite die (h.i 0) v
  else if a = Reg.DBG_ATTACH then m.attachWrite who (h.i 0) v
  else m.holdWrite die off h x

/-- The effect of a write of a register on everything but what outlives a warm reset; `off` is where the register begins. -/
def Mach.writeEffect (m : Mach) (who : Requester) (die off : Nat) (h : RegHit) (x : WideAcc) : Mach × Status :=
  match h.row.blk with
  | .clusterSup | .slice | .home => m.writeCache die off h x
  | .channel => m.writeMem die off h x
  | .laneRole | .edgePort => m.writeLanes die off h x
  | .queues | .partitions => m.writeQueues die off h x
  | .power | .clocks | .resets => m.writePower die off h x
  | .security | .mailbox | .debug => m.writeDebug who die off h x
  | .identity | .host => (m, .ok)

/-- The effect of a write of a register on the module: a warm reset (R454), the seal (R477) and the sealed window base (R12)
act beyond `Mach`. -/
def State.writeEffect (s : State) (who : Requester) (die off : Nat) (h : RegHit) (x : WideAcc) : State × Status :=
  let v := wordOf x
  if h.row.addr = Reg.RST_CMD ∧ bitsOf v.toNat 0 4 = 1 then
    (if s.m.warming then s else s.warm 1, .ok)
  else if h.row.addr = Reg.SEC_SEAL then
    (if v.getLsbD 0 then { s with kept := { s.kept with sealed := true } } else s, .ok)
  else if h.row.addr = Reg.VL_WIN_BASE then
    if s.kept.sealed then (s, .errSecurity)
    else ({ s with kept := { s.kept with winBase := wideValue s.kept.winBase x &&& BitVec.ofNat 64 h.row.rwl } }, .ok)
  else
    let r := s.m.writeEffect who die off h x
    ({ s with m := r.1 }, r.2)

/-- A 4-byte write of a word, or an 8-byte write of a 64-bit register (R8, R9). One that is turned away completes with the code
that stands first, of its own checks too: the sealed window base of a gated die gives `ERR_SECURITY` (R12, R16). -/
def State.writeWord (s : State) (who : Requester) (die off : Nat) (full : Option W64) (v : W32) : State × Status :=
  match ctlFind die off with
  | none => (s, .errDecode)
  | some h =>
    let x : WideAcc := match full with
      | some w => .full w
      | none => if h.high then .high v else .low v
    let r := { s with m := s.m.endLatch who die off h }.writeEffect who die (if h.high then off - 4 else off) h x
    match s.m.ctlBar die h with
    | some st => (s, st.first r.2)
    | none => r

/-- An outcome that keeps both words of an 8-byte access from being read or written (R8). DESIGN CHOICE (log 103): a word's own
refusal of its value or its state, such as a bad operation of `DBG_CMD`, counts as the check of that word when its code is one
of these three. -/
def stopsBoth (st : Status) : Bool := st == .errSecurity || st == .errDecode || st == .errGated

/-- An offset of a die begins a 64-bit register. -/
def beginsWide (die off : Nat) : Bool :=
  match findReg die regTable off with
  | some h => h.row.wide && !h.high
  | none => false

/-- A control-space write (R8): each word of an 8-byte write that covers two words is tried as its own 4-byte write first. -/
def State.controlWrite (s : State) (who : Requester) (die off size : Nat) (data : W64) : State × Status :=
  let lo := data.setWidth 32
  let hi := (data >>> 32).setWidth 32
  if !((size == 4 || size == 8) && off % size == 0) then (s, .errDecode)
  else if size = 4 then s.writeWord who die off none lo
  else if beginsWide die off then s.writeWord who die off (some data) lo
  else
    let a := (s.writeWord who die off none lo).2
    let b := (s.writeWord who die (off + 4) none hi).2
    if stopsBoth a || stopsBoth b then
      (s, if !stopsBoth b then a else if !stopsBoth a then b else a.first b)
    else
      let r := s.writeWord who die off none lo
      let t := r.1.writeWord who die (off + 4) none hi
      (t.1, r.2.first t.2)

/-- CONTROL_WRITE. The driver's write waits behind plain writes of the companion (R366), and reaches the module only over a
trained link (R362). -/
def execControlWrite (who : Requester) (die : Die) (off size : Nat) (data : W64) (s : State) :
    Host.Outcome State Fault Refusal :=
  .next (if !s.m.powered || !s.m.canReach who || (who == .driver && s.m.cmpWriteDue) then s
         else
           let r := s.controlWrite who die.val off size data
           { r.1 with m := r.1.m.answer r.2 })

/-! ### Reads -/

/-- Entries of a fabric port that a partition uses. -/
def Mach.portUsed (m : Mach) (fp p : Nat) : Nat := ((m.port fp).ents.filter fun x => x.2.part == p).length

/-- A line action of a range packet. -/
def HReq.isRange (r : HReq) : Bool :=
  match r with
  | .range _ _ _ => true
  | _ => false

/-- A request that its requester has sent: reads are sent as they are made, buffered stores and reductions later. -/
def Req.under (q : Req) : Bool :=
  q.ans.isNone && match q.kind with
    | .store | .red | .stc | .atom | .log => q.sent
    | _ => true

/-- `VL_OUTSTANDING`. -/
def Mach.vlOutstanding (m : Mach) : Nat :=
  let cmp := (m.homeHolds.filter HReq.isCmp).length
  let dev := (m.reqs.filter fun x => x.2.under && match x.2.tgt with
    | .companion _ => true
    | _ => false).length
  cmp % 2048 + 2 ^ 16 * (dev % 4096)

/-- `TINT_STATUS` of a die: the requests of its port that have gone to their homes and await an answer, and whether one is held
under R280. -/
def Mach.tintStatus (m : Mach) (die : Nat) : Nat :=
  let mine (p : Nat → Nat → Req → Bool) := m.reqs.filter fun x => x.2.ans.isNone && match x.2.tgt with
    | .home line => m.hport (.req x.1) (m.hd line) == die && p line x.1 x.2
    | _ => false
  let note (line rid : Nat) := (m.notesOf (m.hd line) (m.hc line) line).any fun n => n.req == .req rid
  let n := (mine fun line rid q => q.sent || q.atHome || note line rid).length
  let held := mine fun line rid q =>
    !q.atHome && !note line rid && m.atPort rid q && m.portHolds (m.hd line) (m.hc line) line die
  min n 8191 + if held.isEmpty then 0 else 8192

/-- `SLICE_STATUS.range_busy`: a range packet's line action is in progress at a slice or at its tint ways. -/
def Mach.rangeBusy (m : Mach) (die ch : Nat) : Bool :=
  (m.homeHolds.any HReq.isRange &&
    (((m.sliceLines die ch).any fun x => (x.2.waiting ++ x.2.serving).any HReq.isRange) ||
      ((m.slice die ch).notes.any fun x => x.2.req.isRange) || ((m.slice die ch).behind.any fun x => x.2.isRange))) ||
    m.ranges.any fun o => o.tints.any fun x => x.1 == die && m.hc x.2.1 == ch && !(x.2.2 && m.tintDone x.1 x.2.1)

/-- A bit as a number. -/
def bnum (b : Bool) : Nat := if b then 1 else 0

/-- `CSUP_STATE` reads 7 while a debugger has halted a group of a preparing or running launch. -/
def Mach.csupState (m : Mach) (cl w : Nat) : Nat :=
  let halted := (slotsOfCluster cl).any fun s => (groupsOf m s).any fun g => match m.group? s g with
    | some x => x.stat == .haltDebug
    | none => false
  if halted && (w % 8 == 2 || w % 8 == 3) then w / 8 * 8 + 7 else w

/-- The debug registers that show the selected core (Table 18.6); nothing shows of a core in a cluster of a Sable-mode
partition (R488, R504). -/
def Mach.dbgShow (m : Mach) (die : Nat) (h : RegHit) (w : W32) : W32 :=
  let a := h.row.addr
  let slot := m.dbgSlot die
  let g := m.dbgGroup die
  if !(a = Reg.DBG_GROUP_STATE ∨ a = Reg.DBG_HALT_INFO ∨ a = Reg.DBG_BRK_CODE ∨ a = Reg.DBG_STEP) then w
  else if m.sableCluster (clusterOfSlot slot) then 0
  else if a = Reg.DBG_GROUP_STATE then
    BitVec.ofNat 32 (((List.range 8).map fun k => m.groupState slot k * 16 ^ k).foldl (· + ·) 0)
  else if a = Reg.DBG_STEP then
    let n := (m.core slot).steps
    if h.high then (n >>> 32).setWidth 32 else n.setWidth 32
  else match m.group? slot g with
    | none => 0
    | some x => if a = Reg.DBG_BRK_CODE then x.brk else BitVec.ofNat 32 (x.reason + 256 * x.cause)

/-- A field of a word replaced by what is found at the read. -/
def shown (w : W32) (lo n v : Nat) : W32 := putBits w lo n v

/-- A word of the queue, partition and link registers as it reads. -/
def Mach.showQueues (m : Mach) (die : Nat) (h : RegHit) (w : W32) : W32 :=
  let a := h.row.addr
  let i := h.i 0
  if a = Reg.Q_STATUS then
    let x := m.queue i
    shown (shown w 8 1 (bnum (!x.jobs.isEmpty || !x.ended.isEmpty))) 9 1 (bnum (x.semFrom.isSome || x.semKept.isSome))
  else if a = Reg.Q_SEM_OWNER then shown w 7 1 (bnum (m.semHeld i))
  else if a = Reg.PART_TLB_INV then shown w 1 1 (bnum (m.tlbBusy i))
  else if a = Reg.PART_COUNTS then BitVec.ofNat 32 ((m.ownClusters i).length + 2 ^ 12 * (m.ownGranules i).length)
  else if a = Reg.PART_CLUSTER_OWNER then shown w 6 1 (bnum (m.clusterBusy i))
  else if a = Reg.VL_OUTSTANDING then BitVec.ofNat 32 m.vlOutstanding
  else if a = Reg.LU_ENTRIES then match fportOf (unitAt die h) with
    | some fp => let n := (m.port fp).ents.length; BitVec.ofNat 32 (n + 2 ^ 16 * (2048 - n))
    | none => w
  else if a = Reg.LU_CREDIT_RES then match fportOf (unitAt die h) with
    | some fp => shown w 16 11 (min (m.portUsed fp (h.i 2)) (bitsOf w.toNat 0 11))
    | none => w
  else w

/-- The fields `pc`, `info`, `lanes` and `time` of a core's fault record: they read as zero while its cluster belongs to a
partition in Sable mode, and the word with `cause`, `group`, `further` and `status` reads as held (R86). -/
def recHidden (h : RegHit) : Bool :=
  let a := h.row.addr
  a == Reg.CSUP_REC_8 || a == Reg.CSUP_REC_10 || a == Reg.CSUP_REC_18 || a == Reg.CSUP_REC_1C

/-- A word of a core's fault record as it reads (R86). -/
def Mach.recShow (m : Mach) (cl : Nat) (h : RegHit) (w : W32) : W32 := if recHidden h && m.sableCluster cl then 0 else w

/-- A word of the cache, power and clock registers as it reads. -/
def Mach.showBlocks (m : Mach) (die : Nat) (h : RegHit) (w : W32) : W32 :=
  let a := h.row.addr
  let i := h.i 0
  let cl := 36 * die + i
  if a = Reg.CSUP_STATE then BitVec.ofNat 32 (m.csupState cl w.toNat)
  else if recHidden h then m.recShow cl h w
  else if a = Reg.SLICE_PIN_USED then BitVec.ofNat 32 (m.pinUsed die i (h.i 1))
  else if a = Reg.SLICE_STATUS then
    shown w 4 1 (bnum (m.rangeBusy die i))
  else if a = Reg.TINT_STATUS then BitVec.ofNat 32 (m.tintStatus die)
  else if a = Reg.CLK_EN_MC then
    ((List.range 32).foldl (fun (x : W32) k =>
      let ch := k + if h.high then 32 else 0
      let st := m.chanState die ch
      if st = cOFF ∨ st = cFAILED ∨ st = cSHUT then x else x ||| (1#32 <<< k)) 0)
  else if a = Reg.CLK_EN_LU then
    ((List.range 8).foldl (fun (x : W32) k =>
      let on := if isHostUnit die (k / 2) (k % 2) then m.fld (at_ 0 Reg.VL_STATE) 0 3 != 0
                else m.fld (aUnit die (k / 2) (k % 2) Reg.LU_STATE) 0 3 != 0
      if on then x ||| (1#32 <<< k) else x) 0)
  else if a = Reg.PWR_VCORE_STATUS then shown w 21 2 (m.regMode die)
  else w

/-- A word of a value, lowest first. -/
def nthWord (n : Nat) (x : BitVec n) (k : Nat) : W32 := (x >>> (32 * k)).setWidth 32

/-- A word of a register as it reads (R10). -/
def State.readWord (s : State) (die off : Nat) (h : RegHit) : W32 :=
  let m := s.m
  let a := h.row.addr
  let w := m.rd (ctlAddr die off h)
  let half := bnum h.high
  match h.row.blk with
  | .identity => if a < Reg.ID_MEM_LOT then w else m.idWord die off
  | .debug => m.dbgShow die h w
  | .queues | .partitions | .edgePort => m.showQueues die h w
  | .host => if a = Reg.VL_WIN_BASE then nthWord 64 s.kept.winBase half else m.showQueues die h w
  | .clusterSup | .slice | .home => m.showBlocks die h w
  | .power => if a = Reg.PWR_ENERGY_UJ then nthWord 64 s.kept.energy half else m.showBlocks die h w
  | .clocks => if a = Reg.CLK_STRAP then s.kept.strap.setWidth 32 else m.showBlocks die h w
  | .security =>
    if a = Reg.SEC_STATUS then
      BitVec.ofNat 32 (bnum m.runBank + 2 * bnum s.kept.trial + 4 * m.update + 16 * bnum s.kept.sealed)
    else if a = Reg.SEC_MODULE_ID then nthWord 64 moduleId half
    else if a = Reg.SEC_SVN_MIN then BitVec.ofNat 32 s.kept.svnMin
    else if a = Reg.SEC_ID_PUB then nthWord 256 idPublic (h.i 0)
    else if a = Reg.SEC_KX_PUB then nthWord 256 kxPublic (h.i 0)
    else if a = Reg.SEC_MEAS then nthWord 512 (m.meas.get (h.i 0) 0) (h.i 1)
    else if a = Reg.SEC_PMEAS then nthWord 512 (m.meas.get (8 + h.i 0) 0) (h.i 1)
    else w
  | .mailbox | .resets | .channel | .laneRole => w

/-- A read that reaches its register, or the status it completes with instead: a warm reset turns away writes only (R31, R454). -/
def Mach.readLook (m : Mach) (die off : Nat) : RegHit ⊕ Status :=
  match ctlFind die off with
  | none => .inr .errDecode
  | some h => if m.gated die h then .inr .errGated else .inl h

/-- A 4-byte read of a register's word (R9): of a high half, the word that the requester's read of the low half latched, if that
was its last access to the register; of a low half, which latches the high half. -/
def State.wordRead (s : State) (who : Requester) (die off : Nat) (h : RegHit) : State × W32 :=
  let w := s.readWord die off h
  if !h.row.wide then (s, w)
  else if h.high then
    let key := latchKey who die (off - 4)
    ({ s with m := { s.m with latches := s.m.latches.del key } }, s.m.latches.get key w)
  else
    let hi := s.readWord die (off + 4) { h with high := true }
    ({ s with m := { s.m with latches := s.m.latches.put (latchKey who die off) hi } }, w)

/-- Two words as one 64-bit value. -/
def joined (lo hi : W32) : W64 := lo.setWidth 64 ||| (hi.setWidth 64 <<< 32)

/-- An answered read. -/
def State.readDone (r : State × W64) : State := { r.1 with m := r.1.m.answer .ok r.2 }

/-- A 4-byte read (R8, R9). DESIGN CHOICE (log 104): one that is turned away before it reaches its register leaves the
requester's latch of it in place. -/
def State.read4 (s : State) (who : Requester) (die off : Nat) : State :=
  match s.m.readLook die off with
  | .inr st => { s with m := s.m.answer st }
  | .inl h =>
    let r := s.wordRead who die off h
    State.readDone (r.1, r.2.setWidth 64)

/-- An 8-byte read (R8, R9): of a 64-bit register both halves at one instant, which ends the requester's latch of it; of two
words, each read as by its own 4-byte read, the low word first, and neither when one of them is turned away. -/
def State.read8 (s : State) (who : Requester) (die off : Nat) : State :=
  match s.m.readLook die off, s.m.readLook die (off + 4) with
  | .inr a, .inr b => { s with m := s.m.answer (a.first b) }
  | .inr a, .inl _ => { s with m := s.m.answer a }
  | .inl _, .inr b => { s with m := s.m.answer b }
  | .inl h, .inl k =>
    if h.row.wide && !h.high then
      State.readDone ({ s with m := s.m.endLatch who die off h }, joined (s.readWord die off h) (s.readWord die (off + 4) k))
    else
      let a := s.wordRead who die off h
      let b := a.1.wordRead who die (off + 4) k
      State.readDone (b.1, joined a.2 b.2)

/-- A control-space read (R8). -/
def State.controlRead (s : State) (who : Requester) (die off size : Nat) : State :=
  if !((size == 4 || size == 8) && off % size == 0) then { s with m := s.m.answer .errDecode }
  else if size = 4 then s.read4 who die off else s.read8 who die off

/-- LOW_HALF_READ, and the other reads of control space. -/
def execLowHalfRead (who : Requester) (die : Die) (off : ReadAt) (s : State) : Host.Outcome State Fault Refusal :=
  .next (if s.m.powered && s.m.canReach who then s.controlRead who die.val off.off off.size else s)

end Sys2Proof.Machine
end

