-- ==== Sys2Proof/Machine/Vector.lean ====
section
/-! DEFINITION. FP32 arithmetic, transcendentals, reductions, conversions and permutes of the vector engine
(R127 to R136, R158 to R165, Tables 6.6 to 6.12). -/
namespace Sys2Proof.Machine

/-! ### FP32 arithmetic (R158, R159) -/

/-- The functions of Table 6.6. -/
inductive FpOp where
  | add | sub | mul | fma | fms | nma | min | max | abs | neg | scale
deriving DecidableEq, Repr

/-- One lane of an FP32 function. -/
def fpOp (op : FpOp) (a b c : W32) : W32 :=
  match op with
  | .add => fAdd a b | .sub => fSub a b | .mul => fMul a b
  | .fma => fFma a b c | .fms => fFms a b c | .nma => fNma a b c
  | .min => fMin a b | .max => fMax a b | .abs => fAbs a | .neg => fNeg a | .scale => fScale a b

/-- Functions of three operands and of one, which exist only in VFP (R158). -/
def FpOp.three : FpOp → Bool
  | .fma | .fms | .nma => true
  | _ => false
def FpOp.one : FpOp → Bool
  | .abs | .neg => true
  | _ => false

/-- The word checks of VFP and VFPI. -/
def fpCheck (op : FpOp) (f : FpForm) (w : IW) : Option Refuse :=
  match f with
  | .vfp => checkR w (w.t == 6) (.v 1) (.v 1) (if op.one then .none else .vs) (if op.three then .v 1 else .none)
  | .vfpi => if op.three || op.one then some .opcode else checkI w (w.t == 6) (.v 1) (.v 1) true

/-- What VFP and VFPI write. -/
def Group.fpDo (g : Group) (op : FpOp) (f : FpForm) (w : IW) : Group :=
  let b := match f with
    | .vfp => g.vOrS w
    | .vfpi => immVec w
  g.vectorOut w (vmake fun l => fpOp op (vget (g.rv w.an) l) (vget b l) (vget (g.rv w.c) l))

/-- One FP32 instruction. -/
def Mach.fp (m : Mach) (g : GRef) (op : FpOp) (f : FpForm) (w : IW) : Mach :=
  m.issueReg g (fpCheck op f w) fun x => x.fpDo op f w

/-- FADD. -/
def execFadd (g : GRef) (f : FpForm) (w : IW) : State → Host.Outcome State Fault Refusal := asFetched g (.fadd g f w) fun m => m.fp g .add f w
/-- FSUB. -/
def execFsub (g : GRef) (f : FpForm) (w : IW) : State → Host.Outcome State Fault Refusal := asFetched g (.fsub g f w) fun m => m.fp g .sub f w
/-- FMUL. -/
def execFmul (g : GRef) (f : FpForm) (w : IW) : State → Host.Outcome State Fault Refusal := asFetched g (.fmul g f w) fun m => m.fp g .mul f w
/-- FFMA. -/
def execFfma (g : GRef) (f : FpForm) (w : IW) : State → Host.Outcome State Fault Refusal := asFetched g (.ffma g f w) fun m => m.fp g .fma f w
/-- FFMS. -/
def execFfms (g : GRef) (f : FpForm) (w : IW) : State → Host.Outcome State Fault Refusal := asFetched g (.ffms g f w) fun m => m.fp g .fms f w
/-- FNMA. -/
def execFnma (g : GRef) (f : FpForm) (w : IW) : State → Host.Outcome State Fault Refusal := asFetched g (.fnma g f w) fun m => m.fp g .nma f w
/-- FMIN. -/
def execFmin (g : GRef) (f : FpForm) (w : IW) : State → Host.Outcome State Fault Refusal := asFetched g (.fmin g f w) fun m => m.fp g .min f w
/-- FMAX. -/
def execFmax (g : GRef) (f : FpForm) (w : IW) : State → Host.Outcome State Fault Refusal := asFetched g (.fmax g f w) fun m => m.fp g .max f w
/-- FABS. -/
def execFabs (g : GRef) (f : FpForm) (w : IW) : State → Host.Outcome State Fault Refusal := asFetched g (.fabs g f w) fun m => m.fp g .abs f w
/-- FNEG. -/
def execFneg (g : GRef) (f : FpForm) (w : IW) : State → Host.Outcome State Fault Refusal := asFetched g (.fneg g f w) fun m => m.fp g .neg f w
/-- FSCALE. -/
def execFscale (g : GRef) (f : FpForm) (w : IW) : State → Host.Outcome State Fault Refusal := asFetched g (.fscale g f w) fun m => m.fp g .scale f w

/-! ### Transcendentals (R160) -/

/-- One VTRANS instruction. -/
def Mach.vtrans (m : Mach) (g : GRef) (func : Nat) (w : IW) : Mach :=
  m.issueReg g (checkR w (w.t == 6) (.v 1) (.v 1) .none .none) fun x =>
    x.vectorOut w (vmake fun l => vtransOp func (vget (x.rv w.an) l))

/-- FRCP. -/
def execFrcp (g : GRef) (w : IW) : State → Host.Outcome State Fault Refusal := asFetched g (.frcp g w) fun m => m.vtrans g 0 w
/-- FRSQRT. -/
def execFrsqrt (g : GRef) (w : IW) : State → Host.Outcome State Fault Refusal := asFetched g (.frsqrt g w) fun m => m.vtrans g 1 w
/-- FSQRT. -/
def execFsqrt (g : GRef) (w : IW) : State → Host.Outcome State Fault Refusal := asFetched g (.fsqrt g w) fun m => m.vtrans g 2 w
/-- FEXP2. -/
def execFexp2 (g : GRef) (w : IW) : State → Host.Outcome State Fault Refusal := asFetched g (.fexp2 g w) fun m => m.vtrans g 3 w
/-- FLOG2. -/
def execFlog2 (g : GRef) (w : IW) : State → Host.Outcome State Fault Refusal := asFetched g (.flog2 g w) fun m => m.vtrans g 4 w
/-- FSINPI. -/
def execFsinpi (g : GRef) (w : IW) : State → Host.Outcome State Fault Refusal := asFetched g (.fsinpi g w) fun m => m.vtrans g 5 w
/-- FCOSPI. -/
def execFcospi (g : GRef) (w : IW) : State → Host.Outcome State Fault Refusal := asFetched g (.fcospi g w) fun m => m.vtrans g 6 w
/-- FTANH. -/
def execFtanh (g : GRef) (w : IW) : State → Host.Outcome State Fault Refusal := asFetched g (.ftanh g w) fun m => m.vtrans g 7 w

/-! ### Reductions across lanes (R161) -/

/-- One VRED instruction in .F32. -/
def Mach.redF (m : Mach) (g : GRef) (w : IW) (f : W32 → W32 → W32) : Mach :=
  m.issueReg g (checkR w (w.t == 6) .s (.v 1) .none .none) fun x =>
    x.scalarOut w ((reduceLanes f (x.rp w.pn) (x.rv w.an)).setWidth 64)
/-- One VRED instruction in .U32 or .S32. -/
def Mach.redI (m : Mach) (g : GRef) (w : IW) (op : IntOp) : Mach :=
  let f (a b : W32) : W32 := (intOp op w.t (a.setWidth 64) (b.setWidth 64) 0).setWidth 32
  m.issueReg g (checkR w (w.t < 2) .s (.v 1) .none .none) fun x =>
    x.scalarOut w (extend w.t ((reduceLanes f (x.rp w.pn) (x.rv w.an)).setWidth 64))

/-- FRADD. -/
def execFradd (g : GRef) (w : IW) : State → Host.Outcome State Fault Refusal := asFetched g (.fradd g w) fun m => m.redF g w fAdd
/-- FRMAX. -/
def execFrmax (g : GRef) (w : IW) : State → Host.Outcome State Fault Refusal := asFetched g (.frmax g w) fun m => m.redF g w fMax
/-- FRMIN. -/
def execFrmin (g : GRef) (w : IW) : State → Host.Outcome State Fault Refusal := asFetched g (.frmin g w) fun m => m.redF g w fMin
/-- IRADD. -/
def execIradd (g : GRef) (w : IW) : State → Host.Outcome State Fault Refusal := asFetched g (.iradd g w) fun m => m.redI g w .add
/-- IRMAX. -/
def execIrmax (g : GRef) (w : IW) : State → Host.Outcome State Fault Refusal := asFetched g (.irmax g w) fun m => m.redI g w .max
/-- IRMIN. -/
def execIrmin (g : GRef) (w : IW) : State → Host.Outcome State Fault Refusal := asFetched g (.irmin g w) fun m => m.redI g w .min

/-! ### Conversions (R162 to R164) -/

/-- The sixteen draws of a stochastic conversion with an active lane, and the core after them (R131); other
conversions draw nothing. -/
def Mach.drawWords (m : Mach) (slot : Nat) (rs : Bool) (p : W32) : List W64 × Mach :=
  if rs && p != 0 then
    let c := m.core slot
    let r := rngDraws 16 c.rng
    (r.1, m.setCore slot { c with rng := r.2 })
  else ([], m)

/-- The word checks of CVT (Tables 6.9, 6.10; R127): the control field, then the operands. -/
def cvtCheck (func : Nat) (w : IW) : Option Refuse :=
  let known := decide (func < 8) || (decide (0x10 ≤ func) && decide (func < 0x18)) || (decide (0x20 ≤ func) && decide (func < 0x24))
  let rnd := w.c % 4
  let sat := w.c / 4 % 2
  let part := w.c / 8 % 4
  if !known then some .opcode
  else match checkR w (w.t == 6) (.v 1) (.v 1) (if func < 8 then .vs else .none) .ctl with
    | some .opcode => some .opcode
    | r =>
      if w.c / 32 ≠ 0 ∨ rnd = 3 then some .opcode
      else
        let ok :=
          if func < 2 then part == 0
          else if func < 8 then decide (part < 2)
          else if func < 0x12 then rnd == 0 && sat == 0 && decide (part < 2)
          else if func < 0x18 then rnd == 0 && sat == 0
          else sat == 0 && part == 0
        if ok then r else some .operand

/-- CVT. -/
def Mach.cvt (m : Mach) (gr : GRef) (func : Nat) (w : IW) : Mach :=
  m.issue gr (cvtCheck func w) fun m x =>
    let slot := gr.slot.val
    let p := x.rp w.pn
    let (ds, m) := m.drawWords slot (w.c % 4 == 2) p
    let b := x.vOrS w
    let v := vmake fun l => cvtLane func (w.c % 4) (w.c / 8 % 4) (w.c / 4 % 2 == 1) (rngWord ds l)
      (vget (x.rv w.dn) l) (vget (x.rv w.an) l) (vget b l)
    .done (m.setGroup slot gr.group.val (x.wv p w.dn v).advance)

/-- CVT. -/
def execCvt (g : GRef) (func : BitVec 6) (w : IW) : State → Host.Outcome State Fault Refusal :=
  asFetched g (.cvt g func w) fun m => m.cvt g func.toNat w

/-- The values of the lanes of a mask. -/
def laneVals (p : W32) (v : Vec) : List FVal := ((List.range 32).filter fun l => p.getLsbD l).map fun l => f32 (vget v l)

/-- The word checks of BSCALE. -/
def bscaleCheck (func : Nat) (w : IW) : Option Refuse :=
  if (elemFmt func).isNone then some .opcode else checkR w (w.t == 6) .s (.v 1) .none .none

/-- BSCALE (R163). -/
def execBscale (g : GRef) (func : BitVec 6) (w : IW) : State → Host.Outcome State Fault Refusal :=
  asFetched g (.bscale g func w) fun m => m.issueReg g (bscaleCheck func.toNat w) fun x =>
    match elemFmt func.toNat with
    | none => x
    | some f => x.scalarOut w (BitVec.ofNat 64 (blockScale f (laneVals (x.rp w.pn) (x.rv w.an))).1)

/-- The word checks of BCVT (R164). -/
def bcvtCheck (func : Nat) (w : IW) : Option Refuse :=
  match elemFmt func with
  | none => some .opcode
  | some f =>
    match checkI w (w.t == 6) (.v 2) (.v 1) true with
    | some .opcode => some .opcode
    | r =>
      let i := w.lo.toNat
      if i / 64 % 4 = 3 then some .opcode
      else if i / 256 ≠ 0 ∨ 4 * (i % 64) + 4 * f.bits > 256 then some .operand else r

/-- The word that BCVT places in lane l of register r of the pair, when that lane lies inside the placed bytes. -/
def bcvtWord (packed off bytes r l : Nat) : Option W32 :=
  let pos := 128 * r + 4 * l
  if off ≤ pos ∧ pos + 4 ≤ off + bytes then some (BitVec.ofNat 32 (packed / 2 ^ (8 * (pos - off)))) else none

/-- What BCVT writes: lanes wholly inside the placed bytes whose governing bit is set (R164). DESIGN CHOICE (log 108, unsafe): under
.RS each element is rounded with the random word of its own lane, whatever that lane's governing bit (R131). -/
def Group.bcvtDo (x : Group) (f : Fmt) (w : IW) (ds : List W64) : Group :=
  let p := x.rp w.pn
  let src := x.rv w.an
  let i := w.lo.toNat
  let sc := blockScale f ((List.range 32).map fun l => f32 (vget src l))
  let es := (List.range 32).map fun l =>
    if sc.2 then 0 else blockElem f (roundingOf (i / 64 % 4) (rngWord ds l)) sc.1 (f32 (vget src l))
  let packed := packElems f es
  let put (x : Group) (r : Nat) : Group :=
    let word (l : Nat) := bcvtWord packed (4 * (i % 64)) (4 * f.bits) r l
    let mask := maskOf fun l => p.getLsbD l && (word l).isSome
    x.wv mask (w.dn + r) (vmake fun l => (word l).getD 0)
  put (put x 0) 1

/-- BCVT (R164, R136). -/
def Mach.bcvt (m : Mach) (gr : GRef) (func : Nat) (w : IW) : Mach :=
  m.issue gr (bcvtCheck func w) fun m x =>
    match elemFmt func with
    | none => .done m
    | some f =>
      let slot := gr.slot.val
      let (ds, m) := m.drawWords slot (w.lo.toNat / 64 % 4 == 2) (x.rp w.pn)
      .done (m.setGroup slot gr.group.val (x.bcvtDo f w ds).advance)

/-- BCVT. -/
def execBcvt (g : GRef) (func : BitVec 6) (w : IW) : State → Host.Outcome State Fault Refusal :=
  asFetched g (.bcvt g func w) fun m => m.bcvt g func.toNat w

/-! ### Permutes (R165, Table 6.12) -/

/-- A vector with lane l taken from lane f(l) of another. -/
def gather (v : Vec) (f : Nat → Nat) : Vec := vmake fun l => vget v (f l % 32)

/-- SHFL. -/
def execShfl (g : GRef) (w : IW) : State → Host.Outcome State Fault Refusal :=
  asFetched g (.shfl g w) fun m => m.issueReg g (checkR w (w.t == 4) (.v 1) (.v 1) .vs .none) fun x =>
    let b := x.vOrS w
    x.vectorOut w (gather (x.rv w.an) fun l => (vget b l).toNat)
/-- ROT. -/
def execRot (g : GRef) (w : IW) : State → Host.Outcome State Fault Refusal :=
  asFetched g (.rot g w) fun m => m.issueReg g (checkR w (w.t == 4) (.v 1) (.v 1) .sReq .none) fun x =>
    x.vectorOut w (gather (x.rv w.an) fun l => l + (x.rs w.b).toNat)
/-- QBSHUF. -/
def execQbshuf (g : GRef) (w : IW) : State → Host.Outcome State Fault Refusal :=
  asFetched g (.qbshuf g w) fun m => m.issueReg g (checkR w (w.t == 4) (.v 1) (.v 1) (.v 1) .none) fun x =>
    x.vectorOut w (vmake fun l => qbshufLane (x.rv w.an) (vget (x.rv w.b) l) l)

/-- The word checks of PERMI: immediate bits from `n` upward must be zero. -/
def permiCheck (w : IW) (a : Opd) (n : Nat) : Option Refuse :=
  match checkI w (w.t == 4) (.v 1) a true with
  | some r => some r
  | none => if w.lo.toNat / 2 ^ n = 0 then none else some .operand

/-- SHFL.XOR. -/
def execShflXor (g : GRef) (w : IW) : State → Host.Outcome State Fault Refusal :=
  asFetched g (.shflXor g w) fun m => m.issueReg g (permiCheck w (.v 1) 5) fun x =>
    x.vectorOut w (gather (x.rv w.an) fun l => Nat.xor l (w.lo.toNat % 32))
/-- ROTI. -/
def execRoti (g : GRef) (w : IW) : State → Host.Outcome State Fault Refusal :=
  asFetched g (.roti g w) fun m => m.issueReg g (permiCheck w (.v 1) 5) fun x =>
    x.vectorOut w (gather (x.rv w.an) fun l => l + w.lo.toNat % 32)
/-- LANEB. -/
def execLaneb (g : GRef) (w : IW) : State → Host.Outcome State Fault Refusal :=
  asFetched g (.laneb g w) fun m => m.issueReg g (permiCheck w (.v 1) 5) fun x =>
    x.vectorOut w (gather (x.rv w.an) fun _ => w.lo.toNat % 32)

/-- What INSB writes: one byte of one lane, when that lane is active. -/
def Group.insbDo (x : Group) (w : IW) : Group :=
  let lane := w.lo.toNat % 32
  let sh := 8 * (w.lo.toNat / 32 % 4)
  let b : W32 := ((x.rs w.an).setWidth 8 : Byte).setWidth 32
  x.vectorOut w (vmake fun l =>
    let old := vget (x.rv w.dn) l
    if l = lane then (old &&& ~~~(0xFF#32 <<< sh)) ||| (b <<< sh) else old)

/-- INSB. -/
def execInsb (g : GRef) (w : IW) : State → Host.Outcome State Fault Refusal :=
  asFetched g (.insb g w) fun m => m.issueReg g (permiCheck w .s 7) fun x => x.insbDo w

end Sys2Proof.Machine
end

