-- ==== Sys2Proof/Machine/Dispatch.lean ====
section
/-! DEFINITION. One arm per command: the call of its meaning. -/
namespace Sys2Proof.Machine

/-- The effect of a command on everything but the queue of commands that wait. -/
def exec (i : Instr) (s : State) : Host.Outcome State Fault Refusal :=
  match i with
  | .controlWrite who die off size data => Sys2Proof.Machine.execControlWrite who die off size data s
  | .lowHalfRead who die off => Sys2Proof.Machine.execLowHalfRead who die off s
  | .homeInterleaveWrite who die v => Sys2Proof.Machine.execHomeInterleaveWrite who die v s
  | .undervoltage die => Sys2Proof.Machine.execUndervoltage die s
  | .rimClockGateRequest die blk => Sys2Proof.Machine.execRimClockGateRequest die blk s
  | .crossingDrained die blk => Sys2Proof.Machine.execCrossingDrained die blk s
  | .rimClockGateTimeout die blk => Sys2Proof.Machine.execRimClockGateTimeout die blk s
  | .launch q => Sys2Proof.Machine.execLaunch q s
  | .slotFree cl slot => Sys2Proof.Machine.execSlotFree cl slot s
  | .add g f w => Sys2Proof.Machine.execAdd g f w s
  | .sub g f w => Sys2Proof.Machine.execSub g f w s
  | .min g f w => Sys2Proof.Machine.execMin g f w s
  | .max g f w => Sys2Proof.Machine.execMax g f w s
  | .abs g f w => Sys2Proof.Machine.execAbs g f w s
  | .neg g f w => Sys2Proof.Machine.execNeg g f w s
  | .and g f w => Sys2Proof.Machine.execAnd g f w s
  | .or g f w => Sys2Proof.Machine.execOr g f w s
  | .xor g f w => Sys2Proof.Machine.execXor g f w s
  | .andn g f w => Sys2Proof.Machine.execAndn g f w s
  | .not g f w => Sys2Proof.Machine.execNot g f w s
  | .shl g f w => Sys2Proof.Machine.execShl g f w s
  | .shr g f w => Sys2Proof.Machine.execShr g f w s
  | .popc g f w => Sys2Proof.Machine.execPopc g f w s
  | .clz g f w => Sys2Proof.Machine.execClz g f w s
  | .ctz g f w => Sys2Proof.Machine.execCtz g f w s
  | .mov g f w => Sys2Proof.Machine.execMov g f w s
  | .sel g f w => Sys2Proof.Machine.execSel g f w s
  | .mul g f w => Sys2Proof.Machine.execMul g f w s
  | .mulh g f w => Sys2Proof.Machine.execMulh g f w s
  | .mad g f w => Sys2Proof.Machine.execMad g f w s
  | .div g f w => Sys2Proof.Machine.execDiv g f w s
  | .rem g f w => Sys2Proof.Machine.execRem g f w s
  | .movi g w => Sys2Proof.Machine.execMovi g w s
  | .movhi g w => Sys2Proof.Machine.execMovhi g w s
  | .vmovi g w => Sys2Proof.Machine.execVmovi g w s
  | .vbcast g w => Sys2Proof.Machine.execVbcast g w s
  | .vlane g w => Sys2Proof.Machine.execVlane g w s
  | .vlaneid g w => Sys2Proof.Machine.execVlaneid g w s
  | .cmp g f cond w => Sys2Proof.Machine.execCmp g f cond w s
  | .setc g cond w => Sys2Proof.Machine.execSetc g cond w s
  | .pand g w => Sys2Proof.Machine.execPand g w s
  | .por g w => Sys2Proof.Machine.execPor g w s
  | .pxor g w => Sys2Proof.Machine.execPxor g w s
  | .pandn g w => Sys2Proof.Machine.execPandn g w s
  | .pnot g w => Sys2Proof.Machine.execPnot g w s
  | .pmov g w => Sys2Proof.Machine.execPmov g w s
  | .pset g w => Sys2Proof.Machine.execPset g w s
  | .pget g w => Sys2Proof.Machine.execPget g w s
  | .ppop g w => Sys2Proof.Machine.execPpop g w s
  | .pfirst g w => Sys2Proof.Machine.execPfirst g w s
  | .br g w => Sys2Proof.Machine.execBr g w s
  | .brInd g w => Sys2Proof.Machine.execBrInd g w s
  | .loop g w => Sys2Proof.Machine.execLoop g w s
  | .nop g w => Sys2Proof.Machine.execNop g w s
  | .exit g w => Sys2Proof.Machine.execExit g w s
  | .barBlock g w => Sys2Proof.Machine.execBarBlock g w s
  | .barCluster g w => Sys2Proof.Machine.execBarCluster g w s
  | .barrierComplete b => Sys2Proof.Machine.execBarrierComplete b s
  | .barrierTimeout b => Sys2Proof.Machine.execBarrierTimeout b s
  | .brk g w => Sys2Proof.Machine.execBrk g w s
  | .rdsr g w => Sys2Proof.Machine.execRdsr g w s
  | .fetch g ext => Sys2Proof.Machine.execFetch g ext s
  | .launchHalt l => Sys2Proof.Machine.execLaunchHalt l s
  | .fadd g f w => Sys2Proof.Machine.execFadd g f w s
  | .fsub g f w => Sys2Proof.Machine.execFsub g f w s
  | .fmul g f w => Sys2Proof.Machine.execFmul g f w s
  | .ffma g f w => Sys2Proof.Machine.execFfma g f w s
  | .ffms g f w => Sys2Proof.Machine.execFfms g f w s
  | .fnma g f w => Sys2Proof.Machine.execFnma g f w s
  | .fmin g f w => Sys2Proof.Machine.execFmin g f w s
  | .fmax g f w => Sys2Proof.Machine.execFmax g f w s
  | .fabs g f w => Sys2Proof.Machine.execFabs g f w s
  | .fneg g f w => Sys2Proof.Machine.execFneg g f w s
  | .fscale g f w => Sys2Proof.Machine.execFscale g f w s
  | .frcp g w => Sys2Proof.Machine.execFrcp g w s
  | .frsqrt g w => Sys2Proof.Machine.execFrsqrt g w s
  | .fsqrt g w => Sys2Proof.Machine.execFsqrt g w s
  | .fexp2 g w => Sys2Proof.Machine.execFexp2 g w s
  | .flog2 g w => Sys2Proof.Machine.execFlog2 g w s
  | .fsinpi g w => Sys2Proof.Machine.execFsinpi g w s
  | .fcospi g w => Sys2Proof.Machine.execFcospi g w s
  | .ftanh g w => Sys2Proof.Machine.execFtanh g w s
  | .fradd g w => Sys2Proof.Machine.execFradd g w s
  | .frmax g w => Sys2Proof.Machine.execFrmax g w s
  | .frmin g w => Sys2Proof.Machine.execFrmin g w s
  | .iradd g w => Sys2Proof.Machine.execIradd g w s
  | .irmax g w => Sys2Proof.Machine.execIrmax g w s
  | .irmin g w => Sys2Proof.Machine.execIrmin g w s
  | .cvt g func w => Sys2Proof.Machine.execCvt g func w s
  | .bscale g func w => Sys2Proof.Machine.execBscale g func w s
  | .bcvt g func w => Sys2Proof.Machine.execBcvt g func w s
  | .shfl g w => Sys2Proof.Machine.execShfl g w s
  | .rot g w => Sys2Proof.Machine.execRot g w s
  | .qbshuf g w => Sys2Proof.Machine.execQbshuf g w s
  | .shflXor g w => Sys2Proof.Machine.execShflXor g w s
  | .roti g w => Sys2Proof.Machine.execRoti g w s
  | .laneb g w => Sys2Proof.Machine.execLaneb g w s
  | .insb g w => Sys2Proof.Machine.execInsb g w s
  | .mma g func w => Sys2Proof.Machine.execMma g func w s
  | .mmaSp g func w => Sys2Proof.Machine.execMmaSp g func w s
  | .matrixTileWrite slot => Sys2Proof.Machine.execMatrixTileWrite slot s
  | .tzero g w => Sys2Proof.Machine.execTzero g w s
  | .tldV g w => Sys2Proof.Machine.execTldV g w s
  | .tstV g w => Sys2Proof.Machine.execTstV g w s
  | .tldS g w => Sys2Proof.Machine.execTldS g w s
  | .tstS g w => Sys2Proof.Machine.execTstS g w s
  | .ldS g func w => Sys2Proof.Machine.execLdS g func w s
  | .ldV g func w => Sys2Proof.Machine.execLdV g func w s
  | .ldG g func w => Sys2Proof.Machine.execLdG g func w s
  | .stS g func w => Sys2Proof.Machine.execStS g func w s
  | .stV g func w => Sys2Proof.Machine.execStV g func w s
  | .stG g func w => Sys2Proof.Machine.execStG g func w s
  | .pfL1 g w => Sys2Proof.Machine.execPfL1 g w s
  | .pfSlice g w => Sys2Proof.Machine.execPfSlice g w s
  | .atom g func w => Sys2Proof.Machine.execAtom g func w s
  | .red g func w => Sys2Proof.Machine.execRed g func w s
  | .ldr g func w => Sys2Proof.Machine.execLdr g func w s
  | .stc g func w => Sys2Proof.Machine.execStc g func w s
  | .fence g w => Sys2Proof.Machine.execFence g w s
  | .fenceC g w => Sys2Proof.Machine.execFenceC g w s
  | .acq g w => Sys2Proof.Machine.execAcq g w s
  | .rel g w => Sys2Proof.Machine.execRel g w s
  | .fenceComplete g => Sys2Proof.Machine.execFenceComplete g s
  | .tmSubmit g w => Sys2Proof.Machine.execTmSubmit g w s
  | .tmWait g w => Sys2Proof.Machine.execTmWait g w s
  | .tmTest g w => Sys2Proof.Machine.execTmTest g w s
  | .tmChunk cl ext => Sys2Proof.Machine.execTmChunk cl ext s
  | .storeBufferSend g => Sys2Proof.Machine.execStoreBufferSend g s
  | .loadAnswer rid ext => Sys2Proof.Machine.execLoadAnswer rid ext s
  | .storeAck rid ext => Sys2Proof.Machine.execStoreAck rid ext s
  | .requestTimeout rid => Sys2Proof.Machine.execRequestTimeout rid s
  | .tintRead rid => Sys2Proof.Machine.execTintRead rid s
  | .plainRead r => Sys2Proof.Machine.execPlainRead r s
  | .write r => Sys2Proof.Machine.execWrite r s
  | .reduceStore rid => Sys2Proof.Machine.execReduceStore rid s
  | .atomRequest rid => Sys2Proof.Machine.execAtomRequest rid s
  | .ldrRequest rid => Sys2Proof.Machine.execLdrRequest rid s
  | .stcRequest rid => Sys2Proof.Machine.execStcRequest rid s
  | .leaseExpiry line => Sys2Proof.Machine.execLeaseExpiry line s
  | .memoryData die ch => Sys2Proof.Machine.execMemoryData die ch s
  | .channelRequest die ch => Sys2Proof.Machine.execChannelRequest die ch s
  | .prefetch q => Sys2Proof.Machine.execPrefetch q s
  | .flush q => Sys2Proof.Machine.execFlush q s
  | .invalidate q => Sys2Proof.Machine.execInvalidate q s
  | .pin q => Sys2Proof.Machine.execPin q s
  | .unpin q => Sys2Proof.Machine.execUnpin q s
  | .rangeLineAction die ch => Sys2Proof.Machine.execRangeLineAction die ch s
  | .rangeReport q => Sys2Proof.Machine.execRangeReport q s
  | .sliceCtrlWrite who die ch v => Sys2Proof.Machine.execSliceCtrlWrite who die ch v s
  | .tintChangeDone die ch => Sys2Proof.Machine.execTintChangeDone die ch s
  | .slicePinQuotaWrite who die ch p v => Sys2Proof.Machine.execSlicePinQuotaWrite who die ch p v s
  | .sliceCntClear who die ch v => Sys2Proof.Machine.execSliceCntClear who die ch v s
  | .rds a line => Sys2Proof.Machine.execRds a line s
  | .rdown line => Sys2Proof.Machine.execRdown line s
  | .upg line => Sys2Proof.Machine.execUpg line s
  | .putf e line => Sys2Proof.Machine.execPutf e line s
  | .puts line => Sys2Proof.Machine.execPuts line s
  | .pute line => Sys2Proof.Machine.execPute line s
  | .putm line img => Sys2Proof.Machine.execPutm line img s
  | .puto line img => Sys2Proof.Machine.execPuto line img s
  | .inv a line written => Sys2Proof.Machine.execInv a line written s
  | .fwdrd e line r => Sys2Proof.Machine.execFwdrd e line r s
  | .snprd line written => Sys2Proof.Machine.execSnprd line written s
  | .invack a line => Sys2Proof.Machine.execInvack a line s
  | .invdata line img => Sys2Proof.Machine.execInvdata line img s
  | .snpack line => Sys2Proof.Machine.execSnpack line s
  | .snpdata line img => Sys2Proof.Machine.execSnpdata line img s
  | .snpdatao line img => Sys2Proof.Machine.execSnpdatao line img s
  | .fwddone e line => Sys2Proof.Machine.execFwddone e line s
  | .putack a line => Sys2Proof.Machine.execPutack a line s
  | .retry a line => Sys2Proof.Machine.execRetry a line s
  | .credit a line => Sys2Proof.Machine.execCredit a line s
  | .grante line => Sys2Proof.Machine.execGrante line s
  | .dataf e line v => Sys2Proof.Machine.execDataf e line v s
  | .datas line v => Sys2Proof.Machine.execDatas line v s
  | .datae line v => Sys2Proof.Machine.execDatae line v s
  | .datapsn a line => Sys2Proof.Machine.execDatapsn a line s
  | .homeAmberReqWrite who die x => Sys2Proof.Machine.execHomeAmberReqWrite who die x s
  | .amberTransitionDone die ch => Sys2Proof.Machine.execAmberTransitionDone die ch s
  | .probeTimeout line a => Sys2Proof.Machine.execProbeTimeout line a s
  | .homeCntClear who die v => Sys2Proof.Machine.execHomeCntClear who die v s
  | .probeLogClear who die v => Sys2Proof.Machine.execProbeLogClear who die v s
  | .training die ch desc failed => Sys2Proof.Machine.execTraining die ch desc failed s
  | .trainingComplete die ch tuned => Sys2Proof.Machine.execTrainingComplete die ch tuned s
  | .recalNow who die ch v => Sys2Proof.Machine.execRecalNow who die ch v s
  | .recalIntervalExpiry die ch => Sys2Proof.Machine.execRecalIntervalExpiry die ch s
  | .recalWire die ch margin => Sys2Proof.Machine.execRecalWire die ch margin s
  | .refresh die ch => Sys2Proof.Machine.execRefresh die ch s
  | .offlineReq who die ch v => Sys2Proof.Machine.execOfflineReq who die ch v s
  | .onlineReq who die ch v => Sys2Proof.Machine.execOnlineReq who die ch v s
  | .ictRun who die ch v => Sys2Proof.Machine.execIctRun who die ch v s
  | .ictDone die ch failed => Sys2Proof.Machine.execIctDone die ch failed s
  | .go who die ch v => Sys2Proof.Machine.execGo who die ch v s
  | .stop who die ch v => Sys2Proof.Machine.execStop who die ch v s
  | .scrubLine die ch => Sys2Proof.Machine.execScrubLine die ch s
  | .rawRead who die ch v => Sys2Proof.Machine.execRawRead who die ch v s
  | .rawWrite who die ch v => Sys2Proof.Machine.execRawWrite who die ch v s
  | .mcCntClear who die ch v => Sys2Proof.Machine.execMcCntClear who die ch v s
  | .ceTableClear who die v => Sys2Proof.Machine.execCeTableClear who die v s
  | .frame u x => Sys2Proof.Machine.execFrame u x s
  | .dieLinkTrained die port => Sys2Proof.Machine.execDieLinkTrained die port s
  | .dieLinkFault die port why => Sys2Proof.Machine.execDieLinkFault die port why s
  | .failedDegraded die cause unit => Sys2Proof.Machine.execFailedDegraded die cause unit s
  | .portActive fp narrow ident => Sys2Proof.Machine.execPortActive fp narrow ident s
  | .identityFrame fp ident => Sys2Proof.Machine.execIdentityFrame fp ident s
  | .partnerLoss fp => Sys2Proof.Machine.execPartnerLoss fp s
  | .quiesceNotice fp => Sys2Proof.Machine.execQuiesceNotice fp s
  | .laneMarginLow die port lane height width => Sys2Proof.Machine.execLaneMarginLow die port lane height width s
  | .rd fp x => Sys2Proof.Machine.execRd fp x s
  | .wr fp x => Sys2Proof.Machine.execWr fp x s
  | .transportRed fp x => Sys2Proof.Machine.execTransportRed fp x s
  | .transportAtom fp x => Sys2Proof.Machine.execTransportAtom fp x s
  | .rdata fp x => Sys2Proof.Machine.execRdata fp x s
  | .ack fp x => Sys2Proof.Machine.execAck fp x s
  | .adata fp x => Sys2Proof.Machine.execAdata fp x s
  | .transitTimeout k => Sys2Proof.Machine.execTransitTimeout k s
  | .deadPartnerTimeout fp dev => Sys2Proof.Machine.execDeadPartnerTimeout fp dev s
  | .deadMapPropagation dev => Sys2Proof.Machine.execDeadMapPropagation dev s
  | .fabDeadMapWrite who die k v => Sys2Proof.Machine.execFabDeadMapWrite who die k v s
  | .routeLoadActive => Sys2Proof.Machine.execRouteLoadActive s
  | .luEnable who u => Sys2Proof.Machine.execLuEnable who u s
  | .luDisable who u => Sys2Proof.Machine.execLuDisable who u s
  | .luQuiesce who u => Sys2Proof.Machine.execLuQuiesce who u s
  | .quiesced fp => Sys2Proof.Machine.execQuiesced fp s
  | .luResume who u => Sys2Proof.Machine.execLuResume who u s
  | .luRetrain who u => Sys2Proof.Machine.execLuRetrain who u s
  | .lrRoleWrite who die port v => Sys2Proof.Machine.execLrRoleWrite who die port v s
  | .luCreditResWrite who fp p v => Sys2Proof.Machine.execLuCreditResWrite who fp p v s
  | .epCntClear who die port v => Sys2Proof.Machine.execEpCntClear who die port v s
  | .vilpinTrained rev2 => Sys2Proof.Machine.execVilpinTrained rev2 s
  | .vilpinLoss => Sys2Proof.Machine.execVilpinLoss s
  | .doorbell q tail => Sys2Proof.Machine.execDoorbell q tail s
  | .qCqHeadWrite q v => Sys2Proof.Machine.execQCqHeadWrite q v s
  | .qCfgWrite q v => Sys2Proof.Machine.execQCfgWrite q v s
  | .qIrqAddrWrite q x => Sys2Proof.Machine.execQIrqAddrWrite q x s
  | .copy q => Sys2Proof.Machine.execCopy q s
  | .fenceDescriptor q => Sys2Proof.Machine.execFenceDescriptor q s
  | .powerHint q => Sys2Proof.Machine.execPowerHint q s
  | .acquire q => Sys2Proof.Machine.execAcquire q s
  | .release q => Sys2Proof.Machine.execRelease q s
  | .set q => Sys2Proof.Machine.execSet q s
  | .acquireTimeout q => Sys2Proof.Machine.execAcquireTimeout q s
  | .completionRecord q => Sys2Proof.Machine.execCompletionRecord q s
  | .partCreate who p => Sys2Proof.Machine.execPartCreate who p s
  | .partActivate who p => Sys2Proof.Machine.execPartActivate who p s
  | .partReset who p => Sys2Proof.Machine.execPartReset who p s
  | .partRemove who p => Sys2Proof.Machine.execPartRemove who p s
  | .resetStep4Timeout p => Sys2Proof.Machine.execResetStep4Timeout p s
  | .partPreempt who p q => Sys2Proof.Machine.execPartPreempt who p q s
  | .saveComplete l => Sys2Proof.Machine.execSaveComplete l s
  | .partResume who p q => Sys2Proof.Machine.execPartResume who p q s
  | .restoreComplete l => Sys2Proof.Machine.execRestoreComplete l s
  | .partFreeze who p => Sys2Proof.Machine.execPartFreeze who p s
  | .freezeComplete p => Sys2Proof.Machine.execFreezeComplete p s
  | .partThaw who p => Sys2Proof.Machine.execPartThaw who p s
  | .clusterOwnerWrite who cl v => Sys2Proof.Machine.execClusterOwnerWrite who cl v s
  | .granuleOwnerWrite who gr v => Sys2Proof.Machine.execGranuleOwnerWrite who gr v s
  | .partCfgWrite who p v => Sys2Proof.Machine.execPartCfgWrite who p v s
  | .partRateWrite who p v => Sys2Proof.Machine.execPartRateWrite who p v s
  | .tokenRefill => Sys2Proof.Machine.execTokenRefill s
  | .partTlbInv who p v => Sys2Proof.Machine.execPartTlbInv who p v s
  | .partNotifyAddrWrite who p x => Sys2Proof.Machine.execPartNotifyAddrWrite who p x s
  | .vcoreTargetWrite who die v => Sys2Proof.Machine.execVcoreTargetWrite who die v s
  | .pwrCapWrite who v => Sys2Proof.Machine.execPwrCapWrite who v s
  | .capLoop mw volt inA outA inB outB => Sys2Proof.Machine.execCapLoop mw volt inA outA inB outB s
  | .hintExpiry p => Sys2Proof.Machine.execHintExpiry p s
  | .droopTrip die cl => Sys2Proof.Machine.execDroopTrip die cl s
  | .clampRelease die => Sys2Proof.Machine.execClampRelease die s
  | .dieLoopPeriod die temps => Sys2Proof.Machine.execDieLoopPeriod die temps s
  | .gate who die cl => Sys2Proof.Machine.execGate who die cl s
  | .wakeCluster who die cl => Sys2Proof.Machine.execWakeCluster who die cl s
  | .droopCfgWrite who die v => Sys2Proof.Machine.execDroopCfgWrite who die v s
  | .thermCfgWrite who die v => Sys2Proof.Machine.execThermCfgWrite who die v s
  | .stewardWarmReset => Sys2Proof.Machine.execStewardWarmReset s
  | .clkCtrlSrcWrite who die v => Sys2Proof.Machine.execClkCtrlSrcWrite who die v s
  | .loopALockLoss die => Sys2Proof.Machine.execLoopALockLoss die s
  | .loopBLockLoss die n => Sys2Proof.Machine.execLoopBLockLoss die n s
  | .clkEnWrite who die v => Sys2Proof.Machine.execClkEnWrite who die v s
  | .timerSnapshot who v => Sys2Proof.Machine.execTimerSnapshot who v s
  | .powerOnReset strap credClrLow warmLow => Sys2Proof.Machine.execPowerOnReset strap credClrLow warmLow s
  | .pwrGoodFall => Sys2Proof.Machine.execPwrGoodFall s
  | .rstCmdWarmReset who => Sys2Proof.Machine.execRstCmdWarmReset who s
  | .warmRstN => Sys2Proof.Machine.execWarmRstN s
  | .coreReset who die v => Sys2Proof.Machine.execCoreReset who die v s
  | .coreResetDrainTimeout die => Sys2Proof.Machine.execCoreResetDrainTimeout die s
  | .standby who => Sys2Proof.Machine.execStandby who s
  | .standbyComplete => Sys2Proof.Machine.execStandbyComplete s
  | .wake who => Sys2Proof.Machine.execWake who s
  | .strapDelayExpiry => Sys2Proof.Machine.execStrapDelayExpiry s
  | .crystalCheck die countA countB locks => Sys2Proof.Machine.execCrystalCheck die countA countB locks s
  | .stewardBoot => Sys2Proof.Machine.execStewardBoot s
  | .dieJoin die => Sys2Proof.Machine.execDieJoin die s
  | .stageBoundExpiry => Sys2Proof.Machine.execStageBoundExpiry s
  | .moduleReady => Sys2Proof.Machine.execModuleReady s
  | .attest h part nonce => Sys2Proof.Machine.execAttest h part nonce s
  | .identity h => Sys2Proof.Machine.execIdentity h s
  | .telemetry h => Sys2Proof.Machine.execTelemetry h s
  | .routeLoad h dev members groups => Sys2Proof.Machine.execRouteLoad h dev members groups s
  | .deadClear h dev => Sys2Proof.Machine.execDeadClear h dev s
  | .rxUpdate h es => Sys2Proof.Machine.execRxUpdate h es s
  | .setAddr h module manager => Sys2Proof.Machine.execSetAddr h module manager s
  | .warmReset h => Sys2Proof.Machine.execWarmReset h s
  | .fwStage h chunk last => Sys2Proof.Machine.execFwStage h chunk last s
  | .fwActivate h => Sys2Proof.Machine.execFwActivate h s
  | .fwConfirm h => Sys2Proof.Machine.execFwConfirm h s
  | .keyLoad h body => Sys2Proof.Machine.execKeyLoad h body s
  | .epochRetire h p epoch => Sys2Proof.Machine.execEpochRetire h p epoch s
  | .credSet h k key roles => Sys2Proof.Machine.execCredSet h k key roles s
  | .slateChunkTimeout seq => Sys2Proof.Machine.execSlateChunkTimeout seq s
  | .readBootState => Sys2Proof.Machine.execReadBootState s
  | .readModuleIdentifier => Sys2Proof.Machine.execReadModuleIdentifier s
  | .readHighestDieTemperature => Sys2Proof.Machine.execReadHighestDieTemperature s
  | .readStandbyState => Sys2Proof.Machine.execReadStandbyState s
  | .enroll key => Sys2Proof.Machine.execEnroll key s
  | .seal who v => Sys2Proof.Machine.execSeal who v s
  | .measExtend who v => Sys2Proof.Machine.execMeasExtend who v s
  | .secKslotEpochWrite who p v => Sys2Proof.Machine.execSecKslotEpochWrite who p v s
  | .dbgAttachArm who p v => Sys2Proof.Machine.execDbgAttachArm who p v s
  | .dbgAttachNow who p v => Sys2Proof.Machine.execDbgAttachNow who p v s
  | .dbgDetach who p v => Sys2Proof.Machine.execDbgDetach who p v s
  | .dbgHalt who die => Sys2Proof.Machine.execDbgHalt who die s
  | .dbgStep who die => Sys2Proof.Machine.execDbgStep who die s
  | .dbgResume who die => Sys2Proof.Machine.execDbgResume who die s
  | .dbgRead who die => Sys2Proof.Machine.execDbgRead who die s
  | .dbgWrite who die => Sys2Proof.Machine.execDbgWrite who die s
  | .dbgEnd who die => Sys2Proof.Machine.execDbgEnd who die s
  | .selfTest who die v => Sys2Proof.Machine.execSelfTest who die v s
  | .selfTestEnd die failed => Sys2Proof.Machine.execSelfTestEnd die failed s
  | .sliceTest who die v => Sys2Proof.Machine.execSliceTest who die v s
  | .sliceTestEnd die failed => Sys2Proof.Machine.execSliceTestEnd die failed s
  | .dbgCntCfgWrite who die k v => Sys2Proof.Machine.execDbgCntCfgWrite who die k v s
  | .csupCoreFaultClear who cl x => Sys2Proof.Machine.execCsupCoreFaultClear who cl x s
  | .dmFltConsumedWrite who die v => Sys2Proof.Machine.execDmFltConsumedWrite who die v s
  | .fatalClear who die v => Sys2Proof.Machine.execFatalClear who die v s
  | .dmIrqAddrWrite who x => Sys2Proof.Machine.execDmIrqAddrWrite who x s
  | .dmIrqPauseExpiry taken => Sys2Proof.Machine.execDmIrqPauseExpiry taken s
  | .illegalOpcode g word => Sys2Proof.Machine.execIllegalOpcode g word s
  | .vcoreRampDone die => Sys2Proof.Machine.execVcoreRampDone die s

end Sys2Proof.Machine
end

