-- ==== Sys2Proof/Machine/Tick.lean ====
section
/-! DEFINITION. One tick of the rim timers (R49), and the counters that count ticks (R436, Table 11.9), and the upsets of stored
bits that fall into it. It is what a step does when no command waits. -/
namespace Sys2Proof.Machine

/-! ### Upsets of stored bits (R232, R241, R305) -/

/-- A word of an array with a correctable and an uncorrectable mark: a further error in a word that holds one is uncorrectable. -/
def upsetWord (w : Nat) (hard : Bool) (soft bad : BitVec 16) : BitVec 16 × BitVec 16 :=
  let b : BitVec 16 := 1#16 <<< (w % 16)
  if hard || soft &&& b != 0 then (soft &&& ~~~b, bad ||| b) else (soft ||| (b &&& ~~~bad), bad)

/-- One upset. Only storage that holds something can be upset. -/
def Mach.upset (m : Mach) : Config.Upset → Mach
  | .spad slot w hard =>
    let c := m.core slot
    if slot ≥ 36864 ∨ w ≥ 4096 * c.share ∨ w ∈ c.spadBad then m
    else if hard || c.spadSoft.contains w then
      m.setCore slot { c with spadSoft := c.spadSoft.erase w, spadBad := w :: c.spadBad }
    else m.setCore slot { c with spadSoft := w :: c.spadSoft }
  | .l1 slot line w hard =>
    let c := m.core slot
    m.setCore slot { c with l1 := c.l1.upd line fun x =>
      let r := upsetWord w hard x.soft x.bad
      { x with soft := r.1, bad := r.2 } }
  | .way line w hard =>
    { m with lines := m.lines.upd line fun h =>
        let r := upsetWord w hard h.soft h.bad
        if h.way.isSome then { h with soft := r.1, bad := r.2 } else h }
  | .tint die line w hard =>
    { m with tints := m.tints.upd (tkey die line) fun t =>
        let r := upsetWord w hard t.soft t.bad
        if t.st == .s || t.st == .f then { t with soft := r.1, bad := r.2 } else t }
  | .mem line w k =>
    if line ≥ allLines ∨ w ≥ 16 ∨ k ≥ 80 then m
    else m.putWord line w (m.memWord line w ^^^ (if k < 64 then 1#64 <<< k else 0)) (m.memSyn line w ^^^ bitSyn k)

/-- The upsets of a tick: they touch the arrays and memory, and nothing else. -/
def Mach.upsetTick (m : Mach) : Mach :=
  let x := (Config.upsets m.fresh).foldl Mach.upset m
  { m with cores := x.cores, lines := x.lines, tints := x.tints, mem := x.mem, syn := x.syn, fresh := m.fresh + 1 }

/-! ### The tick -/

/-- A channel's share of a tick: `MC_THROTTLE_TIME` counts while `throttle` is above 0. -/
def Mach.tickChan (m : Mach) (die ch : Nat) : Mach :=
  if m.fld (aSlice die ch Reg.MC_THERMAL) 9 2 = 0 then m else m.count64 (aSlice die ch Reg.MC_THROTTLE_TIME) 1

/-- A die's share of a tick: nothing unless its timer runs. `PWR_THROTTLE_TIME` counts while `k_thermal` is below 64. -/
def Mach.tickDie (m : Mach) (die : Nat) : Mach :=
  if !m.bit (at_ die Reg.CLK_DOMAIN_STATUS) 2 then m
  else
    let a := at_ die Reg.CLK_RIM_TIMER
    let m := m.wr64 a (m.rd64 a + 1)
    let m := if m.fld (at_ die Reg.PWR_LIMIT) 16 7 < 64 then m.count64 (at_ die Reg.PWR_THROTTLE_TIME) 1 else m
    (List.range 64).foldl (fun m ch => m.tickChan die ch) m

/-- The engine steps that the limiter still holds each core's matrix instructions back pass with time too (R425). -/
def Mach.tickHold (m : Mach) : Mach := { m with cores := m.cores.mapV fun c => { c with hold := c.hold - 1 } }

/-- One tick of every die's timer. DESIGN CHOICE (log 107): the timers of all dies tick together, a die's whose loop A is unlocked
too: it counts from FOSC, whose rate R50 gives within 5 % only. -/
def Mach.tick (m : Mach) : Mach := ((List.range 16).foldl Mach.tickDie m).tickHold.upsetTick

end Sys2Proof.Machine
end

