-- ==== Sys2Proof/WellFormed.lean ====
section
/-! DEFINITION. Which command terms spell something a sender can send: offsets inside a die's control space (Table 1.3),
lines of the module's memory (R24), frames, messages, bodies of the sizes that their tables give, and forms
of instructions that the opcode map defines. -/
namespace Sys2Proof

/-- Bytes of a die's control space (Table 1.3). -/
def spanOfDie : Nat := 0x4000000
/-- Lines of the module's memory: 3,072 granules of 1 GiB in lines of 128 bytes (R24, R388). -/
def linesOfMemory : Nat := 3072 * 2 ^ 23
/-- A line of the module's memory. -/
def lineOk (line : Nat) : Bool := decide (line < linesOfMemory)

/-- A read of the companion lies inside one line of memory. -/
def HomeRead.wf : HomeRead → Bool
  | .req _ => true
  | .companion addr bytes => lineOk (addr / 128) && decide (0 < bytes.val) && decide (addr % 128 + bytes.val ≤ 128)

/-- A write of the companion lies in a line of memory. -/
def HomeWrite.wf : HomeWrite → Bool
  | .req _ => true
  | .companion line _ _ => lineOk line

/-- The counts of a transport message fit their six bits (Table 12.5). -/
def TMsg.wf (x : TMsg) : Bool := decide (x.entries.length < 64) && decide (x.results.length < 64)

/-- A frame holds at most 1,024 bytes of messages of at least 32 bytes, and acknowledges at most the 64 frames of the replay
buffer (Tables 12.2 and 12.4). -/
def FrameIn.wf (x : FrameIn) : Bool :=
  decide (x.acked ≤ 64) && decide (x.msgs.length ≤ 32) && x.msgs.all TMsg.wf

/-- A datagram of a Slate message with a body of n bytes is one of as many as hold that body (R489, Table 17.8). -/
def SlateHdr.wf (h : SlateHdr) (n : Nat := 0) : Bool :=
  decide (h.chunk.toNat < h.chunks.toNat) && h.chunks.toNat == slateChunks n

/-- The term spells a command that can be sent. -/
def Instr.wf : Instr → Bool
  | .controlWrite _ _ off _ _ => decide (off < spanOfDie)
  | .lowHalfRead _ _ r => decide (r.off < spanOfDie)
  | .add g f w => (groupWord (.add g f w)).isSome
  | .sub g f w => (groupWord (.sub g f w)).isSome
  | .min g f w => (groupWord (.min g f w)).isSome
  | .max g f w => (groupWord (.max g f w)).isSome
  | .abs g f w => (groupWord (.abs g f w)).isSome
  | .neg g f w => (groupWord (.neg g f w)).isSome
  | .and g f w => (groupWord (.and g f w)).isSome
  | .or g f w => (groupWord (.or g f w)).isSome
  | .xor g f w => (groupWord (.xor g f w)).isSome
  | .andn g f w => (groupWord (.andn g f w)).isSome
  | .not g f w => (groupWord (.not g f w)).isSome
  | .shl g f w => (groupWord (.shl g f w)).isSome
  | .shr g f w => (groupWord (.shr g f w)).isSome
  | .popc g f w => (groupWord (.popc g f w)).isSome
  | .clz g f w => (groupWord (.clz g f w)).isSome
  | .ctz g f w => (groupWord (.ctz g f w)).isSome
  | .mov g f w => (groupWord (.mov g f w)).isSome
  | .sel g f w => (groupWord (.sel g f w)).isSome
  | .mul g f w => (groupWord (.mul g f w)).isSome
  | .mulh g f w => (groupWord (.mulh g f w)).isSome
  | .mad g f w => (groupWord (.mad g f w)).isSome
  | .div g f w => (groupWord (.div g f w)).isSome
  | .rem g f w => (groupWord (.rem g f w)).isSome
  | .cmp g f cond w => (groupWord (.cmp g f cond w)).isSome
  | .setc g cond w => (groupWord (.setc g cond w)).isSome
  | .fadd g f w => (groupWord (.fadd g f w)).isSome
  | .fsub g f w => (groupWord (.fsub g f w)).isSome
  | .fmul g f w => (groupWord (.fmul g f w)).isSome
  | .ffma g f w => (groupWord (.ffma g f w)).isSome
  | .ffms g f w => (groupWord (.ffms g f w)).isSome
  | .fnma g f w => (groupWord (.fnma g f w)).isSome
  | .fmin g f w => (groupWord (.fmin g f w)).isSome
  | .fmax g f w => (groupWord (.fmax g f w)).isSome
  | .fabs g f w => (groupWord (.fabs g f w)).isSome
  | .fneg g f w => (groupWord (.fneg g f w)).isSome
  | .fscale g f w => (groupWord (.fscale g f w)).isSome
  | .cvt g func w => (groupWord (.cvt g func w)).isSome
  | .bscale g func w => (groupWord (.bscale g func w)).isSome
  | .bcvt g func w => (groupWord (.bcvt g func w)).isSome
  | .mma g func w => (groupWord (.mma g func w)).isSome
  | .mmaSp g func w => (groupWord (.mmaSp g func w)).isSome
  | .ldS g func w => (groupWord (.ldS g func w)).isSome
  | .ldV g func w => (groupWord (.ldV g func w)).isSome
  | .ldG g func w => (groupWord (.ldG g func w)).isSome
  | .stS g func w => (groupWord (.stS g func w)).isSome
  | .stV g func w => (groupWord (.stV g func w)).isSome
  | .stG g func w => (groupWord (.stG g func w)).isSome
  | .atom g func w => (groupWord (.atom g func w)).isSome
  | .red g func w => (groupWord (.red g func w)).isSome
  | .ldr g func w => (groupWord (.ldr g func w)).isSome
  | .stc g func w => (groupWord (.stc g func w)).isSome
  | .plainRead r => r.wf
  | .write r => r.wf
  | .leaseExpiry line => lineOk line
  | .rds _ line => lineOk line
  | .rdown line => lineOk line
  | .upg line => lineOk line
  | .putf _ line => lineOk line
  | .puts line => lineOk line
  | .pute line => lineOk line
  | .putm line _ => lineOk line
  | .puto line _ => lineOk line
  | .inv _ line _ => lineOk line
  | .fwdrd _ line _ => lineOk line
  | .snprd line _ => lineOk line
  | .invack _ line => lineOk line
  | .invdata line _ => lineOk line
  | .snpack line => lineOk line
  | .snpdata line _ => lineOk line
  | .snpdatao line _ => lineOk line
  | .fwddone _ line => lineOk line
  | .putack _ line => lineOk line
  | .retry _ line => lineOk line
  | .credit _ line => lineOk line
  | .grante line => lineOk line
  | .dataf _ line _ => lineOk line
  | .datas line _ => lineOk line
  | .datae line _ => lineOk line
  | .datapsn _ line => lineOk line
  | .probeTimeout line _ => lineOk line
  | .training _ _ _ failed => decide failed.Nodup
  | .ictDone _ _ failed => decide failed.Nodup
  | .frame _ x => x.wf
  | .rd _ x => x.wf
  | .wr _ x => x.wf
  | .transportRed _ x => x.wf
  | .transportAtom _ x => x.wf
  | .rdata _ x => x.wf
  | .ack _ x => x.wf
  | .adata _ x => x.wf
  | .attest h _ _ => h.wf 34
  | .identity h => h.wf
  | .telemetry h => h.wf
  | .routeLoad h _ members groups => h.wf 5124 && decide (members.length = 256) && decide (groups.length = 1024)
  | .deadClear h _ => h.wf 4
  | .rxUpdate h es => h.wf (12 * es.length) && decide (es.map (·.1)).Nodup
  | .setAddr h _ _ => h.wf 32
  | .warmReset h => h.wf
  | .fwStage h chunk _ => h.wf (1 + chunk.length)
  | .fwActivate h => h.wf
  | .fwConfirm h => h.wf
  | .keyLoad h body => h.wf 144 && decide (body.length = 144)
  | .epochRetire h _ _ => h.wf 4
  | .credSet h _ _ _ => h.wf 34
  | .homeInterleaveWrite _ _ _ | .undervoltage _ | .rimClockGateRequest _ _ | .crossingDrained _ _
  | .rimClockGateTimeout _ _ | .launch _ | .slotFree _ _ | .movi _ _ | .movhi _ _ | .vmovi _ _ | .vbcast _ _
  | .vlane _ _ | .vlaneid _ _ | .pand _ _ | .por _ _ | .pxor _ _ | .pandn _ _ | .pnot _ _ | .pmov _ _
  | .pset _ _ | .pget _ _ | .ppop _ _ | .pfirst _ _ | .br _ _ | .brInd _ _ | .loop _ _ | .nop _ _ | .exit _ _
  | .barBlock _ _ | .barCluster _ _ | .barrierComplete _ | .barrierTimeout _ | .brk _ _ | .rdsr _ _
  | .fetch _ _ | .launchHalt _ | .frcp _ _ | .frsqrt _ _ | .fsqrt _ _ | .fexp2 _ _ | .flog2 _ _ | .fsinpi _ _
  | .fcospi _ _ | .ftanh _ _ | .fradd _ _ | .frmax _ _ | .frmin _ _ | .iradd _ _ | .irmax _ _ | .irmin _ _
  | .shfl _ _ | .rot _ _ | .qbshuf _ _ | .shflXor _ _ | .roti _ _ | .laneb _ _ | .insb _ _ | .matrixTileWrite _
  | .tzero _ _ | .tldV _ _ | .tstV _ _ | .tldS _ _ | .tstS _ _ | .pfL1 _ _ | .pfSlice _ _ | .fence _ _
  | .fenceC _ _ | .acq _ _ | .rel _ _ | .fenceComplete _ | .tmSubmit _ _ | .tmWait _ _ | .tmTest _ _
  | .tmChunk _ _ | .storeBufferSend _ | .loadAnswer _ _ | .storeAck _ _ | .requestTimeout _ | .tintRead _
  | .reduceStore _ | .atomRequest _ | .ldrRequest _ | .stcRequest _ | .memoryData _ _ | .channelRequest _ _
  | .prefetch _ | .flush _ | .invalidate _ | .pin _ | .unpin _ | .rangeLineAction _ _ | .rangeReport _
  | .sliceCtrlWrite _ _ _ _ | .tintChangeDone _ _ | .slicePinQuotaWrite _ _ _ _ _ | .sliceCntClear _ _ _ _
  | .homeAmberReqWrite _ _ _ | .amberTransitionDone _ _ | .homeCntClear _ _ _ | .probeLogClear _ _ _
  | .trainingComplete _ _ _ | .recalNow _ _ _ _ | .recalIntervalExpiry _ _ | .recalWire _ _ _ | .refresh _ _
  | .offlineReq _ _ _ _ | .onlineReq _ _ _ _ | .ictRun _ _ _ _ | .go _ _ _ _ | .stop _ _ _ _ | .scrubLine _ _
  | .rawRead _ _ _ _ | .rawWrite _ _ _ _ | .mcCntClear _ _ _ _ | .ceTableClear _ _ _ | .dieLinkTrained _ _
  | .dieLinkFault _ _ _ | .failedDegraded _ _ _ | .portActive _ _ _ | .identityFrame _ _ | .partnerLoss _
  | .quiesceNotice _ | .laneMarginLow _ _ _ _ _ | .transitTimeout _ | .deadPartnerTimeout _ _
  | .deadMapPropagation _ | .fabDeadMapWrite _ _ _ _ | .routeLoadActive | .luEnable _ _ | .luDisable _ _
  | .luQuiesce _ _ | .quiesced _ | .luResume _ _ | .luRetrain _ _ | .lrRoleWrite _ _ _ _
  | .luCreditResWrite _ _ _ _ | .epCntClear _ _ _ _ | .vilpinTrained _ | .vilpinLoss | .doorbell _ _
  | .qCqHeadWrite _ _ | .qCfgWrite _ _ | .qIrqAddrWrite _ _ | .copy _ | .fenceDescriptor _ | .powerHint _
  | .acquire _ | .release _ | .set _ | .acquireTimeout _ | .completionRecord _ | .partCreate _ _
  | .partActivate _ _ | .partReset _ _ | .partRemove _ _ | .resetStep4Timeout _ | .partPreempt _ _ _
  | .saveComplete _ | .partResume _ _ _ | .restoreComplete _ | .partFreeze _ _ | .freezeComplete _
  | .partThaw _ _ | .clusterOwnerWrite _ _ _ | .granuleOwnerWrite _ _ _ | .partCfgWrite _ _ _
  | .partRateWrite _ _ _ | .tokenRefill | .partTlbInv _ _ _ | .partNotifyAddrWrite _ _ _
  | .vcoreTargetWrite _ _ _ | .pwrCapWrite _ _ | .capLoop _ _ _ _ _ _ | .hintExpiry _ | .droopTrip _ _
  | .clampRelease _ | .dieLoopPeriod _ _ | .gate _ _ _ | .wakeCluster _ _ _ | .droopCfgWrite _ _ _
  | .thermCfgWrite _ _ _ | .stewardWarmReset | .clkCtrlSrcWrite _ _ _ | .loopALockLoss _ | .loopBLockLoss _ _
  | .clkEnWrite _ _ _ | .timerSnapshot _ _ | .powerOnReset _ _ _ | .pwrGoodFall | .rstCmdWarmReset _
  | .warmRstN | .coreReset _ _ _ | .coreResetDrainTimeout _ | .standby _ | .standbyComplete | .wake _
  | .strapDelayExpiry | .crystalCheck _ _ _ _ | .stewardBoot | .dieJoin _ | .stageBoundExpiry | .moduleReady
  | .slateChunkTimeout _ | .readBootState | .readModuleIdentifier | .readHighestDieTemperature
  | .readStandbyState | .enroll _ | .seal _ _ | .measExtend _ _ | .secKslotEpochWrite _ _ _
  | .dbgAttachArm _ _ _ | .dbgAttachNow _ _ _ | .dbgDetach _ _ _ | .dbgHalt _ _ | .dbgStep _ _ | .dbgResume _ _
  | .dbgRead _ _ | .dbgWrite _ _ | .dbgEnd _ _ | .selfTest _ _ _ | .selfTestEnd _ _ | .sliceTest _ _ _
  | .sliceTestEnd _ _ | .dbgCntCfgWrite _ _ _ _ | .csupCoreFaultClear _ _ _ | .dmFltConsumedWrite _ _ _
  | .fatalClear _ _ _ | .dmIrqAddrWrite _ _ | .dmIrqPauseExpiry _ | .illegalOpcode _ _ | .vcoreRampDone _ => true

end Sys2Proof
end

