-- ==== Sys2Proof/Safety.lean ====
section
/-! DEFINITION. What a step that goes on is, and the terms in which the statements speak of a thread group about to issue an
instruction and of what issuing it leaves alone. -/
namespace Sys2Proof

/-- The state after a step that answers a next state. -/
def next? (s : Machine.State) : Option Machine.State :=
  match Machine.step s with
  | .next t => some t
  | _ => none

end Sys2Proof
namespace Sys2Proof.Machine

/-- Group x of a core stands before command c: the module is powered, the group has fetched the word of c, and the group may
issue it: it is ready, no store of it waits for room, no outstanding load and no engine work bars that word, the turn is its own in
the rotating order, the array of its die runs, and its core holds a launch and is not being reset (R64, R65, R92, R93, R111,
R116). -/
abbrev Before (s : State) (g : GRef) (c : Instr) (x : Group) : Prop :=
  s.m.off = false ∧ s.m.group? g.slot.val g.group.val = some x ∧ x.ir.bind (groupInstr g) = some c ∧
  s.m.mayIssue g.slot.val g.group.val x = true

/-- A word of the value of a performance counter: the only words of control space that issuing an instruction of registers
changes (R505). -/
def counterWord (a : Nat) : Bool :=
  decide (Reg.DBG_CNT_VAL ≤ a % dieSpan) && decide (a % dieSpan < Reg.DBG_CNT_VAL + 0x100) &&
    decide ((a % dieSpan - Reg.DBG_CNT_VAL) % 16 < 8)

/-- The machine m with the groups, cores, launches and control words of another. -/
def Mach.takeCores (m n : Mach) : Mach :=
  { m with groups := n.groups, cores := n.cores, launches := n.launches, regs := n.regs }

/-- Everything but the tables of groups, cores, launches and control words is as it was: memory, requests, caches, channels,
links, queues and partitions among it. -/
def OnlyCores (s t : State) : Prop := t.pending = s.pending ∧ t.kept = s.kept ∧ t.m = s.m.takeCores t.m

/-- A launch but for the sum of its cores' steps. -/
def Launch.unstepped (l : Launch) : Launch := { l with steps := 0 }
/-- A core that has counted one more step (R38), in which group g issued (R64), and in which the limiter's hold of its engine
fell by one (R425). -/
def Core.stepped (c : Core) (g : Nat) : Core := { c with steps := c.steps + 1, last := g, hold := c.hold - 1 }

/-- What issuing one instruction of registers by a group does: that group is y; its core counts the step (R38), the
group that issued last (R64) and the limiter's hold (R425), and changes by what `f` gives; every other group and core, every
launch but for its sum of steps (R384), and every word of control space but the performance counters are as they were, and so
is all else. -/
def Issued (s t : State) (g : GRef) (y : Group) (f : Core → Core := id) : Prop :=
  OnlyCores s t ∧
  t.m.group? g.slot.val g.group.val = some y ∧
  (∀ k, k ≠ g.slot.val * 8 + g.group.val → t.m.groups.get? k = s.m.groups.get? k) ∧
  t.m.core g.slot.val = f ((s.m.core g.slot.val).stepped g.group.val) ∧
  (∀ k, k ≠ g.slot.val → t.m.cores.get? k = s.m.cores.get? k) ∧
  (∀ l, (t.m.launch? l).map Launch.unstepped = (s.m.launch? l).map Launch.unstepped) ∧
  (∀ a, counterWord a = false → t.m.rd a = s.m.rd a)

end Sys2Proof.Machine
end

