-- ==== Sys2Proof/Certificates/Slice0/Obligations.lean ====
section
/-! DEFINITION. The statements for the provers, and the small tables and forms in which they say what a command does. -/
namespace Sys2Proof.Machine

/-! ### The queue of commands, reset, and the words of instructions -/

end Sys2Proof.Machine

open Sys2Proof Sys2Proof.Machine

/-- A step takes the command at the front of the queue and runs it with the queue's rest. -/
def Obligations.StepRunsTheFrontCommand : Prop :=
  ∀ (s : State) (c : Instr) (rest : List Instr),
    s.pending = c :: rest → step s = exec c { s with pending := rest }

/-- Words written out bit by bit from the encoding tables: an ADD, a compare with an immediate, a branch and an LD.V, and three words
that name no instruction: majors 0x00 and 0x7F, and a function that its major does not define. -/
def Obligations.WrittenOutWordsDecode : Prop :=
  ∀ g : GRef,
    groupInstr g 0b0001000_0000_001010_000010_000000_010_000011_000000_0_0000000000000000000#64
      = some (.add g .salu ⟨0, 10, 2, 2, 0x0C000000⟩) ∧
    groupInstr g 0b0001100_0000_000001_000010_000010_001_00000000000000000000000000000101#64
      = some (.cmp g .scmpi 2 ⟨0, 1, 2, 1, 5⟩) ∧
    groupInstr g 0b1000000_0011_000000000000000000001_11111111111111111111111111111000#64
      = some (.br g ⟨3, 1, 0xFFFFFFF8⟩) ∧
    groupInstr g 0x9205082000000040#64 = some (.ldV g 4 ⟨0, 10, 4, 0, 0x40⟩) ∧
    groupInstr g 0 = none ∧ groupInstr g 0xFFFFFFFFFFFFFFFF = none ∧
    groupInstr g 0b0000001_0000_000000_000000_000110_000_00000000000000000000000000000000#64 = none

/-- The decoder and the encoder of group instructions agree: a word decodes to a command exactly when the command's word is
that word. No bit of an encoding is dropped, and no two words spell one command (R93 to R96). -/
def Obligations.GroupWordsRoundTrip : Prop :=
  ∀ (g : GRef) (w : W64) (c : Instr), groupInstr g w = some c ↔ groupWord c = some (g, w)

namespace Sys2Proof.Machine

/-! ### Register instructions -/

/-- The group after a scalar result: s0 discards it, and no active lane writes nothing (R88, R100). -/
def scalarGets (x : Group) (w : IW) (v : W64) : Group :=
  if x.rp w.pn = 0 ∨ w.dn = 0 then x else { x with s := x.s.put w.dn v }
/-- The group after a vector result: active lanes take it, the others keep theirs (R65, R100). -/
def lanesGet (x : Group) (w : IW) (f : Nat → W32) : Group :=
  { x with v := x.v.put w.dn (vmake fun l => if (x.rp w.pn).getLsbD l then f l else vget (x.rv w.dn) l) }
/-- The group after a predicate result: active bits take it; p0 discards it (R88, R90). -/
def bitsGet (x : Group) (w : IW) (v : W32) : Group :=
  if w.dn = 0 then x else { x with p := x.p.put w.dn ((x.rp w.dn &&& ~~~x.rp w.pn) ||| (v &&& x.rp w.pn)) }
/-- Lane l of the second operand of a vector Format R instruction (Table 4.2). -/
def laneB (x : Group) (w : IW) (l : Nat) : W32 := if w.bs then (x.rs w.b).setWidth 32 else vget (x.rv w.b) l

/-- The integer and logical functions of Table 4.6 by command, with their results on operands a and b before R98 widens them;
x and y are the operands as numbers of the type. -/
def aluRows (g : GRef) (k : AluForm) (w : IW) : List (Instr × IntOp × (W64 → W64 → W64)) :=
  let t := w.t
  let n := tyWidth t
  [(.add g k w, .add, fun a b => a + b), (.sub g k w, .sub, fun a b => a - b),
   (.min g k w, .min, fun a b => if tyInt t b < tyInt t a then b else a),
   (.max g k w, .max, fun a b => if tyInt t b < tyInt t a then a else b),
   (.abs g k w, .abs, fun a _ => if tyInt t a < 0 then 0 - BitVec.ofInt 64 (tyInt t a) else BitVec.ofInt 64 (tyInt t a)),
   (.neg g k w, .neg, fun a _ => 0 - a), (.and g k w, .and, fun a b => a &&& b), (.or g k w, .or, fun a b => a ||| b),
   (.xor g k w, .xor, fun a b => a ^^^ b), (.andn g k w, .andn, fun a b => a &&& ~~~b), (.not g k w, .not, fun a _ => ~~~a),
   (.shl g k w, .shl, fun a b => a <<< (b.toNat % n)),
   (.shr g k w, .shr, fun a b => BitVec.ofInt 64 (tyInt t a / 2 ^ (b.toNat % n))),
   (.popc g k w, .popc, fun a _ => BitVec.ofNat 64 ((List.range n).filter fun i => a.getLsbD i).length),
   (.clz g k w, .clz, fun a _ => BitVec.ofNat 64 (((List.range n).find? fun i => a.getLsbD (n - 1 - i)).getD n)),
   (.ctz g k w, .ctz, fun a _ => BitVec.ofNat 64 (((List.range n).find? fun i => a.getLsbD i).getD n)),
   (.mov g k w, .mov, fun a _ => a)]

/-- What a function of two operands writes in each of the four forms. -/
def aluWrites (x : Group) (k : AluForm) (w : IW) (r : W64 → W64 → W64) : Group :=
  match k with
  | .salu => scalarGets x w (extend w.t (r (x.rs w.an) (x.rs w.b)))
  | .salui => scalarGets x w (extend w.t (r (x.rs w.an) (immOf w.t w.lo)))
  | .valu => lanesGet x w fun l => (r ((vget (x.rv w.an) l).setWidth 64) ((laneB x w l).setWidth 64)).setWidth 32
  | .valui => lanesGet x w fun l => (r ((vget (x.rv w.an) l).setWidth 64) (w.lo.setWidth 64)).setWidth 32

end Sys2Proof.Machine

/-- R98 to R101, Table 4.6: the integer and logical instructions. Each completes from every state in which its group stands
before it and its word passes the checks of R94 and R95; it writes its result under R65, R88 and R100, and changes nothing else
but the counters of a step. -/
def Obligations.IntegerInstructionsWriteTheirResult : Prop :=
  ∀ (s : State) (g : GRef) (k : AluForm) (w : IW) (x : Group), ∀ row ∈ aluRows g k w,
    Before s g row.1 x → aluCheck row.2.1 k w = none →
      ∃ t, exec row.1 s = .next t ∧ Issued s t g (aluWrites x k w row.2.2).advance

namespace Sys2Proof.Machine

/-- The functions of the MUL majors by command; the products and quotients are exact before they are narrowed (R101, R102). -/
def mulRows (g : GRef) (k : MulForm) (w : IW) : List (Instr × IntOp × (W64 → W64 → W64 → W64)) :=
  let z := tyInt w.t
  let n := tyWidth w.t
  [(.mul g k w, .mul, fun a b _ => BitVec.ofInt 64 (z a * z b)),
   (.mulh g k w, .mulh, fun a b _ => BitVec.ofInt 64 (z a * z b / 2 ^ n)),
   (.mad g k w, .mad, fun a b c => BitVec.ofInt 64 (z a * z b) + c),
   (.div g k w, .div, fun a b _ => if z b = 0 then BitVec.ofInt 64 (2 ^ n - 1) else BitVec.ofInt 64 ((z a).tdiv (z b))),
   (.rem g k w, .rem, fun a b _ => if z b = 0 then BitVec.ofInt 64 (z a) else BitVec.ofInt 64 ((z a).tmod (z b)))]

end Sys2Proof.Machine

/-- R101, R102, Table 4.6: MUL, MULH, MAD, DIV, REM and SEL. A division by zero gives all ones and the dividend as the
remainder; the most negative number by −1 gives itself and 0, as narrowing the exact quotient does. R103, Table 4.7: the moves.
MOVHI keeps the low half of its destination; VLANE reads a lane whatever the predicate. -/
def Obligations.MultipliesSelectsAndMovesWriteTheirResult : Prop :=
  ((∀ (s : State) (g : GRef) (k : MulForm) (w : IW) (x : Group), ∀ row ∈ mulRows g k w,
     Before s g row.1 x → mulCheck row.2.1 k w = none →
       ∃ t, exec row.1 s = .next t ∧ Issued s t g (match k with
         | .smul => scalarGets x w (extend w.t (row.2.2 (x.rs w.an) (x.rs w.b) (x.rs w.c)))
         | .vmul => lanesGet x w fun l => (row.2.2 ((vget (x.rv w.an) l).setWidth 64) ((laneB x w l).setWidth 64)
             ((vget (x.rv w.c) l).setWidth 64)).setWidth 32).advance) ∧
   (∀ (s : State) (g : GRef) (k : AluForm) (w : IW) (x : Group),
     Before s g (.sel g k w) x → selCheck k w = none →
       ∃ t, exec (.sel g k w) s = .next t ∧ Issued s t g (if k = .salu
         then scalarGets x w (extend w.t
           (if (if w.t = 4 then (x.rs w.c).setWidth 32 = (0 : W32) else x.rs w.c = 0) then x.rs w.b else x.rs w.an))
         else lanesGet x w fun l => if (x.rp w.c).getLsbD l then vget (x.rv w.an) l else laneB x w l).advance)) ∧
  (∀ (s : State) (g : GRef) (w : IW) (x : Group),
     (Before s g (.movi g w) x → checkI w (w.t < 6) .s .none true = none →
       ∃ t, exec (.movi g w) s = .next t ∧ Issued s t g (scalarGets x w (extend w.t (immOf w.t w.lo))).advance) ∧
     (Before s g (.movhi g w) x → checkI w (w.t == 5) .s .none true = none →
       ∃ t, exec (.movhi g w) s = .next t ∧
         Issued s t g (scalarGets x w (w.lo ++ (x.rs w.dn).setWidth 32)).advance) ∧
     (Before s g (.vmovi g w) x → checkI w (tyVec w.t) (.v 1) .none true = none →
       ∃ t, exec (.vmovi g w) s = .next t ∧ Issued s t g (lanesGet x w fun _ => w.lo).advance) ∧
     (Before s g (.vbcast g w) x → checkR w (w.t == 4) (.v 1) .s .none .none = none →
       ∃ t, exec (.vbcast g w) s = .next t ∧ Issued s t g (lanesGet x w fun _ => (x.rs w.an).setWidth 32).advance) ∧
     (Before s g (.vlane g w) x → vlaneCheck w = none →
       ∃ t, exec (.vlane g w) s = .next t ∧
         Issued s t g (scalarGets x w (extend w.t ((vget (x.rv w.an) w.lo.toNat).setWidth 64))).advance) ∧
     (Before s g (.vlaneid g w) x → checkR w (w.t == 0) (.v 1) .none .none .none = none →
       ∃ t, exec (.vlaneid g w) s = .next t ∧ Issued s t g (lanesGet x w fun l => BitVec.ofNat 32 l).advance))

namespace Sys2Proof.Machine

/-- The predicate instructions with a predicate destination, and the value they give (Table 4.9). -/
def predRows (g : GRef) (w : IW) (x : Group) : List (Instr × Opd × Opd × W32) :=
  [(.pand g w, .p, .p, x.rp w.an &&& x.rp w.b), (.por g w, .p, .p, x.rp w.an ||| x.rp w.b),
   (.pxor g w, .p, .p, x.rp w.an ^^^ x.rp w.b), (.pandn g w, .p, .p, x.rp w.an &&& ~~~x.rp w.b),
   (.pnot g w, .p, .none, ~~~x.rp w.an), (.pmov g w, .p, .none, x.rp w.an),
   (.pset g w, .s, .none, (x.rs w.an).setWidth 32)]
/-- Those with a scalar destination. -/
def predScalarRows (g : GRef) (w : IW) (x : Group) : List (Instr × W64) :=
  [(.pget g w, (x.rp w.an).setWidth 64),
   (.ppop g w, BitVec.ofNat 64 ((List.range 32).filter fun i => (x.rp w.an).getLsbD i).length),
   (.pfirst g w, BitVec.ofNat 64 (((List.range 32).find? fun i => (x.rp w.an).getLsbD i).getD 32))]

end Sys2Proof.Machine

/-- R104, R105, Table 4.8: compares. A scalar compare gives its bit to every lane, a vector compare each lane its own. R106,
Table 4.9: the predicate instructions. -/
def Obligations.ComparesAndPredicatesWriteTheirResult : Prop :=
  (∀ (s : State) (g : GRef) (k : CmpForm) (cond : BitVec 6) (w : IW) (x : Group),
     (Before s g (.cmp g k cond w) x → cmpCheck k cond.toNat w = none →
       ∃ t, exec (.cmp g k cond w) s = .next t ∧ Issued s t g (bitsGet x w (match k with
         | .scmp => if intCmp cond.toNat w.t (x.rs w.an) (x.rs w.b) then 0xFFFFFFFF else 0
         | .scmpi => if intCmp cond.toNat w.t (x.rs w.an) (immOf w.t w.lo) then 0xFFFFFFFF else 0
         | .vcmp => maskOf fun l => if w.t = 6 then fCmp cond.toNat (f32 (vget (x.rv w.an) l)) (f32 (laneB x w l))
             else intCmp cond.toNat w.t ((vget (x.rv w.an) l).setWidth 64) ((laneB x w l).setWidth 64)
         | .vcmpi => maskOf fun l => if w.t = 6 then fCmp cond.toNat (f32 (vget (x.rv w.an) l)) (f32 w.lo)
             else intCmp cond.toNat w.t ((vget (x.rv w.an) l).setWidth 64) (w.lo.setWidth 64))).advance) ∧
     (Before s g (.setc g cond w) x → checkR w (w.t < 4 && cond.toNat < 6) .s .s .s .none = none →
       ∃ t, exec (.setc g cond w) s = .next t ∧
         Issued s t g (scalarGets x w (if intCmp cond.toNat w.t (x.rs w.an) (x.rs w.b) then 1 else 0)).advance)) ∧
  (∀ (s : State) (g : GRef) (w : IW) (x : Group),
     (∀ row ∈ predRows g w x, Before s g row.1 x → checkR w (w.t == 0) .pd row.2.1 row.2.2.1 .none = none →
       ∃ t, exec row.1 s = .next t ∧ Issued s t g (bitsGet x w row.2.2.2).advance) ∧
     (∀ row ∈ predScalarRows g w x, Before s g row.1 x → checkR w (w.t == 0) .s .p .none .none = none →
       ∃ t, exec row.1 s = .next t ∧ Issued s t g (scalarGets x w row.2).advance))

namespace Sys2Proof.Machine

/-- The FP32 functions by command, with the result in one lane (Table 6.6). -/
def fpRows (g : GRef) (k : FpForm) (w : IW) : List (Instr × FpOp × (W32 → W32 → W32 → W32)) :=
  [(.fadd g k w, .add, fun a b _ => fAdd a b), (.fsub g k w, .sub, fun a b _ => fSub a b),
   (.fmul g k w, .mul, fun a b _ => fMul a b), (.ffma g k w, .fma, fun a b c => fFma a b c),
   (.ffms g k w, .fms, fun a b c => fFms a b c), (.fnma g k w, .nma, fun a b c => fNma a b c),
   (.fmin g k w, .min, fun a b _ => fMin a b), (.fmax g k w, .max, fun a b _ => fMax a b),
   (.fabs g k w, .abs, fun a _ _ => fAbs a), (.fneg g k w, .neg, fun a _ _ => fNeg a),
   (.fscale g k w, .scale, fun a b _ => fScale a b)]
/-- The transcendental functions by command and number (Table 6.7). -/
def vtransRows (g : GRef) (w : IW) : List (Instr × Nat) :=
  [(.frcp g w, 0), (.frsqrt g w, 1), (.fsqrt g w, 2), (.fexp2 g w, 3), (.flog2 g w, 4), (.fsinpi g w, 5), (.fcospi g w, 6),
   (.ftanh g w, 7)]

end Sys2Proof.Machine

/-- R158 to R160, Tables 6.6 and 6.7: FP32 arithmetic and transcendentals, lane by lane. -/
def Obligations.FloatInstructionsWriteTheirResult : Prop :=
  ∀ (s : State) (g : GRef) (w : IW) (x : Group),
    (∀ k : FpForm, ∀ row ∈ fpRows g k w, Before s g row.1 x → fpCheck row.2.1 k w = none →
      ∃ t, exec row.1 s = .next t ∧ Issued s t g (lanesGet x w fun l =>
        row.2.2 (vget (x.rv w.an) l) (if k = .vfp then laneB x w l else w.lo) (vget (x.rv w.c) l)).advance) ∧
    (∀ row ∈ vtransRows g w, Before s g row.1 x → checkR w (w.t == 6) (.v 1) (.v 1) .none .none = none →
      ∃ t, exec row.1 s = .next t ∧ Issued s t g (lanesGet x w fun l => vtransOp row.2 (vget (x.rv w.an) l)).advance)

namespace Sys2Proof.Machine

/-- The reductions across lanes by command, with the accepted type and the function of two values (Table 6.8). -/
def vredRows (g : GRef) (w : IW) : List (Instr × Bool × (W32 → W32 → W32)) :=
  let lane (f : Int → Int → Int) (a b : W32) : W32 :=
    BitVec.ofInt 32 (f (tyInt w.t (a.setWidth 64)) (tyInt w.t (b.setWidth 64)))
  [(.fradd g w, w.t == 6, fAdd), (.frmax g w, w.t == 6, fMax), (.frmin g w, w.t == 6, fMin),
   (.iradd g w, w.t < 2, fun a b => a + b), (.irmax g w, w.t < 2, lane max), (.irmin g w, w.t < 2, lane min)]

end Sys2Proof.Machine

/-- R161, Table 6.8: the reductions. The active lanes are combined by the fixed tree; with no active lane nothing is written.
R131, R162 to R164: CVT, BSCALE and BCVT. Stochastic rounding draws sixteen words of the core's generator when some lane is
active, and advances it; any other rounding leaves the generator alone. -/
def Obligations.ReductionsAndConversionsWriteTheirResult : Prop :=
  (∀ (s : State) (g : GRef) (w : IW) (x : Group), ∀ row ∈ vredRows g w,
     Before s g row.1 x → checkR w row.2.1 .s (.v 1) .none .none = none →
       ∃ t, exec row.1 s = .next t ∧ Issued s t g
         (scalarGets x w (extend w.t ((reduceLanes row.2.2 (x.rp w.pn) (x.rv w.an)).setWidth 64))).advance) ∧
  (∀ (s : State) (g : GRef) (func : BitVec 6) (w : IW) (x : Group),
     (Before s g (.cvt g func w) x → cvtCheck func.toNat w = none →
       ∃ t, exec (.cvt g func w) s = .next t ∧
         let draws := w.c % 4 = 2 ∧ x.rp w.pn ≠ 0
         let r := rngDraws 16 (s.m.core g.slot.val).rng
         Issued s t g (lanesGet x w fun l =>
             cvtLane func.toNat (w.c % 4) (w.c / 8 % 4) (w.c / 4 % 2 == 1) (rngWord (if draws then r.1 else []) l)
               (vget (x.rv w.dn) l) (vget (x.rv w.an) l) (laneB x w l)).advance
           fun c => if draws then { c with rng := r.2 } else c) ∧
     (Before s g (.bscale g func w) x → bscaleCheck func.toNat w = none →
       ∃ t, exec (.bscale g func w) s = .next t ∧ ∃ f, elemFmt func.toNat = some f ∧
         Issued s t g (scalarGets x w (BitVec.ofNat 64 (blockScale f (laneVals (x.rp w.pn) (x.rv w.an))).1)).advance) ∧
     (Before s g (.bcvt g func w) x → bcvtCheck func.toNat w = none →
       ∃ t, exec (.bcvt g func w) s = .next t ∧ ∃ f, elemFmt func.toNat = some f ∧
         let draws := w.lo.toNat / 64 % 4 = 2 ∧ x.rp w.pn ≠ 0
         let r := rngDraws 16 (s.m.core g.slot.val).rng
         Issued s t g (x.bcvtDo f w (if draws then r.1 else [])).advance
           fun c => if draws then { c with rng := r.2 } else c))

/-- R165, Table 6.12: the permutes. Lane l takes the lane that its index gives; INSB replaces one byte of one lane. -/
def Obligations.PermutesWriteTheirResult : Prop :=
  ∀ (s : State) (g : GRef) (w : IW) (x : Group),
    (Before s g (.shfl g w) x → checkR w (w.t == 4) (.v 1) (.v 1) .vs .none = none →
      ∃ t, exec (.shfl g w) s = .next t ∧
        Issued s t g (lanesGet x w fun l => vget (x.rv w.an) ((laneB x w l).toNat % 32)).advance) ∧
    (Before s g (.rot g w) x → checkR w (w.t == 4) (.v 1) (.v 1) .sReq .none = none →
      ∃ t, exec (.rot g w) s = .next t ∧
        Issued s t g (lanesGet x w fun l => vget (x.rv w.an) ((l + (x.rs w.b).toNat) % 32)).advance) ∧
    (Before s g (.qbshuf g w) x → checkR w (w.t == 4) (.v 1) (.v 1) (.v 1) .none = none →
      ∃ t, exec (.qbshuf g w) s = .next t ∧
        Issued s t g (lanesGet x w fun l => qbshufLane (x.rv w.an) (vget (x.rv w.b) l) l).advance) ∧
    (Before s g (.shflXor g w) x → permiCheck w (.v 1) 5 = none →
      ∃ t, exec (.shflXor g w) s = .next t ∧
        Issued s t g (lanesGet x w fun l => vget (x.rv w.an) (Nat.xor l w.lo.toNat % 32)).advance) ∧
    (Before s g (.roti g w) x → permiCheck w (.v 1) 5 = none →
      ∃ t, exec (.roti g w) s = .next t ∧
        Issued s t g (lanesGet x w fun l => vget (x.rv w.an) ((l + w.lo.toNat) % 32)).advance) ∧
    (Before s g (.laneb g w) x → permiCheck w (.v 1) 5 = none →
      ∃ t, exec (.laneb g w) s = .next t ∧ Issued s t g (lanesGet x w fun _ => vget (x.rv w.an) w.lo.toNat).advance) ∧
    (Before s g (.insb g w) x → permiCheck w .s 7 = none →
      ∃ t, exec (.insb g w) s = .next t ∧ Issued s t g (lanesGet x w fun l =>
        if l = w.lo.toNat % 32 then
          word4 fun k => if k = w.lo.toNat / 32 then (x.rs w.an).setWidth 8 else (vget (x.rv w.dn) l >>> (8 * k)).setWidth 8
        else vget (x.rv w.dn) l).advance)

/-! ### Control flow, system instructions and barriers -/

namespace Sys2Proof.Machine

/-- The values of the special registers (Table 4.11); the step in which RDSR issues is counted. -/
def specialValues (m : Mach) (g : GRef) (x : Group) : List W64 :=
  let slot := g.slot.val
  let l := (m.core slot).launch.bind m.launch?
  [(m.core slot).steps + 1, m.rd64 (at_ (dieOfSlot slot) Reg.CLK_RIM_TIMER), x.pc, BitVec.ofNat 64 (dieOfSlot slot),
   BitVec.ofNat 64 slot, BitVec.ofNat 64 g.group.val, BitVec.ofNat 64 ((l.map Launch.tag).getD 0),
   BitVec.ofNat 64 (32768 * (m.core slot).share), BitVec.ofNat 64 ((l.map Launch.acc).getD 0),
   BitVec.ofNat 64 m.device, BitVec.ofNat 64 ((l.map Launch.part).getD 0)]

end Sys2Proof.Machine

/-- R107 to R109: BR, BR.IND and LOOP. A taken branch writes pc + 8 to its link register (s0 discards it) and goes to its
target; an untaken one goes on to the next address. LOOP lowers its counter by one, modulo 2⁶⁴, and branches while it is not
zero. R112 to R115: NOP, RDSR and BRK. BRK of a group with no debugger attached to its launch is a NOP; with one attached, some
governing bit set and a partition not in Sable mode, the group halts behind it with its code (R115, R497). -/
def Obligations.BranchesAndSystemInstructionsAct : Prop :=
  (∀ (s : State) (g : GRef) (w : BW) (x : Group),
     let p := x.rp w.pred.toNat
     let taken := (bwCond w = 0 ∧ p ≠ 0) ∨ (bwCond w = 1 ∧ p = 0xFFFFFFFF) ∨ (bwCond w = 2 ∧ p = 0)
     let rel := x.pc + 8 * w.off.signExtend 64
     (Before s g (.br g w) x → bwCond w ≠ 3 → w.mid.toNat % 2 ^ 14 = 0 →
       ∃ t, exec (.br g w) s = .next t ∧
         Issued s t g (if taken then (x.ws (bwLink w) (x.pc + 8)).jump rel else x.advance)) ∧
     (Before s g (.brInd g w) x → bwCond w ≠ 3 → w.mid.toNat % 2 ^ 9 = 0 → w.off = 0 →
       (taken → (x.rs (bwTarget w)).toNat % 8 = 0) →
       ∃ t, exec (.brInd g w) s = .next t ∧
         Issued s t g (if taken then (x.ws (bwLink w) (x.pc + 8)).jump (x.rs (bwTarget w)) else x.advance)) ∧
     (Before s g (.loop g w) x → bwCond w = 0 → w.mid.toNat % 2 ^ 14 = 0 → w.pred = 0 → bwLink w ≠ 0 →
       ∃ t, exec (.loop g w) s = .next t ∧
         let y := { x with s := x.s.put (bwLink w) (x.rs (bwLink w) - 1) }
         Issued s t g (if x.rs (bwLink w) = 1 then y.advance else y.jump rel))) ∧
  (∀ (s : State) (g : GRef) (w : IW) (x : Group),
     (Before s g (.nop g w) x → checkI w (w.t == 0) .none .none false = none →
       ∃ t, exec (.nop g w) s = .next t ∧ Issued s t g x.advance) ∧
     (Before s g (.rdsr g w) x → rdsrCheck w = none →
       ∃ t, exec (.rdsr g w) s = .next t ∧
         Issued s t g (scalarGets x w ((specialValues s.m g x).getD w.lo.toNat 0)).advance) ∧
     (Before s g (.brk g w) x → checkI w (w.t == 0) .none .none true = none →
       ((s.m.coreLaunch g.slot.val).map (·.attached)) ≠ some true →
       ∃ t, exec (.brk g w) s = .next t ∧ Issued s t g x.advance) ∧
     (Before s g (.brk g w) x → checkI w (w.t == 0) .none .none true = none →
       ((s.m.coreLaunch g.slot.val).map (·.attached)) = some true → x.rp w.pn ≠ 0 →
       s.m.sableCluster (clusterOfSlot g.slot.val) = false →
       ∃ t, exec (.brk g w) s = .next t ∧ t.kept = s.kept ∧ t.pending = s.pending ∧ t.m.mem = s.m.mem ∧
         (∃ y, t.m.group? g.slot.val g.group.val = some y ∧ y.stat = .haltDebug ∧ y.reason = 3 ∧ y.brk = w.lo ∧
           y.pc = x.pc + 8 ∧ y.s = x.s ∧ y.v = x.v ∧ y.p = x.p) ∧
         (∀ k, k ≠ g.slot.val * 8 + g.group.val → t.m.groups.get? k = s.m.groups.get? k)))

/-- R68, R69, R72: EXIT ends its group, whose buffered requests stay to drain; BAR.BLOCK and BAR.CLUSTER make their group wait,
counting the barrier; no register changes and memory stays as it was. R69, R70, R73, R75: a block barrier at which every group
has arrived or exited, with every release complete, lets the waiting groups go on to the next address, and its timer stops; when
instead its timer expires with one group missing, that group is faulted with BARRIER_TIMEOUT. -/
def Obligations.GroupsExitAndMeetAtBarriers : Prop :=
  (∀ (s : State) (g : GRef) (w : IW) (x : Group), barCheck w = none →
     (Before s g (.exit g w) x →
       ∃ t, exec (.exit g w) s = .next t ∧ t.kept = s.kept ∧ t.pending = s.pending ∧ t.m.mem = s.m.mem ∧ t.m.reqs = s.m.reqs ∧
         ∃ y, t.m.group? g.slot.val g.group.val = some y ∧ y.stat = .exited ∧ y.outs = x.outs ∧ y.resv = none ∧
           y.s = x.s ∧ y.v = x.v ∧ y.p = x.p) ∧
     (Before s g (.barBlock g w) x →
       ∃ t, exec (.barBlock g w) s = .next t ∧ t.kept = s.kept ∧ t.pending = s.pending ∧ t.m.mem = s.m.mem ∧
         t.m.group? g.slot.val g.group.val =
           some { x with stat := .waitBlock, nBlock := x.nBlock + 1, order := x.order + 1 } ∧
         (∀ k, k ≠ g.slot.val * 8 + g.group.val → t.m.groups.get? k = s.m.groups.get? k)) ∧
     (Before s g (.barCluster g w) x → (s.m.residentOf g.slot.val).isSome = true →
       ∃ t, exec (.barCluster g w) s = .next t ∧ t.kept = s.kept ∧ t.pending = s.pending ∧ t.m.mem = s.m.mem ∧
         t.m.group? g.slot.val g.group.val =
           some { x with stat := .waitCluster, nCluster := x.nCluster + 1, order := x.order + 1 } ∧
         (∀ k, k ≠ g.slot.val * 8 + g.group.val → t.m.groups.get? k = s.m.groups.get? k))) ∧
  (∀ (s : State) (slot : Slot), s.m.off = false →
     (s.m.barReady (.block slot) = true → s.m.still (dieOfSlot slot.val) = false →
       ∃ t, exec (.barrierComplete (.block slot)) s = .next t ∧ t.kept = s.kept ∧ t.pending = s.pending ∧ t.m.mem = s.m.mem ∧
         (∀ g : Fin 8, t.m.group? slot.val g.val = (s.m.group? slot.val g.val).map fun x =>
           if x.cur = .waitBlock then x.finish else x) ∧
         (∀ k, k / 8 ≠ slot.val → t.m.groups.get? k = s.m.groups.get? k) ∧
         t.m.core slot.val = { s.m.core slot.val with barStart := none, barKept := 0 }) ∧
     (∀ (v g : Nat) (x : Group), (s.m.core slot.val).barStart = some v →
       expired (s.m.now (dieOfSlot slot.val)) v (s.m.barLimit (.block slot)) = true →
       (s.m.blockGroups slot.val).filter (fun p => !s.m.arrived false p) = [(slot.val, g)] →
       s.m.group? slot.val g = some x →
       let fault : FaultInfo := ⟨.barrierTimeout, .errTimeout, x.pc, BitVec.ofNat 64 (s.m.arrivedMask false slot.val), 0⟩
       exec (.barrierTimeout (.block slot)) s =
         .next { s with m := (s.m.raise slot.val g fault).setBar (.block slot) none 0 }))

/-- R111: a group whose requested line has come back takes its word from it; nothing but the group, its request and the place
that keeps the line changes. R79 to R83, R96: a word that names no instruction raises ILLEGAL_OPCODE. The group halts with the
cause, its loads in flight discarded and its buffered requests kept, and the record of the core, when it is the first of the
launch there, holds the cause, the group, the status and the address. -/
def Obligations.FetchedWordsIssueOrFault : Prop :=
  (∀ (s : State) (g : GRef) (x : Group) (y : Launch) (rid : Nat) (q : Req) (a : Answer),
     s.m.off = false → s.m.group? g.slot.val g.group.val = some x → s.m.coreLaunch g.slot.val = some y →
     x.stat = .ready → x.ir = none → (s.m.dieSt (dieOfSlot g.slot.val)).halted = false → (s.m.core g.slot.val).reset = false →
     x.fetchRid = some rid → s.m.req? rid = some q → q.entry = none → q.ans = some a → a.status = .ok →
       ∃ t, exec (.fetch g none) s = .next t ∧ t.kept = s.kept ∧ t.pending = s.pending ∧ t.m.mem = s.m.mem ∧ t.m.regs = s.m.regs ∧
         t.m.req? rid = none ∧
         ∃ z, t.m.group? g.slot.val g.group.val = some z ∧ z.ir = some (lword a.img (x.pc.toNat % 128 / 8)) ∧
           z.fetchRid = none ∧ z.pc = x.pc ∧ z.s = x.s ∧ z.v = x.v ∧ z.p = x.p) ∧
  (∀ (s : State) (g : GRef) (word : W64) (x : Group) (l : Nat) (y : Launch),
     s.m.off = false → s.m.group? g.slot.val g.group.val = some x → x.ir = some word → groupInstr g word = none →
     s.m.mayIssue g.slot.val g.group.val x = true → (s.m.core g.slot.val).launch = some l → s.m.launch? l = some y →
     y.attached = false → y.faults = [] →
     let cl := clusterOfSlot g.slot.val
     let i := indexOfSlot g.slot.val
     let rec_ := aCsup cl Reg.CSUP_REC_0 + i * 0x20
     s.m.bit64 (aCsup cl Reg.CSUP_CORE_FAULT) i = false →
       ∃ t, exec (.illegalOpcode g word) s = .next t ∧ t.kept = s.kept ∧ t.pending = s.pending ∧ t.m.mem = s.m.mem ∧
         t.m.group? g.slot.val g.group.val = some { x with stat := .haltFault, loads := [], fetchRid := none, reason := 4,
                                                           cause := 1, stepping := false, resv := none } ∧
         ((t.m.launch? l).map fun z => (z.faults.head?, z.halted)) = some (some .errDecode, true) ∧
         t.m.rd rec_ = BitVec.ofNat 32 (1 + 256 * g.group.val + 0x20000000) ∧ t.m.rd64 (rec_ + 8) = x.pc ∧
         t.m.bit64 (aCsup cl Reg.CSUP_CORE_FAULT) i = true)

/-- R59, R60, R80: SLOT_FREE of a block-cluster that has ended gives its slot to the launch's next one, in grid order, and counts
the one that ended; LAUNCH_HALT of a halted launch stops every group of its clusters at its instruction boundary. -/
def Obligations.SlotsAreFreedAndHaltedLaunchesStop : Prop :=
  (∀ (s : State) (cl : Cluster) (i : Fin 64) (l : Nat) (y : Launch) (r : Resident),
    s.m.off = false → (s.m.cluster cl.val).launch = some l → (s.m.cluster cl.val).slots.get? i.val = some r →
    s.m.slotEnded cl.val i.val = true → s.m.launch? l = some y → y.dispatching = true →
      ∃ t, exec (.slotFree cl i) s = .next t ∧ t.kept = s.kept ∧ t.pending = s.pending ∧ t.m.mem = s.m.mem ∧
        (t.m.cluster cl.val).slots.get? i.val = some { index := y.next } ∧
        (t.m.launch? l).map (fun z => (z.next, z.ended, z.clusters)) = some (y.next + 1, y.ended + 1, y.clusters)) ∧
  (∀ (s : State) (l : Nat) (y : Launch) (cl : Nat),
    s.m.off = false → s.m.launch? l = some y → y.halted = true → y.stat = .running → y.clusters = [cl] →
    (s.m.cluster cl).slots ≠ [] →
      ∃ t, exec (.launchHalt l) s = .next t ∧ t.kept = s.kept ∧ t.pending = s.pending ∧ t.m.mem = s.m.mem ∧
        ∀ slot ∈ slotsOfCluster cl, ∀ (g : Fin 8) (x : Group), t.m.group? slot g.val = some x →
          x.stat = .exited ∨ x.stat = .haltFault)

namespace Sys2Proof.Machine

/-! ### Memory instructions -/

/-- The load and store of each form (Table 7.3). -/
def loadCmd (g : GRef) (form : LsForm) (func : BitVec 6) (w : IW) : Instr :=
  match form with
  | .s => .ldS g func w
  | .v => .ldV g func w
  | .g => .ldG g func w
def storeCmd (g : GRef) (form : LsForm) (func : BitVec 6) (w : IW) : Instr :=
  match form with
  | .s => .stS g func w
  | .v => .stV g func w
  | .g => .stG g func w

/-- The machine's memory, what outlives a warm reset and the waiting commands are as they were. -/
def SameMemory (s t : State) : Prop := t.kept = s.kept ∧ t.pending = s.pending ∧ t.m.mem = s.m.mem

/-- A group has the registers of another. -/
def Group.sameRegs (y x : Group) : Prop := y.s = x.s ∧ y.v = x.v ∧ y.p = x.p

/-- A cluster holds the translation of an address, with the permission bits `need`, and it leads the partition to a line of
stacked memory of this module at global address gpa (R30, R389, R395). -/
abbrev Translated (m : Mach) (cl part : Nat) (va : W64) (need gpa : Nat) : Prop :=
  va.toNat < 2 ^ 57 ∧
  (∃ e ∈ (m.cluster cl).tlb.get? (va.toNat / 65536), Nat.land e.perm need = need ∧ gpa = e.frame + va.toNat % 65536) ∧
  m.reach part gpa = .inl (.home (gpa / 128))

/-- The partition of the launch that a core holds. -/
def Mach.corePart (m : Mach) (slot : Nat) : Nat := ((m.coreLaunch slot).map Launch.part).getD 0

end Sys2Proof.Machine

/-- R168 to R174, R178: LD.S, LD.V and LD.G of the core's own scratchpad, with no store buffered and no load outstanding: each
active lane receives its bytes, sign- or zero-extended by the width, and the group goes on; nothing else changes. -/
def Obligations.ScratchpadLoadsWriteTheirRegisters : Prop :=
  ∀ (s : State) (g : GRef) (form : LsForm) (func : BitVec 6) (w : IW) (x : Group),
    let n := widthBytes (func.toNat % 8)
    let ls := x.lsLanes form w n
    let core := s.m.core g.slot.val
    Before s g (loadCmd g form func w) x → lsCheck form false func.toNat w = none → w.t = 1 → ls ≠ [] →
    (∀ l ∈ ls, l.2.toNat + n ≤ 32768 * core.share) → core.share ≤ 8 → core.spadBad = [] → core.spadSoft = [] → x.outs = [] → x.loads = [] →
      ∃ t, exec (loadCmd g form func w) s = .next t ∧ Issued s t g (x.advance.writeLoad
        { vector := form != .s, dst := w.dn, width := func.toNat % 8, pc := x.pc, rids := []
          lanes := ls.map fun l => ⟨l.1, l.2, (List.range n).map fun k => .val (Cells.read core.spad (l.2.toNat + k))⟩ })

/-- R169, R177, R178: an LD.S of stacked memory that neither the store buffer nor the L1 holds asks its home for the bytes it
needs, with one request of its line, and the group goes on. R179, R230: PF.L1 and PF.SLICE of stacked memory of this module make
one request for the line and hold nothing up. -/
def Obligations.LoadsAndPrefetchesAskTheirHome : Prop :=
  (∀ (s : State) (g : GRef) (func : BitVec 6) (w : IW) (x : Group) (gpa : Nat),
     let n := widthBytes (func.toNat % 8)
     let va := x.rs w.an + w.lo.signExtend 64
     Before s g (.ldS g func w) x → lsCheck .s false func.toNat w = none → w.t = 0 → func.toNat < 8 → x.rp w.pn ≠ 0 →
     va.toNat % 128 + n ≤ 128 → Translated s.m (clusterOfSlot g.slot.val) (s.m.corePart g.slot.val) va 1 gpa →
     gpa % 128 = va.toNat % 128 → (s.m.core g.slot.val).l1.get? (gpa / 128) = none → x.outs = [] → x.loads = [] →
       ∃ t, exec (.ldS g func w) s = .next t ∧ SameMemory s t ∧ t.m.nextReq = s.m.nextReq + 1 ∧
         (t.m.req? s.m.nextReq).map (fun q => (q.kind, q.src, q.tgt, q.mask, q.ans)) =
           some (.load, .group g.slot.val g.group.val, .home (gpa / 128), maskRange (gpa % 128) n, none) ∧
         (∀ r, r ≠ s.m.nextReq → t.m.req? r = s.m.req? r) ∧
         t.m.group? g.slot.val g.group.val = some { x.advance with
           loads := [{ vector := false, dst := w.dn, width := func.toNat % 8, pc := x.pc, lead := x.lead, rids := [s.m.nextReq]
                       lanes := [⟨0, va, (List.range n).map fun k => .at s.m.nextReq (gpa % 128 + k)⟩] }] }) ∧
  (∀ (s : State) (g : GRef) (w : IW) (x : Group) (gpa : Nat) (l1 : Bool),
     let c : Instr := if l1 then .pfL1 g w else .pfSlice g w
     Before s g c x → checkI w (w.t == 0) .none .s true = none → x.rp w.pn ≠ 0 →
     Translated s.m (clusterOfSlot g.slot.val) (s.m.corePart g.slot.val) (x.rs w.an + w.lo.signExtend 64) 1 gpa →
     (l1 = true → (s.m.core g.slot.val).units ≠ 0 ∧ (s.m.core g.slot.val).l1.get? (gpa / 128) = none) →
       ∃ t, exec c s = .next t ∧ SameMemory s t ∧ t.m.nextReq = s.m.nextReq + 1 ∧
         (t.m.req? s.m.nextReq).map (fun q => (q.kind, q.src, q.tgt)) =
           some (if l1 then .pfL1 else .pfSlice, .group g.slot.val g.group.val, .home (gpa / 128)) ∧
         (∀ r, r ≠ s.m.nextReq → t.m.req? r = s.m.req? r) ∧ t.m.group? g.slot.val g.group.val = some x.advance)

/-- R180 to R184, R187: ATOM, RED, LDR and STC of one aligned element of stacked memory of this module, with nothing buffered and
no status held. Each makes one request of its line: ATOM and RED with the lane's operands, LDR after the group has given up its
reservation and taken the new one, STC through the store buffer, marked to fail unless it names what the group reserved. Memory
changes only where the home performs them. -/
def Obligations.AtomicsAndReservedPairAskTheirHome : Prop :=
  ∀ (s : State) (g : GRef) (func : BitVec 6) (w : IW) (x : Group) (lane gpa : Nat) (va : W64),
    let slot := g.slot.val
    let part := s.m.corePart slot
    let req (t : State) := t.m.req? s.m.nextReq
    let n := atomBytes w.t
    x.outs = [] → x.held = none →
    (∀ red : Bool, Before s g (if red then .red g func w else .atom g func w) x → atomCheck red func.toNat w = none →
      x.atomLanes w = [(lane, va)] → va.toNat % n = 0 →
      Translated s.m (clusterOfSlot slot) part va (if red then 2 else 3) gpa → gpa % 128 = va.toNat % 128 →
        ∃ t, exec (if red then .red g func w else .atom g func w) s = .next t ∧ SameMemory s t ∧
          (req t).map (fun q => (q.kind, q.tgt, q.func, q.ty, q.sent, q.ans)) =
            some (if red then .red else .atom, .home (gpa / 128), func.toNat, w.t, true, none) ∧
          (req t).map (fun q => q.elts) = some [⟨lane, gpa % 128, x.operand (n == 8) w.c lane,
            if func = 7 then x.operand (n == 8) (w.c + if n = 8 then 2 else 1) lane else 0⟩] ∧
          ∃ y, t.m.group? slot g.group.val = some y ∧ y.sameRegs x ∧ y.pc = x.pc + 8 ∧ y.outs = [.req s.m.nextReq] ∧
            y.loads.map (fun r => (r.vector, r.dst, r.rids)) = if red then [] else [(true, w.dn, [s.m.nextReq])]) ∧
    (Before s g (.ldr g func w) x → checkI w (decide (w.t < 6) && func.toNat == 0) .s .s true = none → x.rp w.pn ≠ 0 →
      va = x.rs w.an + w.lo.signExtend 64 → va.toNat % (tyWidth w.t / 8) = 0 →
      Translated s.m (clusterOfSlot slot) part va 1 gpa → gpa % 128 = va.toNat % 128 →
        ∃ t, exec (.ldr g func w) s = .next t ∧ SameMemory s t ∧
          (req t).map (fun q => (q.kind, q.tgt, q.sent, q.mask)) =
            some (.ldr, .home (gpa / 128), true, maskRange (gpa % 128) (tyWidth w.t / 8)) ∧
          ∃ y, t.m.group? slot g.group.val = some y ∧ y.sameRegs x ∧ y.pc = x.pc + 8 ∧
            y.resv = some ⟨128 * (gpa / 128) + gpa % 128, tyWidth w.t / 8⟩) ∧
    (Before s g (.stc g func w) x → checkR w (decide (w.t < 6) && func.toNat == 0) .s .s .s .none = none →
      x.rp w.pn ≠ 0 → va = x.rs w.an → va.toNat % (tyWidth w.t / 8) = 0 →
      Translated s.m (clusterOfSlot slot) part va 2 gpa → gpa % 128 = va.toNat % 128 →
        ∃ t, exec (.stc g func w) s = .next t ∧ SameMemory s t ∧
          (req t).map (fun q => (q.kind, q.tgt, q.sent, q.mask, q.func)) =
            some (.stc, .home (gpa / 128), false, maskRange (gpa % 128) (tyWidth w.t / 8),
              if x.resv = some ⟨128 * (gpa / 128) + gpa % 128, tyWidth w.t / 8⟩ then 0 else 1) ∧
          ∃ y, t.m.group? slot g.group.val = some y ∧ y.sameRegs x ∧ y.pc = x.pc + 8 ∧ y.resv = none ∧
            y.outs = [.req s.m.nextReq])

/-- R190, R214, R215: FENCE, FENCE.C and ACQ make their group wait; REL puts a marker into its outgoing order, which is gone at
once when nothing stands before it that it waits for, and goes on. R215, R216: the wait of an ACQ, FENCE or FENCE.C ends once no
load of the group is outstanding and, for a fence, nothing in scope of its outgoing order (for FENCE.C, nothing at all) is
unanswered and no status is held: the group goes on, its registers as they were, and from scope 2 upward its core's L1 holds no
line of this module. -/
def Obligations.FencesWaitForTheirOrder : Prop :=
  (∀ (s : State) (g : GRef) (w : IW) (x : Group), fenceCheck w = none → x.rp w.pn ≠ 0 →
     let now := s.m.now (dieOfSlot g.slot.val)
     (Before s g (.fence g w) x → ∃ t, exec (.fence g w) s = .next t ∧
       Issued s t g { x with stat := .waitFence false w.t now, order := x.order + 1 }) ∧
     (Before s g (.fenceC g w) x → ∃ t, exec (.fenceC g w) s = .next t ∧ SameMemory s t ∧ t.m.reqs = s.m.reqs ∧
       t.m.group? g.slot.val g.group.val =
         some { x with stat := .waitFence true w.t now, order := x.order + 1, resv := none }) ∧
     (Before s g (.acq g w) x → ∃ t, exec (.acq g w) s = .next t ∧ Issued s t g { x with stat := .acquireWait w.t }) ∧
     (Before s g (.rel g w) x → ∃ t, exec (.rel g w) s = .next t ∧
       Issued s t g { x.advance with outs := s.m.pruneRel [] (x.outs ++ [.rel w.t]), order := x.order + 1 })) ∧
  (∀ (s : State) (g : GRef) (x : Group) (scope : Nat), s.m.off = false → s.m.still (dieOfSlot g.slot.val) = false →
     s.m.group? g.slot.val g.group.val = some x → x.loads = [] →
     (x.stat = .acquireWait scope ∨
      (∃ v, x.stat = .waitFence false scope v ∧ s.m.outPending x (·.inScope scope) = false) ∨
      (∃ v, x.stat = .waitFence true scope v ∧ s.m.outPending x (fun _ => true) = false ∧ x.held = none)) →
       ∃ t, exec (.fenceComplete g) s = .next t ∧ SameMemory s t ∧ t.m.regs = s.m.regs ∧
         (∃ y, t.m.group? g.slot.val g.group.val = some y ∧ y.sameRegs x ∧ y.pc = x.pc + 8 ∧ y.outs = x.outs ∧
           y.stat = (if x.stepping then .haltDebug else .ready)) ∧
         (2 ≤ scope → ∀ e ∈ (t.m.core g.slot.val).l1, s.m.fabricLine e.1 = true ∧ scope < 5))

/-- R173 to R177, R205 to R207: a store changes no memory when it issues. Its lanes' bytes are merged by line, later lanes over
earlier ones, and each line enters the group's store buffer (R177); a store to the scratchpad of one lane is then what a load of
the group reads there. R206, R211: the oldest entry that no marker holds back leaves the store buffer. One for a home is sent to
it; one for a local array writes its bytes there and is answered: every byte under its mask takes the entry's, every other byte
stays. -/
def Obligations.StoresEnterAndLeaveTheStoreBuffer : Prop :=
  ((∀ (s : State) (g : GRef) (form : LsForm) (func : BitVec 6) (w : IW) (x : Group) (m : Mach) (ps : List Piece),
     let slot := g.slot.val
     let ls := x.lsLanes form w (widthBytes (func.toNat % 8))
     let part := (s.m.stepCore slot g.group.val).corePart slot
     Before s g (storeCmd g form func w) x → lsCheck form true func.toNat w = none → ls ≠ [] →
     (s.m.stepCore slot g.group.val).resolve slot g.group.val part w.t 2 (widthBytes (func.toNat % 8)) ls = (m, .ok ps []) →
       exec (storeCmd g form func w) s = .next ⟨s.pending, s.kept,
         (m.setGroup slot g.group.val x.advance).bufferStores slot g.group.val part w.t (func.toNat / 8 % 4 == 2) x.order
           ((mergeStore (x.storeData form w (func.toNat % 8)) ps []).map (·.2))⟩) ∧
   (∀ (s : State) (g : GRef) (func : BitVec 6) (w : IW) (x : Group),
     let n := widthBytes (func.toNat % 8)
     let va := x.rs w.an + w.lo.signExtend 64
     Before s g (.stS g func w) x → lsCheck .s true func.toNat w = none → w.t = 1 → x.rp w.pn ≠ 0 → x.outs = [] →
     va.toNat % 128 + n ≤ 128 → va.toNat + n ≤ 32768 * (s.m.core g.slot.val).share → (s.m.core g.slot.val).share ≤ 8 →
       ∃ t, exec (.stS g func w) s = .next t ∧ SameMemory s t ∧ (∀ k, (t.m.core k).spad = (s.m.core k).spad) ∧
         ∃ y, t.m.group? g.slot.val g.group.val = some y ∧ y.sameRegs x ∧ y.pc = x.pc + 8 ∧
           ∀ k, k < n → t.m.spadByte g.slot.val y (va.toNat + k) = (x.rs w.dn >>> (8 * k)).setWidth 8)) ∧
  (∀ (s : State) (g : GRef) (x : Group) (rid : Nat) (q : Req),
     s.m.off = false → (s.m.dieSt (dieOfSlot g.slot.val)).halted = false → s.m.group? g.slot.val g.group.val = some x →
     x.outs = [.req rid] → x.held = none → s.m.req? rid = some q → q.sent = false → q.ans = none →
     (∀ line, q.tgt = .home line →
       exec (.storeBufferSend g) s = .next ⟨s.pending, s.kept,
         (s.m.setGroup g.slot.val g.group.val x).updReq rid fun q => { q with sent := true }⟩) ∧
     (∀ slot off l, q.tgt = .spad slot off → s.m.arrayPath q.die slot = true → (s.m.core slot).launch = some l → off < 32768 * (s.m.core slot).share →
       q.src = .group g.slot.val g.group.val → q.kind = .store → Memory.wf (s.m.core slot).spad = true →
       ∃ t, exec (.storeBufferSend g) s = .next t ∧ SameMemory s t ∧ t.m.regs = s.m.regs ∧
         (t.m.req? rid).map (fun q => (q.sent, q.ans)) = some (true, some { status := .ok }) ∧
         (∀ a, Cells.read (t.m.core slot).spad a =
           if off ≤ a ∧ a < off + 128 ∧ q.mask.getLsbD (a - off) = true then lbyte q.img (a - off)
           else Cells.read (s.m.core slot).spad a) ∧
         ∀ k, k ≠ slot → t.m.core k = s.m.core k))

/-- R191, R192, R224: a load's answer writes its registers and the request is gone; a store's answer takes it out of the
outgoing order; a load that has had no answer for 800,000 ticks is answered with ERR_TIMEOUT. -/
def Obligations.AnswersComeBackToTheGroup : Prop :=
  ∀ (s : State) (g : GRef) (x : Group) (rid : Nat) (q : Req) (a : Answer),
    s.m.off = false → s.m.group? g.slot.val g.group.val = some x → s.m.req? rid = some q →
    q.src = .group g.slot.val g.group.val → q.saved = none → q.entry = none → s.m.still q.die = false →
    (q.kind = .load → q.ans = some a → a.status = .ok → ∀ r, x.loads = [r] → r.rids = [rid] → r.errs = [] →
      ∃ t, exec (.loadAnswer rid none) s = .next t ∧ SameMemory s t ∧ t.m.req? rid = none ∧
        ∃ y, t.m.group? g.slot.val g.group.val = some y ∧ y.sameRegs (x.writeLoad (r.deliver rid a)) ∧ y.pc = x.pc ∧
          y.loads = []) ∧
    (q.kind = .store → q.ans = some a → a.status = .ok → x.full = [] → (∀ d o, x.stat ≠ .waitSubmit d o) →
      x.back = .ready →
      ∃ t, exec (.storeAck rid none) s = .next t ∧ SameMemory s t ∧ t.m.req? rid = none ∧
        ∃ y, t.m.group? g.slot.val g.group.val = some y ∧ y.sameRegs x ∧ y.pc = x.pc ∧ y.held = x.held ∧
          y.outs = x.outs.filter (· != .req rid)) ∧
    (q.kind = .load → q.ans = none → expired (s.m.now q.die) q.tick 800000 = true →
      (∀ y ∈ s.m.groups, rid ∉ y.2.full) → q.near = false →
      (∀ line, q.tgt = .home line → ∀ n ∈ s.m.notesOf (s.m.hd line) (s.m.hc line) line, n.req ≠ .req rid) →
      ∃ t, exec (.requestTimeout rid) s = .next t ∧ SameMemory s t ∧ t.m.groups = s.m.groups ∧
        t.m.req? rid = some { q with ans := some { status := .errTimeout }, atHome := true, joined := false })

namespace Sys2Proof.Machine

/-! ### Matrix instructions and the tensor mover -/

/-- The tile of an MMA's result (R122, R142 to R148): active elements computed from the images of A and B, the scale or mask
register and the old tile, the others kept. -/
def mmaTile (sparse : Bool) (sh : Fmt × Fmt × Nat × Nat) (p : W32) (a b : Nat → Byte) (sc : Vec) (old : Tile) : Tile :=
  tmake fun i j =>
    if tileActive p i j then
      (if sparse then mmaSpElem sh.1 sh.2.1 sh.2.2.1 a b sc (tget old i j) i j
       else mmaElem sh.1 sh.2.1 sh.2.2.1 sh.2.2.2 a b sc (tget old i j) i j)
    else tget old i j

/-- The core with one more matrix result in flight (R152). -/
def Core.withFlight (tile : Nat) (v : Tile) (busy : Nat) (c : Core) : Core := { c with flight := c.flight ++ [⟨tile, v, busy⟩] }

/-- The tile of the core that a group's tile number names (R88, R143). -/
def Mach.groupTile (m : Mach) (g : GRef) (d : Nat) : Nat :=
  tileOf (((m.coreLaunch g.slot.val).map Launch.acc).getD 0) g.group.val d

end Sys2Proof.Machine

/-- R122, R141 to R153: MMA and MMA.SP capture their operands at issue, and their result is in flight until MATRIX_TILE_WRITE
writes the oldest of the core to its tile; the limiter then holds the next MMA back for the engine steps of R425. Registers,
other tiles and memory stay as they were. R148, R150, R530: TZERO, TLD.V and TLD.S put the new tile in flight, TST.V writes
eight registers, and TST.S enters its lines into the store buffer. -/
def Obligations.MatrixInstructionsWriteTheirTile : Prop :=
  ((∀ (s : State) (g : GRef) (func : BitVec 6) (sparse : Bool) (w : IW) (x : Group) (sh : Fmt × Fmt × Nat × Nat)
       (a b : Nat → Byte),
     let c : Instr := if sparse then .mmaSp g func w else .mma g func w
     let slot := g.slot.val
     let tile := s.m.groupTile g w.dn
     Before s g c x → mmaCheck (s.m.coreLaunch slot) func.toNat sparse w = none → mmaShape func.toNat = some sh →
     tileAny (x.rp w.pn) = true → (s.m.core slot).spadBad = [] → (s.m.core slot).spadSoft = [] →
     (s.m.operandImage slot x (w.t % 2 == 1) w.an
       (imageBytes (if sparse then sh.2.2.1 / 2 else sh.2.2.1) sh.1.bits)).2 = .inl a →
     (s.m.operandImage slot x (w.t / 2 % 2 == 1) w.b (imageBytes sh.2.2.1 sh.2.1.bits)).2 = .inl b →
       ∃ t, exec c s = .next t ∧ Issued s t g x.advance
         (Core.withFlight tile (mmaTile sparse sh (x.rp w.pn) a b (x.rv w.c) ((s.m.core slot).tile tile))
           ((if func.toNat = 4 ∨ func.toNat = 5 then 64 else 32) / if sparse then 2 else 1))) ∧
   (∀ (s : State) (slot : Slot) (f : InFlight) (rest : List InFlight),
     s.m.off = false → s.m.still (dieOfSlot slot.val) = false → (s.m.core slot.val).flight = f :: rest →
       let k := max 1 (s.m.fld (at_ (dieOfSlot slot.val) Reg.PWR_LIMIT) 0 7)
       exec (.matrixTileWrite slot) s = .next ⟨s.pending, s.kept,
         s.m.setCore slot.val { s.m.core slot.val with
           flight := rest, tiles := (s.m.core slot.val).tiles.put f.tile f.val
           hold := if f.busy = 0 then (s.m.core slot.val).hold else (f.busy * (64 - k) + k - 1) / k }⟩)) ∧
  (∀ (s : State) (g : GRef) (w : IW) (x : Group),
     let slot := g.slot.val
     let l := s.m.coreLaunch slot
     let p := x.rp w.pn
     let tile := s.m.groupTile g w.dn
     let old := (s.m.core slot).tile tile
     (Before s g (.tzero g w) x → tileCheck l w .none = none → tileAny p = true →
       ∃ t, exec (.tzero g w) s = .next t ∧
         Issued s t g x.advance (Core.withFlight tile (tileMerge p old (tmake fun _ _ => 0)) 0)) ∧
     (Before s g (.tldV g w) x → tileCheck l w (.v 8) = none → tileAny p = true →
       ∃ t, exec (.tldV g w) s = .next t ∧ Issued s t g x.advance (Core.withFlight tile
         (tileMerge p old (tmake fun i j => vget (x.rv (w.an + i / 2)) (16 * (i % 2) + j))) 0)) ∧
     (∀ a, Before s g (.tldS g w) x → tileCheck l w .s = none → tileAny p = true →
       (s.m.core slot).spadBad = [] → (s.m.core slot).spadSoft = [] → (s.m.operandImage slot x true w.an 1024).2 = .inl a →
       ∃ t, exec (.tldS g w) s = .next t ∧ Issued s t g x.advance (Core.withFlight tile
         (tileMerge p old (tmake fun i j => word4 fun k => a (4 * (16 * i + j) + k))) 0)) ∧
     (Before s g (.tstV g w) x → tileCheck l w (.v 8) = none →
       ∃ t, exec (.tstV g w) s = .next t ∧ Issued s t g (x.tstDo w old).advance) ∧
     (Before s g (.tstS g w) x → tileCheck l w .s = none → tileAny p = true →
       (x.rs w.an).toNat % 2 ^ 32 % 128 = 0 → (x.rs w.an).toNat % 2 ^ 32 + 1024 ≤ 32768 * (s.m.core slot).share →
       exec (.tstS g w) s = .next ⟨s.pending, s.kept,
         ((((s.m.stepCore slot g.group.val).event slot 0x03 1).event slot 0x04 4).setGroup slot g.group.val x.advance).bufferStores
           slot g.group.val (s.m.corePart slot) 1 false x.order (tstLines slot ((x.rs w.an).toNat % 2 ^ 32) p old) 1⟩))

/-- R194 to R199: TM.SUBMIT, once its group's stores are answered and the queue has room, puts its descriptor behind the
cluster's transfers under the next ticket, which its destination receives; TM.WAIT on a transfer that has ended gives its status
word and forgets it; TM.TEST gives the word of one under way or ended, or that of R199 for a ticket that is not the block's.
R196, R198: TM_CHUNK carries on the transfer whose turn it is. A fill whose chunk lies in a local array writes zeros there; its
count advances by one and the next chunk is due. -/
def Obligations.MoverTransfersBeginRunAndEnd : Prop :=
  (∀ (s : State) (g : GRef) (w : IW) (x : Group), tmCheck w = none → x.rp w.pn ≠ 0 →
     let slot := g.slot.val
     let cl := clusterOfSlot slot
     let off := (x.rs w.an).toNat
     let desc := (List.range 128).map fun k => Cells.read (s.m.core slot).spad (off + k)
     let ticket := (s.m.cluster cl).ticket
     (Before s g (.tmSubmit g w) x → x.stepping = false → off % 128 = 0 → x.tickets.length < 8 →
       off + 128 ≤ 32768 * (s.m.core slot).share → x.outs = [] → s.m.moverBusy cl < 64 → (s.m.core slot).spadBad = [] →
       (s.m.core slot).spadSoft = [] → descOk desc = true →
       ∃ t, exec (.tmSubmit g w) s = .next t ∧ SameMemory s t ∧ t.m.reqs = s.m.reqs ∧
         (t.m.cluster cl).mover = (s.m.cluster cl).mover ++
           [{ slot := slot, group := g.group.val, ticket := ticket, desc := desc, bc := (s.m.core slot).bc
              part := s.m.corePart slot }] ∧
         (t.m.cluster cl).ticket = ticket + 1 ∧
         ∃ y, t.m.group? slot g.group.val = some y ∧ y.s = (x.ws w.dn (BitVec.ofNat 64 ticket)).s ∧ y.v = x.v ∧ y.p = x.p ∧
           y.pc = x.pc + 8 ∧ y.stat = .ready ∧ y.tickets = x.tickets ++ [ticket]) ∧
     (∀ f, Before s g (.tmWait g w) x → s.m.ownTicket slot off = some f → f.status.isSome = true →
       ∃ t, exec (.tmWait g w) s = .next t ∧ SameMemory s t ∧ t.m.reqs = s.m.reqs ∧ t.m.transfer? cl off = none ∧
         ∃ y, t.m.group? slot g.group.val = some y ∧ y.s = (x.ws w.dn f.word).s ∧ y.v = x.v ∧ y.p = x.p ∧
           y.pc = x.pc + 8) ∧
     (Before s g (.tmTest g w) x →
       ∃ t, exec (.tmTest g w) s = .next t ∧ Issued s t g
         (x.ws w.dn (match s.m.ownTicket slot off with
           | some f => f.word
           | none => BitVec.ofNat 64 (0x100 + 0x20))).advance)) ∧
  (∀ (s : State) (cl : Cluster) (t : Transfer) (p : Piece) (slot off : Nat) (l : Nat),
     let n := t.chunk.2.2
     s.m.off = false → s.m.still (cl.val / 36) = false → s.m.pdState ≠ 2 → nextTransfer (s.m.moving cl.val) = some t →
     t.wpend = none → t.pend = [] → t.bytes = [] → descOp t.desc = 3 → descDstSpace t.desc ≠ 0 →
     s.m.resolveSpad t.slot (descDstSpace t.desc) n 0 t.chunk.2.1 = .ok [p] [] → p.tgt = .spad slot off →
     s.m.arrayPath (cl.val / 36) slot = true → (s.m.core slot).launch = some l → off < 32768 * (s.m.core slot).share →
       exec (.tmChunk cl none) s = .next ⟨s.pending, s.kept,
         (s.m.spadWrite slot off (maskRange p.off n) (lput 0 p.off n (ofBytes (List.replicate n 0)))).chunkDone cl.val t n⟩)

namespace Sys2Proof.Machine

/-! ### Homes, tint controllers and the companion -/

/-- A state like s but for its machine. -/
abbrev State.but (s : State) (m : Mach) : State := ⟨s.pending, s.kept, m⟩

/-- The slice of a line is quiet about it: its array runs, it has not stopped, it holds no note of the line, and no line of the
line's set waits for a way. -/
abbrev HomeQuiet (m : Mach) (line : Nat) : Prop :=
  m.still (m.hd line) = false ∧ (m.slice (m.hd line) (m.hc line)).stopped = false ∧
  m.notesOf (m.hd line) (m.hc line) line = [] ∧ m.roomless line = none

/-- The home of a line holds it in its way, stable, not Combining, free of errors, in a directory state, with nothing waiting. -/
abbrev HomeHolds (m : Mach) (line : Nat) (h : HomeLine) (d : DState) : Prop :=
  HomeQuiet m line ∧ m.hline? line = some h ∧ h.pend = none ∧ h.waiting = [] ∧ h.dir = d ∧ (h.st = .clean ∨ h.st = .dirty) ∧
  h.soft = 0 ∧ h.bad = 0

/-- A request can be taken by the home of its line now: its path is intact and neither its port, the slice's queues nor the
priority of latency-critical reads holds it back (R21, R44, R247, R277, R280). -/
abbrev Takes (m : Mach) (line : Nat) (r : HReq) : Prop := m.mayArrive line r = true ∧ m.givesWay line r = false

/-- Request rid of group x of a core waits for the home of a line of stacked memory, which it has been sent to and which can take
it; no older request of its group to the line is still on its way (R208). -/
abbrev AtDoor (m : Mach) (line rid : Nat) (q : Req) (slot x : Nat) : Prop :=
  line < allLines ∧ m.req? rid = some q ∧ q.tgt = .home line ∧ q.src = .group slot x ∧ q.saved = none ∧ q.sent = true ∧
  q.atHome = false ∧ q.ans = none ∧ m.still q.die = false ∧ m.outFirst rid q = true ∧ Takes m line (.req rid)

/-- The value of a line at its home: its state, bytes and poisoned words. -/
def Mach.homeVal (m : Mach) (line : Nat) : Option (LState × LineImg × BitVec 16) :=
  (m.hline? line).map fun h => (h.st, h.img, h.psn)

/-- What a request of line performed at its home does: it alone is answered, and the line alone changes its value. -/
def Performed (s t : State) (line rid : Nat) (q : Req) (a : Answer) (v : LState × LineImg × BitVec 16) : Prop :=
  SameMemory s t ∧ t.m.req? rid = some { q with ans := some a, atHome := true, joined := false } ∧
  (∀ r, r ≠ rid → t.m.req? r = s.m.req? r) ∧ t.m.homeVal line = some v ∧
  (∀ l, l ≠ line → t.m.hline? l = s.m.hline? l) ∧ t.m.groups = s.m.groups ∧ t.m.chans = s.m.chans

end Sys2Proof.Machine

/-- R239, R246, R275: a plain read of a line that its home way holds, the directory in H, is answered with the line and the
status of the words it reads, and the line keeps its value. R187: an LDR is answered too, and takes a reservation. -/
def Obligations.HomeReadsAreAnsweredFromTheLine : Prop :=
  ∀ (s : State) (line rid slot x : Nat) (q : Req) (h : HomeLine), s.m.off = false → HomeHolds s.m line h .h →
    AtDoor s.m line rid q slot x →
    ((q.kind = .load ∨ q.kind = .fetch) →
      ∃ t, exec (.plainRead (.req rid)) s = .next t ∧ Performed s t line rid q
        { status := readStatus q.mask h.psn h.unc, img := h.img, psn := h.psn } (h.st, h.img, h.psn)) ∧
    (q.kind = .ldr → s.m.ldrClear q = true → wordsIn q.mask h.psn = false →
      (∀ y, s.m.group? slot x = some y → y.stat ≠ .haltDebug) →
      (s.m.slice (s.m.hd line) (s.m.hc line)).resv.length < 64 →
      ∃ t, exec (.ldrRequest rid) s = .next t ∧
        Performed s t line rid q { status := .ok, img := h.img, psn := h.psn } (h.st, h.img, h.psn) ∧
        (slot, x) ∈ (t.m.resvLine (s.m.hd line) (s.m.hc line) line).holders)

/-- R180 to R188, R249, R278, R306: a store, a reduce-store, an atomic and a store-conditional performed at the home of a line
that holds it with the directory in H and whose page is not logged. A store's bytes under its mask replace the line's; the
elements of RED combine into it; ATOM answers the values before; STC succeeds when its group holds the reservation and no other
group a lease, ends every reservation of the line and answers 0, and otherwise changes nothing and answers 1. R250, R251, R252:
a reduce-store of a line that its home does not hold, with a way free, makes a Combining line without a read of memory. -/
def Obligations.HomeWritesArePerformedOnTheLine : Prop :=
  (∀ (s : State) (line rid slot x : Nat) (q : Req) (h : HomeLine), s.m.off = false → HomeHolds s.m line h .h →
     AtDoor s.m line rid q slot x → s.m.logBit line = none →
     (q.kind = .store →
       ∃ t, exec (.write (.req rid)) s = .next t ∧ Performed s t line rid q { status := .ok }
         (.dirty, lmerge q.mask h.img q.img, psnAfter q.mask h.psn ||| q.psnW)) ∧
     (q.kind = .red →
       ∃ t, exec (.reduceStore rid) s = .next t ∧ Performed s t line rid q { status := .ok }
         (.dirty, redLanes q.func q.ty h.psn q.elts h.img, h.psn ||| q.psnW)) ∧
     (∀ rs img, q.kind = .atom → atomLanes q.func q.ty h.psn q.elts h.img = some (rs, img) →
       ∃ t, exec (.atomRequest rid) s = .next t ∧ Performed s t line rid q { status := .ok, res := rs } (.dirty, img, h.psn)) ∧
     (q.kind = .stc → wordsIn q.mask h.psn = false →
       (q.func = 0 → s.m.stcMay (s.m.hd line) (s.m.hc line) line slot x = true →
         ∃ t, exec (.stcRequest rid) s = .next t ∧
           Performed s t line rid q { status := .ok, res := [0] } (.dirty, lmerge q.mask h.img q.img, h.psn) ∧
           (t.m.resvLine (s.m.hd line) (s.m.hc line) line).holders = []) ∧
       ((q.func ≠ 0 ∨ s.m.stcMay (s.m.hd line) (s.m.hc line) line slot x = false) →
         ∃ t, exec (.stcRequest rid) s = .next t ∧
           Performed s t line rid q { status := .ok, res := [1] } (h.st, h.img, h.psn)))) ∧
  (∀ (s : State) (line rid slot x way : Nat) (q : Req), s.m.off = false → AtDoor s.m line rid q slot x → q.kind = .red →
     s.m.logBit line = none → HomeQuiet s.m line → s.m.hline? line = none →
     freeWay (s.m.setLines (s.m.hd line) (s.m.hc line) (s.m.lineSet line)) (14 - s.m.tintHeld (s.m.hd line) (s.m.hc line)) =
       some way →
       ∃ t, exec (.reduceStore rid) s = .next t ∧
         Performed s t line rid q { status := .ok } (.combining, (combAdd q.func q.ty q.elts ([], 0)).2, q.psnW) ∧
         (t.m.hline? line).map (fun h => (h.way, h.comb, h.dir, h.pend)) =
           some (some way, (combAdd q.func q.ty q.elts ([], 0)).1, .h, none))

/-- R240, R247, R307, R403: a write at the head of a channel's queue, with no request of a partition to pass it, is stored; where
a latency-critical read may be granted and fewer than eight were granted in a row, or no ordinary request waits, one is granted,
and otherwise an ordinary request is. A line read
for its slice arrives, fills its way Clean and answers the load that waited for it. R189: a lease that has run out ends. R243,
R268: a core's read of a line of another die is answered by its own die's tint ways when they hold it in S or F, joins a request
of it that is out, and otherwise, with a way open, sends RdS to the line's home. -/
def Obligations.ChannelsAndTintsServeTheirReads : Prop :=
  ((∀ (s : State) (die : Die) (ch : Chan) (line : Nat) (img : LineImg) (psn : BitVec 16) (rest : List ChReq),
     let c := s.m.chan die.val ch.val
     s.m.off = false → s.m.memRuns die.val = true → s.m.chanState die.val ch.val = cONLINE → c.rawWait = none →
     c.toOff = false → c.fifo = [] → c.held = [] → c.q = .write line img psn :: rest → rest.length < 64 →
     (∀ r ∈ rest, r.part = 32 ∧ r.crit = false) →
       ∃ d, exec (.channelRequest die ch) s = .next (s.but
         ((s.m.setChan die.val ch.val { c with q := rest, critRun := 0, drrO := d }).memWrite line img psn))) ∧
   (∀ (m : Mach) (c c' : ChanSt) (i : Nat) (r : ChReq), m.chPick c false = some (i, r, c') →
     let ready := chReady (decide (c.out.length < 32)) [] 0 c.q
     (i, r) ∈ ready ∧ c'.q = c.q.eraseIdx i ∧
     (r.crit = true ↔ (∃ x ∈ ready, x.2.crit = true) ∧ ((∀ x ∈ ready, x.2.crit = true) ∨ c.critRun < 8))) ∧
   (∀ (s : State) (die : Die) (ch : Chan) (line rid slot x : Nat) (img : LineImg) (psn unc : BitVec 16)
       (rest : List (Nat × LineImg × BitVec 16 × BitVec 16)) (q : Req) (h : HomeLine),
     let c := s.m.chan die.val ch.val
     s.m.off = false → s.m.still die.val = false → s.m.memRuns die.val = true → s.m.hd line = die.val →
     s.m.hc line = ch.val → c.out = (line, img, psn, unc) :: rest →
     s.m.hline? line = some h → h.st = .filling → h.way.isSome = true → h.dir = .h → h.sharers = 0 → h.waiting = [] →
     h.pend = some (.wM (.serve (.req rid))) → s.m.notesOf die.val ch.val line = [] → s.m.roomless line = none →
     s.m.req? rid = some q → q.kind = .load → q.strm = false → q.src = .group slot x → q.saved = none → q.ans = none →
       ∃ t, exec (.memoryData die ch) s = .next t ∧ SameMemory s t ∧ (t.m.chan die.val ch.val).out = rest ∧
         t.m.homeVal line = some (.clean, img, psn) ∧
         (t.m.req? rid).map Req.ans = some (some { status := readStatus q.mask psn unc, img := img, psn := psn }) ∧
         (∀ r, r ≠ rid → t.m.req? r = s.m.req? r) ∧ ∀ l, l ≠ line → t.m.hline? l = s.m.hline? l) ∧
   (∀ (s : State) (line : Nat) (l : Lease),
     let r := s.m.resvLine (s.m.hd line) (s.m.hc line) line
     s.m.off = false → r.lease = some l → l.until_ < s.m.now (s.m.hd line) →
       exec (.leaseExpiry line) s = .next (s.but
         (s.m.setResv (s.m.hd line) (s.m.hc line) line { r with lease := none })))) ∧
  (∀ (s : State) (line rid slot x : Nat) (q : Req), s.m.off = false → s.m.req? rid = some q → q.tgt = .home line →
     q.src = .group slot x → q.saved = none → q.kind = .load → q.strm = false → q.sent = false → q.atHome = false →
     q.ans = none → s.m.hd line ≠ q.die → s.m.still q.die = false → s.m.outFirst rid q = true →
     (∀ t, s.m.tint? q.die line = some t → (t.st = .s ∨ t.st = .f) → t.soft = 0 → t.bad = 0 →
       ∃ u, exec (.tintRead rid) s = .next u ∧ SameMemory s u ∧ u.m.net = s.m.net ∧ u.m.lines = s.m.lines ∧
         (u.m.req? rid).map Req.ans = some (some { status := readStatus q.mask t.psn 0, img := t.img, psn := t.psn }) ∧
         (u.m.tint? q.die line).map (fun y => (y.st, y.img, y.psn)) = some (t.st, t.img, t.psn)) ∧
     (∀ t, s.m.tint? q.die line = some t → (t.st = .isD ∨ t.st = .isDI ∨ t.st = .isR) →
       exec (.tintRead rid) s = .next (s.but
         ((s.m.setTint q.die line { t with waiting := t.waiting ++ [rid] }).joinTint rid))) ∧
     (∀ way, s.m.tint? q.die line = none → s.m.tintWay q.die line = some way → q.die < 16 → s.m.hd line < 16 →
       ∃ u, exec (.tintRead rid) s = .next u ∧ SameMemory s u ∧ u.m.lines = s.m.lines ∧
         u.m.net = s.m.net ++ [{ code := 0x01, fromA := q.die, toA := s.m.hd line, line := line, crit := q.critical }] ∧
         (u.m.tint? q.die line).map (fun y => (y.st, y.way, y.waiting, y.heldFwd)) = some (.isD, way, [rid], none)))

/-- R265 to R269, R275: RdS of a die for a line in H makes the die its only sharer and F holder and sends it DataF. The companion's
RdS, RdOwn and Upg for such a line make it the owner and send it DataE; its Upg for a line that it alone shares sends GrantE. -/
def Obligations.DirectoryRequestsAreGranted : Prop :=
  ∀ (s : State) (line : Nat) (h : HomeLine), s.m.off = false →
    (∀ (e : Agent) (y : CMsg) (n : Mach), e.val < 16 → HomeHolds s.m line h .h →
      s.m.take 0x01 e.val (s.m.hd line) line = some (y, n) → Takes n line (.rds e.val y.crit) →
      ∃ t, exec (.rds e line) s = .next t ∧ SameMemory s t ∧ t.m.homeVal line = some (h.st, h.img, h.psn) ∧
        (t.m.hline? line).map (fun h => (h.dir, h.sharers, h.f, h.pend)) = some (.s, 1#17 <<< e.val, some e.val, none) ∧
        t.m.net = n.net ++ [{ code := 0x28, fromA := s.m.hd line, toA := e.val, line := line, img := h.img, psn := h.psn }]) ∧
    (s.m.vlUp = true → s.m.intact 0 (s.m.hd line) = true → (∀ code, s.m.take code 16 (s.m.hd line) line = none) →
      (∀ (c : Instr) (code : Nat) (r : HReq),
        (c, code, r) ∈ [(.rds 16 line, 0x01, .cmpRds), (.rdown line, 0x02, .cmpOwn), (.upg line, 0x03, .cmpUpg)] →
        HomeHolds s.m line h .h → s.m.cmpRefuse line (code != 0x01) = none → Takes s.m line r →
        ∃ t, exec c s = .next t ∧ SameMemory s t ∧ t.m.homeVal line = some (h.st, h.img, h.psn) ∧
          (t.m.hline? line).map (fun h => (h.dir, h.sharers, h.f, h.pend)) = some (.x, 0x10000, none, none) ∧
          t.m.net = s.m.net ++ [{ code := 0x2A, fromA := s.m.hd line, toA := 16, line := line, img := h.img, psn := h.psn }]) ∧
      (HomeHolds s.m line h .s → h.sharers = 0x10000 → s.m.cmpRefuse line true = none → Takes s.m line .cmpUpg →
        ∃ t, exec (.upg line) s = .next t ∧ SameMemory s t ∧
          (t.m.hline? line).map (fun h => (h.dir, h.sharers, h.pend)) = some (.x, 0x10000, none) ∧
          t.m.net = s.m.net ++ [{ code := 0x21, fromA := s.m.hd line, toA := 16, line := line, img := h.img, psn := h.psn }]))

/-- R270 to R272: an eviction of a stable line. PutF and PutS clear the agent's bit, and its F role; PutE leaves the line in H;
PutM and PutO bring the companion's data into the home way, Dirty, and end the reservations of the line (R188). Each is
acknowledged with PutAck. -/
def Obligations.EvictionsClearTheirSharer : Prop :=
  ∀ (s : State) (line : Nat) (h : HomeLine), s.m.off = false →
    let hd := s.m.hd line
    let hc := s.m.hc line
    (∀ (e : Die) (y : CMsg) (n : Mach), HomeHolds s.m line h .s → s.m.take 0x08 e.val hd line = some (y, n) →
      exec (.putf e line) s = .next (s.but ((n.setHline line (h.clear e.val).settleS).putAck line e.val))) ∧
    (∀ (img : LineImg), s.m.vlUp = true → s.m.intact 0 hd = true → (∀ code, s.m.take code 16 hd line = none) →
      (HomeHolds s.m line h .s →
        exec (.puts line) s = .next (s.but ((s.m.setHline line (h.clear 16).settleS).putAck line 16))) ∧
      (HomeHolds s.m line h .x →
        exec (.pute line) s = .next (s.but
          ((s.m.setHline line { h with dir := .h, sharers := 0, f := none }).putAck line 16))) ∧
      (HomeHolds s.m line h .x → s.m.logBit line = none →
        exec (.putm line img) s = .next (s.but
          (((s.m.setHline line { h with st := .dirty, img := img, psn := 0, dir := .h, sharers := 0, f := none }).putAck
            line 16).breakResv hd hc line none))) ∧
      (HomeHolds s.m line h .o → s.m.logBit line = none →
        ∃ t, exec (.puto line img) s = .next t ∧ SameMemory s t ∧ t.m.homeVal line = some (.dirty, img, 0) ∧
          (t.m.hline? line).map (fun y => (y.dir, y.sharers)) =
            some (if h.sharers &&& 0xFFFF = 0 then .h else .s, h.sharers &&& 0xFFFF) ∧
          (t.m.resvLine hd hc line).holders = []))

/-- R272, R274, R276: an answer that the home awaits. InvAck and InvData, with others still due, count their agent off and clear
its bit, InvData bringing its data; the companion's answer to SnpRd lets the die that waited read: SnpAck leaves the home's value,
SnpData and SnpDataO bring the companion's, and the line is in S, or in O for SnpDataO. FwdDone ends the wait of its forward.
R285: an answer to a probe that ended without it is discarded and counted. -/
def Obligations.ResponsesCompleteWhatAwaitsThem : Prop :=
  ∀ (s : State) (line : Nat) (h : HomeLine) (n : Mach) (y : CMsg), s.m.off = false →
    let hd := s.m.hd line
    let hc := s.m.hc line
    s.m.hline? line = some h →
    (∀ (code : Nat) (due rest : List (Nat × Nat)) (act : Act) (b : Bool), h.pend = some (.wA code due act b) → rest ≠ [] →
      (∀ (a : Agent), s.m.agentUp a.val = true → s.m.take 0x18 a.val hd line = some (y, n) →
        (s.m.slice hd hc).late.contains (line, a.val) = false → dueWithout due a.val = some rest →
        exec (.invack a line) s = .next (s.but (n.setHline line { h.clear a.val with pend := some (.wA code rest act b) }))) ∧
      (∀ (img : LineImg), s.m.vlUp = true → s.m.take 0x19 16 hd line = some (y, n) →
        (s.m.slice hd hc).late.contains (line, 16) = false → dueWithout due 16 = some rest → s.m.logBit line = none →
        exec (.invdata line img) s = .next (s.but ((n.breakResv hd hc line none).setHline line
          { h.clear 16 with st := .dirty, img := img, psn := 0, soft := 0, bad := 0, pend := some (.wA code rest act b) })))) ∧
    (∀ (d : Die) (tick : Nat) (crit : Bool) (c : Instr) (code : Nat) (dir : DState) (v : LState × LineImg × BitVec 16)
        (img : LineImg),
      (c, code, dir, v) ∈ [(.snpack line, 0x1A, .s, (h.st, h.img, h.psn)), (.snpdata line img, 0x1B, .s, (.dirty, img, 0)),
        (.snpdatao line img, 0x1C, .o, (.dirty, img, 0))] →
      s.m.vlUp = true → s.m.take code 16 hd line = some (y, n) → (s.m.slice hd hc).late.contains (line, 16) = false →
      s.m.logBit line = none → h.pend = some (.wA 0x12 [(16, tick)] (.serve (.rds d.val crit)) false) → h.dir = .x →
      h.sharers = 0x10000 → h.f = none → h.way.isSome = true → h.waiting = [] → (h.st = .clean ∨ h.st = .dirty) →
      h.soft = 0 → h.bad = 0 → HomeQuiet s.m line →
      ∃ t, exec c s = .next t ∧ SameMemory s t ∧ t.m.homeVal line = some v ∧
        (t.m.hline? line).map (fun h => (h.dir, h.sharers, h.f, h.pend)) =
          some (dir, 0x10000 ||| (1#17 <<< d.val), some d.val, none) ∧
        t.m.net = n.net ++ [{ code := 0x28, fromA := hd, toA := d.val, line := line, img := v.2.1, psn := v.2.2 }]) ∧
    (∀ (e : Die) (tick dst : Nat), s.m.take 0x1D e.val hd line = some (y, n) →
      (s.m.slice hd hc).late.contains (line, e.val) = false → h.pend = some (.wF e.val tick dst) → h.waiting = [] →
      HomeQuiet s.m line → exec (.fwddone e line) s = .next (s.but (n.setHline line { h with pend := none }))) ∧
    (∀ (a : Agent), s.m.agentUp a.val = true → s.m.take 0x18 a.val hd line = some (y, n) →
      (s.m.slice hd hc).late.contains (line, a.val) = true →
      ∃ t, exec (.invack a line) s = .next t ∧ t.m.lines = s.m.lines ∧
        t.m.regs = (s.m.count64 (at_ hd Reg.HOME_LATE_CNT) 1).regs ∧
        (t.m.slice hd hc).late = (s.m.slice hd hc).late.erase (line, a.val))

/-- R268, R270, R272 (Tables 10.3, 10.4): what a probe, a grant, a PutAck, a Retry or a Credit does where it arrives: at a die's
tint controller, or at the companion, whose grants leave the module. R284, R285: a FwdRd that a die has not answered 200,000
ticks after it was sent: its line is Dirty with every word poisoned and no longer transient, the agent is marked silent, the
reader receives DataPsn, and the module is in the failed-degraded state. R282: a slice whose queue is empty completes its change
to Amber mode. -/
def Obligations.ProbesAndGrantsActOrTimeOut : Prop :=
  (∀ (s : State) (line : Nat) (y : CMsg) (n : Mach), s.m.off = false →
     let hd := s.m.hd line
     (∀ (e : Die) (t : TintLine), s.m.tint? e.val line = some t →
       ((t.st = .s ∨ t.st = .f) → s.m.take 0x10 hd e.val line = some (y, n) →
         exec (.inv ⟨e.val, by omega⟩ line none) s = .next (s.but
           (((n.count64 (at_ e.val Reg.TINT_INV_CNT) 1).tintSend e.val line 0x18).delTint e.val line))) ∧
       (∀ (r : Die), t.st = .f →
         s.m.takeWhere (fun x => x.code == 0x11 && x.fromA == hd && x.toA == e.val && x.line == line && x.die == r.val) =
           some (y, n) →
         exec (.fwdrd e line r) s = .next (s.but
           ((n.forwardLine e.val line r.val t).setTint e.val line { t with st := .s }))) ∧
       (∀ (v : LineVal), t.st = .isD → t.heldFwd = none →
         s.m.takeWhere (fun x => x.code == 0x28 && x.toA == e.val && x.line == line) = some (y, n) →
         ∃ u, exec (.dataf e line v) s = .next u ∧ u.pending = s.pending ∧ u.kept = s.kept ∧
           (u.m.tint? e.val line).map (fun t => (t.st, t.img, t.psn, t.waiting)) = some (.f, y.img, y.psn, [])) ∧
       (t.st = .isD → s.m.takeWhere (fun x => x.code == 0x2B && x.toA == e.val && x.line == line) = some (y, n) →
         ∃ u, exec (.datapsn ⟨e.val, by omega⟩ line) s = .next u ∧ u.pending = s.pending ∧ u.kept = s.kept ∧
           u.m.tint? e.val line = none) ∧
       (t.st = .fiA → s.m.take 0x1E hd e.val line = some (y, n) →
         exec (.putack ⟨e.val, by omega⟩ line) s = .next (s.but (n.delTint e.val line))) ∧
       (t.st = .isD → s.m.take 0x1F hd e.val line = some (y, n) → y.rds = true →
         exec (.retry ⟨e.val, by omega⟩ line) s = .next (s.but
           ((n.count64 (at_ e.val Reg.TINT_RETRY_CNT) 1).setTint e.val line { t with st := .isR }))) ∧
       (t.st = .isR → s.m.take 0x20 hd e.val line = some (y, n) → y.rds = true →
         exec (.credit ⟨e.val, by omega⟩ line) s = .next (s.but
           { n.setTint e.val line { t with st := .isD } with
             net := { code := 0x01, fromA := e.val, toA := hd, line := line, crit := t.crit } :: n.net }))) ∧
     (∀ (img : LineImg), s.m.take 0x12 hd 16 line = some (y, n) → s.m.compat = false →
       exec (.snprd line (some img)) s = .next (s.but
         (n.csend { code := 0x1B, fromA := 16, toA := hd, line := line, img := img })) ∧
       exec (.snprd line none) s = .next (s.but (n.csend { code := 0x1A, fromA := 16, toA := hd, line := line }))) ∧
     (∀ (c : Instr) (code : Nat) (v : LineVal),
       (c, code) ∈ [(.grante line, 0x21), (.datas line v, 0x29), (.datae line v, 0x2A)] →
       s.m.take code hd 16 line = some (y, n) → exec c s = .next (s.but n))) ∧
  ((∀ (s : State) (line : Nat) (a : Agent) (h : HomeLine) (tick dst : Nat), s.m.off = false → a.val < 16 → dst < 16 →
     s.m.hd line < 16 → s.m.hline? line = some h → h.pend = some (.wF a.val tick dst) → h.waiting = [] → HomeQuiet s.m line →
     expired (s.m.now (s.m.hd line)) tick 200000 = true →
       ∃ t, exec (.probeTimeout line a) s = .next t ∧ t.m.homeVal line = some (.dirty, 0, 0xFFFF) ∧
         (t.m.hline? line).bind (·.pend) = none ∧ t.m.bit (at_ (s.m.hd line) Reg.HOME_AGENT_SILENT) a.val = true ∧
         t.m.failedDegraded = true) ∧
   (∀ (s : State) (die : Die) (ch : Chan), s.m.off = false → (s.m.dieSt die.val).sweep = none →
     (s.m.amber die.val ch.val = true → s.m.bit64 (at_ die.val Reg.HOME_AMBER_ACTIVE) ch.val = false →
       s.m.sliceQueue die.val ch.val = 0 →
       exec (.amberTransitionDone die ch) s = .next (s.but
         (s.m.setBit64 (at_ die.val Reg.HOME_AMBER_ACTIVE) ch.val true))) ∧
     (s.m.amber die.val ch.val = false → s.m.bit64 (at_ die.val Reg.HOME_AMBER_ACTIVE) ch.val = true →
       (s.m.slice die.val ch.val).notes = [] →
       exec (.amberTransitionDone die ch) s = .next (s.but
         (s.m.setBit64 (at_ die.val Reg.HOME_AMBER_ACTIVE) ch.val false)))))

namespace Sys2Proof.Machine

/-! ### Channels, slices and range operations -/

/-- A command answers a next state, its queue and what outlives a warm reset as they were, of which P holds. -/
abbrev Completes (c : Instr) (s : State) (P : State → Prop) : Prop :=
  ∃ t, exec c s = .next t ∧ t.pending = s.pending ∧ t.kept = s.kept ∧ P t

/-- The module is powered, and a requester's write reaches the register at an offset of a die's control space: the requester's
path is open, nothing holds its write back, and the register exists, is not gated, and is not turned away (R8, R31, R362, R366,
R454). -/
abbrev Reaches (s : State) (who : Requester) (die off : Nat) : Prop :=
  s.m.off = false ∧ s.m.canReach who = true ∧ ¬(who = .driver ∧ s.m.cmpWriteDue = true) ∧
  ∃ h, s.m.ctlLook die off = .inl h

/-- The requester was answered OK. -/
abbrev SaysOk (t : State) : Prop := t.m.reply = some ⟨.ok, 0⟩

/-- What a range operation leaves of a line held by its home, Clean or Dirty, with no replica (Table 9.6): its state and pin. -/
def rangeAfter (o : RangeOp) (h : HomeLine) : Option (LState × Option Nat) :=
  match o.op with
  | 1 => some (.clean, h.pin)
  | 2 => none
  | 3 => some (h.st, some o.part)
  | _ => some (h.st, if h.pin = some o.part then none else h.pin)

end Sys2Proof.Machine

/-- R294 to R300: TRAINING copies the capability descriptor, notes whether it is acceptable and which wires failed; its completion
with a good descriptor and at most eight failed wires puts the channel ONLINE with every line of it zero, and no other line
changed. A recalibration round begins on request and after its interval, with the lowest free spare lent to its first wire, and goes
on to the next wire; a wire that finds no margin gives its bits to the spare for good. REFRESH changes nothing. -/
def Obligations.ChannelsTrainAndRecalibrate : Prop :=
  ∀ (s : State) (who : Requester) (die : Die) (ch : Chan),
    let c := s.m.chan die.val ch.val
    let st := s.m.chanState die.val ch.val
    let a := aSlice die.val ch.val Reg.MC_STATE
    let new (t : State) := t.m.chan die.val ch.val
    let began (t : State) : Prop := t.m.bit a 7 = true ∧ (new t).recalWire = s.m.nextWire die.val ch.val 0 ∧
      (new t).lent = s.m.freeSpare die.val ch.val ∧ (new t).lastRecal = s.m.now die.val
    let may : Prop := st = cONLINE ∧ c.recalWire = none ∧ c.lent = none ∧ c.toOff = false ∧ s.m.bit a 8 = false
    (∀ desc failed, s.m.off = false → (s.m.dieSt die.val).joined = true → s.m.memRuns die.val = true →
      (st = cOFF ∧ s.m.stage = 5 ∨ st = cTRAINING ∧ c.measured = false) →
      Completes (.training die ch desc failed) s fun t => t.m.chanState die.val ch.val = cTRAINING ∧ (new t).measured = true ∧
        (new t).descBad = (!capOk desc) ∧
        (new t).failedWires = (List.range 328).filter (fun w => (failed.map Fin.val).contains w) ∧
        ∀ k, k < 16 → t.m.rd (aSlice die.val ch.val Reg.MC_CAP_DESC + 4 * k) = (desc >>> (32 * k)).setWidth 32) ∧
    (s.m.off = false → s.m.memRuns die.val = true → st = cTRAINING → c.measured = true → c.descBad = false →
      c.failedWires.length ≤ 8 → s.m.stage ≠ 5 → Memory.wf s.m.mem = true →
      Completes (.trainingComplete die ch true) s fun t => t.m.chanState die.val ch.val = cONLINE ∧
        ∀ x, Cells.read t.m.mem x =
          if s.m.hd (x / 128) = die.val ∧ s.m.hc (x / 128) = ch.val then 0 else Cells.read s.m.mem x) ∧
    (Reaches s who die.val (aSlice 0 ch.val Reg.MC_CTRL) → may →
      Completes (.recalNow who die ch 3) s fun t => SaysOk t ∧ began t) ∧
    (s.m.off = false → may → s.m.bit (aSlice die.val ch.val Reg.MC_CTRL) 0 = true → s.m.rd (aSlice die.val ch.val Reg.MC_RECAL_INTERVAL) ≠ 0 →
      expired (s.m.now die.val) c.lastRecal (s.m.rd (aSlice die.val ch.val Reg.MC_RECAL_INTERVAL)).toNat = true →
      Completes (.recalIntervalExpiry die ch) s began) ∧
    (∀ w x, s.m.off = false → s.m.memRuns die.val = true → st = cONLINE → c.recalWire = some w → c.recalStop = false →
      s.m.bit a 8 = false → s.m.nextWire die.val ch.val (w + 1) = some x →
      Completes (.recalWire die ch true) s fun t => new t = { c with recalWire := some x, lent := (new t).lent } ∧
        t.m.rd64 (aSlice die.val ch.val Reg.MC_RECAL_CNT) =
          (s.m.count64 (aSlice die.val ch.val Reg.MC_RECAL_CNT) 1).rd64 (aSlice die.val ch.val Reg.MC_RECAL_CNT)) ∧
    (∀ w k, s.m.off = false → s.m.memRuns die.val = true → st = cONLINE → c.recalWire = some w → w < 320 → c.lent = some k →
      k < 8 → Completes (.recalWire die ch false) s fun t => t.m.spareWire die.val ch.val k = some w) ∧
    (s.m.off = false → exec (.refresh die ch) s = .next s)

/-- R312 to R320: the maintenance requests of a channel. OFFLINE_REQ, with no partition, takes the channel OFFLINE once its queue has
drained, and ONLINE_REQ puts it ONLINE; ICT_RUN on an OFFLINE channel begins a test, whose end places its result; GO begins a scrub
pass and STOP ends it, and SCRUB_LINE advances it past a line whose words are valid when no request waits; a raw operation takes its
place in the queue; counters and the table are cleared. -/
def Obligations.ChannelMaintenanceActs : Prop :=
  ∀ (s : State) (who : Requester) (die : Die) (ch : Chan),
    let c := s.m.chan die.val ch.val
    let st := s.m.chanState die.val ch.val
    let at' (off : Nat) := aSlice die.val ch.val off
    let reach (off : Nat) : Prop := Reaches s who die.val (aSlice 0 ch.val off)
    let new (t : State) := t.m.chan die.val ch.val
    let state (t : State) := t.m.chanState die.val ch.val
    (reach Reg.MC_CTRL → st = cONLINE → s.m.anyPart = false →
      Completes (.offlineReq who die ch 5) s fun t => SaysOk t ∧
        if c.sent = [] ∧ c.recalWire = none then state t = cOFFLINE ∧ (new t).toOff = false
        else state t = cONLINE ∧ (new t).toOff = true ∧ (new t).sent = c.sent) ∧
    (reach Reg.MC_CTRL → st = cOFFLINE → c.ictSince = false → c.testing = false →
      Completes (.onlineReq who die ch 9) s fun t => SaysOk t ∧ state t = cONLINE) ∧
    (reach Reg.MC_CTRL → st = cOFFLINE →
      Completes (.ictRun who die ch 33) s fun t => SaysOk t ∧ state t = cOFFLINE ∧ (new t).testing = true ∧
        (new t).ictSince = true) ∧
    (∀ failed, s.m.off = false → c.testing = true →
      Completes (.ictDone die ch failed) s fun t => (new t).testing = false ∧
        ∀ w : Fin 328, t.m.bit (at' Reg.MC_ICT_RESULT + 4 * (w.val / 32)) (w.val % 32) = failed.contains w) ∧
    (reach Reg.MC_SCRUB_CTRL → (st = cONLINE ∨ st = cOFFLINE) → c.scrub = none →
      s.m.fld (at' Reg.MC_SCRUB_START) 0 25 ≤ s.m.fld (at' Reg.MC_SCRUB_END) 0 25 →
      Completes (.go who die ch 1) s fun t => SaysOk t ∧ t.m.rd (at' Reg.MC_SCRUB_STATUS) = 1 ∧
        (new t).scrub = some (s.m.fld (at' Reg.MC_SCRUB_START) 0 25, s.m.fld (at' Reg.MC_SCRUB_END) 0 25)) ∧
    (reach Reg.MC_SCRUB_CTRL → c.scrub.isSome = true →
      Completes (.stop who die ch 2) s fun t => SaysOk t ∧ (new t).scrub = none ∧
        t.m.fld (at' Reg.MC_SCRUB_STATUS) 0 2 = 2 ∧ t.m.fld (at' Reg.MC_SCRUB_STATUS) 8 8 = 0x41) ∧
    (∀ i e, s.m.off = false → s.m.memRuns die.val = true → (st = cONLINE ∨ st = cOFFLINE) → c.scrub = some (i, e) → i < e →
      i + 1 < chanLines → s.m.scrubMay die.val ch.val = true → c.degraded = [] →
      s.m.hline? (lineAt s.m.interleave die.val ch.val i) = none →
      (∀ w, w < 16 → s.m.memSyn (lineAt s.m.interleave die.val ch.val i) w = 0) →
      Completes (.scrubLine die ch) s fun t => t.m.mem = s.m.mem ∧ t.m.syn = s.m.syn ∧
        new t = { c with scrub := some (i + 1, e), scrubWin := (new t).scrubWin, scrubCnt := (new t).scrubCnt } ∧
        (t.m.rd64 (at' Reg.MC_SCRUB_WORDS)).toNat = min ((s.m.rd64 (at' Reg.MC_SCRUB_WORDS)).toNat + 16) (2 ^ 64 - 1)) ∧
    (∀ write : Bool, reach Reg.MC_RAW_CMD → s.m.rawStatus die.val ch.val = .ok → s.m.hline? (s.m.rawLine die.val ch.val).1 = none →
      Completes (if write then .rawWrite who die ch 2 else .rawRead who die ch 1) s fun t => SaysOk t ∧
        (new t).sent = c.sent ++ [.raw (s.m.rawLine die.val ch.val).1 (s.m.rawLine die.val ch.val).2 write] ∧
        t.m.bit (at' Reg.MC_RAW_CMD) 2 = true ∧ t.m.mem = s.m.mem) ∧
    (reach Reg.MC_CNT_CLEAR →
      Completes (.mcCntClear who die ch 1) s fun t => SaysOk t ∧ ∀ k, k < 10 → t.m.rd (at' Reg.MC_CORR_CNT + 4 * k) = 0) ∧
    (Reaches s who die.val Reg.MEM_CE_STATUS →
      Completes (.ceTableClear who die 0x40) s fun t => SaysOk t ∧ t.m.fld (at_ die.val Reg.MEM_CE_STATUS) 0 5 = 0 ∧
        ∀ k, k < 128 → t.m.rd (at_ die.val Reg.MEM_CE_ENTRY + 4 * k) = 0)

/-- R28, R245, R260 to R263, R282, R287: the registers of slices and homes. A change of tint ways begins, and ends once no line
stands in a way that changes role; quotas, the interleave share and Amber requests take what is written; clears clear. -/
def Obligations.SliceAndHomeRegistersAct : Prop :=
  ∀ (s : State) (who : Requester) (die : Die) (ch : Chan),
    let at' (off : Nat) := aSlice die.val ch.val off
    let reach (off : Nat) : Prop := Reaches s who die.val (aSlice 0 ch.val off)
    let sl := s.m.slice die.val ch.val
    (∀ v : W32, reach Reg.SLICE_CTRL → v.toNat % 8 ≤ 4 → v.toNat % 8 ≠ s.m.tintWays die.val ch.val →
      s.m.bit (at' Reg.SLICE_STATUS) 3 = false → s.m.pinsOver die.val ch.val (10 - v.toNat % 8) = false →
      Completes (.sliceCtrlWrite who die ch v) s fun t => SaysOk t ∧ t.m.fld (at' Reg.SLICE_CTRL) 0 3 = v.toNat % 8 ∧
        t.m.bit (at' Reg.SLICE_STATUS) 3 = true ∧ (t.m.slice die.val ch.val) = { sl with tintNew := some (v.toNat % 8) }) ∧
    (∀ n, s.m.off = false → n ≤ 4 → sl.tintNew = some n → s.m.homeAbove die.val ch.val (14 - n) = [] →
      s.m.tintsBelow die.val ch.val (14 - n) = [] →
      (∀ x ∈ s.m.sliceLines die.val ch.val, ∀ r, x.2.pend ≠ some (.wR r false)) →
      Completes (.tintChangeDone die ch) s fun t => t.m.tintWays die.val ch.val = n ∧
        t.m.bit (at' Reg.SLICE_STATUS) 3 = false ∧ t.m.slice die.val ch.val = { sl with tintNew := none }) ∧
    (∀ (p : Part) (v : W32), reach (Reg.SLICE_PIN_QUOTA + 8 * p.val) → v.toNat % 16 ≤ 10 →
      Completes (.slicePinQuotaWrite who die ch p v) s fun t => SaysOk t ∧
        t.m.rd (at' Reg.SLICE_PIN_QUOTA + 8 * p.val) = v &&& 0xFFFF000F) ∧
    (reach Reg.SLICE_CNT_CLEAR →
      Completes (.sliceCntClear who die ch 1) s fun t => SaysOk t ∧ ∀ k, k < 22 → t.m.rd (at' Reg.SLICE_HIT_CNT + 4 * k) = 0) ∧
    (∀ v : W32, Reaches s who 0 Reg.HOME_INTERLEAVE → v.toNat % 256 ≤ 192 → s.m.anyPart = false →
      Completes (.homeInterleaveWrite who 0 v) s fun t => SaysOk t ∧ t.m.interleave = v.toNat % 256 ∧
        ∀ d, d < 16 → t.m.fld (at_ d Reg.HOME_INTERLEAVE) 0 8 = v.toNat % 256) ∧
    (∀ v : W64, Reaches s who die.val Reg.HOME_AMBER_REQ → (s.m.dieSt die.val).sweep = none → (s.m.dieSt die.val).sliceTest = none →
      Completes (.homeAmberReqWrite who die (.full v)) s fun t => SaysOk t ∧ t.m.rd64 (at_ die.val Reg.HOME_AMBER_REQ) = v) ∧
    (Reaches s who die.val Reg.HOME_CNT_CLEAR →
      Completes (.homeCntClear who die 1) s fun t => SaysOk t ∧
        (∀ k, k < 14 → t.m.rd (at_ die.val Reg.HOME_FWD_CNT + 4 * k) = 0) ∧
        ∀ k, k < 10 → t.m.rd (at_ die.val Reg.TINT_FWD_SERVED_CNT + 4 * k) = 0) ∧
    (Reaches s who die.val Reg.HOME_LOG_STATUS →
      Completes (.probeLogClear who die 0x20) s fun t => SaysOk t ∧ t.m.fld (at_ die.val Reg.HOME_LOG_STATUS) 0 4 = 0 ∧
        ∀ k, k < 64 → t.m.rd (at_ die.val Reg.HOME_PROBE_LOG + 4 * k) = 0)

/-- R255 to R258 (Table 9.6): a range operation's action on a line that its home holds, Clean or Dirty, with no replica, once the
walk of its page has ended at a leaf. FLUSH leaves it Clean, INVALIDATE removes it, both writing a Dirty line to memory; PIN and
UNPIN change its pin. The operation goes on to its next line. A page that maps nothing readable is skipped and counted.
RANGE_REPORT, once the report is written, ends the packet. -/
def Obligations.RangeOperationsActOnTheirLines : Prop :=
  ((∀ (s : State) (die : Die) (ch : Chan) (o : RangeOp) (frame size perm line : Nat) (h : HomeLine),
     let gpa := frame + o.cur % size
     s.m.off = false → s.m.ranges = [o] → o.tints = [] → s.m.rangeNoted die.val ch.val o.q o.seq = none → o.cur < o.stop →
     o.cur < 2 ^ 57 → o.page = some (.leaf frame size perm) → perm % 2 = 1 → gpa / 2 ^ 46 = s.m.device →
     gpa % 2 ^ 46 < 128 * allLines → s.m.reach o.part gpa = .inl (.home line) → s.m.hd line = die.val → s.m.hc line = ch.val →
     s.m.rangeHere die.val ch.val o.q o.seq = false → Takes s.m line (.range o.q o.seq o.cur) → HomeHolds s.m line h .h →
     h.sharers = 0 → 1 ≤ o.op → o.op ≤ 4 → (o.op ≠ 4 → h.pin = none) →
     (o.op = 3 → s.m.pinRefused die.val ch.val line o.part = none) → (o.op ≤ 2 → s.m.chanBar die.val ch.val = none) →
       ∃ t, exec (.rangeLineAction die ch) s = .next t ∧
         (t.m.hline? line).map (fun h => (h.st, h.pin)) = rangeAfter o h ∧
         (t.m.chan die.val ch.val).sent = (s.m.chan die.val ch.val).sent ++
           (if o.op ≤ 2 ∧ h.st = .dirty then [.write line h.img h.psn] else []) ∧
         t.m.ranges.map (fun x => (x.q, x.cur, x.sent, x.done, x.wrote)) =
           [(o.q, o.cur + 128, o.sent, o.done + 1, if o.op ≤ 2 ∧ h.st = .dirty then line :: o.wrote else o.wrote)]) ∧
   (∀ (s : State) (die : Die) (ch : Chan) (o : RangeOp) (frame size perm : Nat),
     s.m.off = false → s.m.ranges = [o] → o.tints = [] → s.m.rangeNoted die.val ch.val o.q o.seq = none → o.cur < o.stop →
     o.cur < 2 ^ 57 → o.page = some (.leaf frame size perm) → perm % 2 = 0 →
       exec (.rangeLineAction die ch) s = .next (s.but { s.m with
         ranges := [{ o with cur := (o.cur / size + 1) * size, skipped := o.skipped + 1, page := none }] }))) ∧
  (∀ (s : State) (q : Queue) (o : RangeOp) (m : Mach) (bs : List Byte), s.m.off = false → s.m.ranges = [o] → o.q = q.val → o.err = none →
     s.m.rangeDone o = true → m.ranges = [o] →
     s.m.engWriteAt q.val (engReport + o.seq) o.part o.report (reportBytes o) = (m, .done .ok bs) →
       exec (.rangeReport q) s = .next (s.but (({ m with ranges := [] } : Mach).endJob q.val o.seq
         (if o.refQuota + o.refSet ≠ 0 then .refusedPinQuota else .ok))))

namespace Sys2Proof.Machine

/-! ### Links and the transport layer -/

/-- Nothing waits at a fabric port or in transit. -/
abbrev Mach.portsIdle (m : Mach) : Prop :=
  (∀ fp, (m.port fp).waiting = [] ∧ (m.port fp).tx = [] ∧ (m.port fp).held = []) ∧ m.transit = []

/-- A request whose answer goes to a group of the array. -/
abbrev Req.ofGroup (q : Req) : Prop := (∃ slot g, q.src = .group slot g) ∧ q.saved = none ∧ q.ans = none ∧ q.kind ≠ .pfSlice

end Sys2Proof.Machine

/-- R325 to R337, R350, R351: both ends of a die link come up together with the capabilities that both hold, and go down together
with a fatal fault; a fabric port becomes ACTIVE with its neighbour's identity, at half width when one group's lanes failed, and does not where both
did; it drops its neighbour when its partner is lost, quiesces on the
partner's notice and is QUIESCED once its frames are acknowledged; a lane of low margin is recorded. -/
def Obligations.LinksComeUpAndGoDown : Prop :=
  ∀ s : State, s.m.off = false →
    (∀ (die : Die) (port : Port), outward die.val port.val = false →
      let fd := farDie die.val port.val
      let fp := farPort port.val
      let a := (s.m.rd (aUnit die.val port.val 0 Reg.LU_CAP_LOCAL)).toNat
      let b := (s.m.rd (aUnit fd fp 0 Reg.LU_CAP_LOCAL)).toNat
      let bits := Nat.land (a % 256) (b % 256)
      (s.m.luState die.val port.val 0 = 1 → s.m.luState fd fp 0 = 1 → s.m.lanesRun die.val port.val = true →
        s.m.lanesRun fd fp = true → bits % 2 = 1 →
        Completes (.dieLinkTrained die port) s fun t => t.m.luState die.val port.val 0 = 2 ∧ t.m.luState fd fp 0 = 2 ∧
          (t.m.rd (aUnit die.val port.val 0 Reg.LU_CAP_AGREED)).toNat = bits + 256 * min (a / 256 % 256) (b / 256 % 256) ∧
          t.m.rd (aUnit fd fp 0 Reg.LU_CAP_AGREED) = t.m.rd (aUnit die.val port.val 0 Reg.LU_CAP_AGREED)) ∧
      (∀ why, s.m.luState die.val port.val 0 = (if why = .untrained then 1 else 2) →
        Completes (.dieLinkFault die port why) s fun t => t.m.luState die.val port.val 0 = 6 ∧ t.m.luState fd fp 0 = 6 ∧
          t.m.failedDegraded = true)) ∧
    (∀ (fp : FPort) (x : Ident), s.m.portsIdle →
      let neigh (t : State) : Prop := t.m.rd64 (aFp fp.val Reg.LU_NEIGH_MODULE) = x.moduleId ∧
        (t.m.rd (aFp fp.val Reg.LU_NEIGH_INFO)).toNat = identInfo x
      (s.m.fpLanes fp.val = true →
        (∀ failed : BitVec 16, s.m.fpState fp.val = 1 → s.m.fpRole fp.val = 2 →
          (failed.setWidth 8 = (0 : Byte) ∨ (failed >>> 8).setWidth 8 = (0 : Byte) →
            Completes (.portActive fp failed x) s fun t => t.m.fpState fp.val = 2 ∧
              t.m.fld (aFp fp.val Reg.LU_STATE) 3 2 = (if failed = 0 then 2 else 1) ∧ neigh t) ∧
          (failed.setWidth 8 ≠ (0 : Byte) ∧ (failed >>> 8).setWidth 8 ≠ (0 : Byte) →
            Completes (.portActive fp failed x) s fun t => t.m.fpState fp.val = 1)) ∧
        (s.m.fpCarries fp.val = true → Completes (.identityFrame fp x) s neigh) ∧
        (s.m.fpState fp.val = 2 → Completes (.quiesceNotice fp) s fun t => t.m.fpState fp.val = 3)) ∧
      (s.m.fpCarries fp.val = true → (s.m.port fp.val).unacked.filterMap (·.rid) = [] →
        Completes (.partnerLoss fp) s fun t => t.m.fpState fp.val = 1 ∧ t.m.bit (aFp fp.val Reg.LU_NEIGH_INFO) 31 = false) ∧
      (s.m.fpState fp.val = 3 → (s.m.port fp.val).unacked = [] → (s.m.port fp.val).rx = [] →
        Completes (.quiesced fp) s fun t => t.m.fpState fp.val = (if (s.m.port fp.val).toOff then 0 else 4) ∧
          t.m.bit (aFp fp.val Reg.LU_NEIGH_INFO) 31 = false)) ∧
    (∀ (die : Die) (port : Port) (lane : Fin 56) (h w : Byte), (outward die.val port.val = true → lane.val < 32) →
      2 ≤ s.m.luState die.val port.val (if outward die.val port.val then lane.val / 16 else 0) →
      s.m.luState die.val port.val (if outward die.val port.val then lane.val / 16 else 0) ≤ 4 →
      Completes (.laneMarginLow die port lane h w) s fun t =>
        t.m.bit64 (at_ die.val (Reg.EP_MARGIN_LOW + port.val * 0x40000)) lane.val = true ∧
        (t.m.rd (at_ die.val (Reg.EP_LANE_MARGIN + port.val * 0x40000 + 4 * lane.val))).toNat = h.toNat + 256 * w.toNat)

/-- R325, R327, R328, R329, R331: a frame at a unit that carries traffic. At a fabric port a bad CRC is counted, delivers nothing
and asks for a replay; a frame in order is taken, acknowledged and returns credits; one out of order delivers nothing; a replay
asked for sends every unacknowledged frame again. At a die link a bad frame is counted, and the seventeenth failure in a row of one
frame is a fatal fault. A fatal fault puts the module into the failed-degraded state with its cause and die, and halts every launch
that has not ended. -/
def Obligations.FramesAndFatalFaults : Prop :=
  ((∀ (s : State) (u : LinkUnit) (x : FrameIn) (fp : Nat),
     let p := s.m.port fp
     let took : PortSt := { p with
       unacked := p.unacked.drop x.acked, replays := if x.acked = 0 then p.replays else 0
       credReq := p.credReq + x.credReq, credAns := p.credAns + x.credAns }
     s.m.off = false → fportOf u = some fp → s.m.fpCarries fp = true → s.m.fpLanes fp = true →
     (x.crcOk = false → exec (.frame u x) s = .next (s.but
       ((((s.m.count64 (aFp fp Reg.LU_FEC_CORR_CNT) x.fecCorr).count64 (aFp fp Reg.LU_FEC_UNCORR_CNT) x.fecUncorr).count64
         (aFp fp Reg.LU_CRC_ERR_CNT) 1).trailer fp true 0 0))) ∧
     (x.crcOk = true → x.nak = false → x.msgs = [] → p.tx = [] → p.held = [] → p.rx = [] →
       Completes (.frame u x) s fun t => t.m.reqs = s.m.reqs ∧
         t.m.port fp = (if x.seq = p.rxSeq then { took with rxSeq := p.rxSeq + 1 } else took) ∧
         t.m.outbox = s.m.outbox ++
           [.trailer fp (if x.seq = p.rxSeq then p.rxSeq + 1 else p.rxSeq) (decide (x.seq > p.rxSeq)) 0 0]) ∧
     (x.crcOk = true → x.nak = true → x.acked = 0 → p.replays < 16 → x.seq = p.rxSeq → x.msgs = [] → p.tx = [] → p.held = [] →
       p.rx = [] → Completes (.frame u x) s fun t => (t.m.port fp).unacked = p.unacked ∧ (t.m.port fp).replays = p.replays + 1 ∧
         ∀ k y, p.unacked[k]? = some y → OutMsg.transport fp (p.txSeq - p.unacked.length + k) y.wire ∈ t.m.outbox)) ∧
   (∀ (s : State) (u : LinkUnit) (x : FrameIn), s.m.off = false → outward u.die.val u.port.val = false → u.unit.val = 0 →
     s.m.luState u.die.val u.port.val 0 = 2 → s.m.lanesRun u.die.val u.port.val = true →
     let d := s.m.dlink u.die.val u.port.val
     (x.crcOk = false → d.fails < 16 →
       Completes (.frame u x) s fun t => t.m.dlink u.die.val u.port.val = { d with fails := d.fails + 1 } ∧
         t.m.luState u.die.val u.port.val 0 = 2) ∧
     (x.crcOk = false → 16 ≤ d.fails →
       Completes (.frame u x) s fun t => t.m.luState u.die.val u.port.val 0 = 6 ∧ t.m.failedDegraded = true) ∧
     (x.crcOk = true → x.seq = d.rxSeq →
       Completes (.frame u x) s fun t => t.m.dlink u.die.val u.port.val = { rxSeq := d.rxSeq + 1, fails := 0 }))) ∧
  (∀ (s : State) (die : Die) (cause : Fin 8) (unit : Chan), s.m.off = false → cause.val ≠ 0 → s.m.failedDegraded = false →
    Completes (.failedDegraded die cause unit) s fun t => t.m.failedDegraded = true ∧
      (t.m.rd (at_ 0 Reg.FAB_MODULE_STATE)).toNat = 1 + 256 * cause.val + 65536 * die.val ∧
      ∀ k l, t.m.launch? k = some l → l.stat ≠ .done → l.halted = true)

/-- R333, R334, R343, R481: a request of another device for stacked memory of the partition that the receive table gives it
makes one request at its home; an answer gives its status and data to the request whose entry it names, and frees the entry.
R338, R340, R342, R347 to R349: a message in transit that has waited too long is discarded and counted; a device that has not
answered is declared dead, its requests completing with ERR_PARTNER_DEAD, and every die then shows it; the dead map is cleared
where a 1 is written; a staged route load takes effect. -/
def Obligations.TransportAndItsDeadPartners : Prop :=
  (∀ (s : State) (fp : FPort) (x : TMsg) (p : Nat), s.m.off = false → s.m.fpCarries fp.val = true →
     s.m.fpLanes fp.val = true → s.m.still (fpDie fp.val) = false → (s.m.port fp.val).rx = [] →
     (∀ typ, rxFlits [{ x with typ := typ }] ≤ 128) → x.dst.toNat = s.m.device → s.m.receive x = (s.m, .part p) →
     (∀ (c : Instr) (typ : TType) (kind : RKind), (c, typ, kind) ∈ [(.rd fp x, .rd, .load), (.wr fp x, .wr, .store),
         (.transportRed fp x, .red, .red), (.transportAtom fp x, .atom, .atom)] →
       s.m.failedDegraded = false → x.addr.toNat < 128 * allLines → s.m.granuleOwner (x.addr.toNat / 2 ^ 30) = some p →
       msgOk { x with typ := typ } = true → s.m.partState p ≠ pRESETTING → s.m.partState p ≠ pREMOVING →
       Completes c s fun t => t.m.nextReq = s.m.nextReq + 1 ∧ (∀ r, r ≠ s.m.nextReq → t.m.req? r = s.m.req? r) ∧
         (t.m.req? s.m.nextReq).map (fun q => (q.kind, q.part, q.tgt, q.img)) =
           some (kind, p, .home (x.addr.toNat / 128), x.img) ∧
         (t.m.req? s.m.nextReq).map Req.mask = some (if typ = .wr then x.mask else BitVec.allOnes 128)) ∧
     (∀ (c : Instr) (q : Req) (e : PortEnt), c ∈ [.rdata fp x, .ack fp x, .adata fp x] → x.failed = false →
       (s.m.port x.port.toNat).ents.get? x.entry.toNat = some e → e.dev = x.src.toNat → s.m.req? e.rid = some q →
       q.ofGroup → q.entry = some (x.port.toNat, x.entry.toNat) → (s.m.port x.port.toNat).waiting = [] →
       Completes c s fun t => (t.m.req? e.rid).map (fun q => (q.ans, q.entry)) =
           some (some { status := x.status, img := x.img, res := x.results }, none) ∧
         (t.m.port x.port.toNat).ents.get? x.entry.toNat = none ∧ ∀ r, r ≠ e.rid → t.m.req? r = s.m.req? r)) ∧
  ((∀ (s : State) (i : Nat) (x : Transit), s.m.off = false → s.m.transit[i]? = some x → x.tx.own = false →
     expired (s.m.now (fpDie x.port)) x.since 100000 = true →
     Completes (.transitTimeout i) s fun t => t.m.transit = s.m.transit.eraseIdx i ∧
       t.m.rd64 (aFp x.port Reg.LU_DISCARD_CNT) = (s.m.count64 (aFp x.port Reg.LU_DISCARD_CNT) 1).rd64 (aFp x.port Reg.LU_DISCARD_CNT)) ∧
   (∀ (s : State) (fp : FPort) (dev : DevNo) (v i : Nat) (e : PortEnt) (q : Req), s.m.off = false →
     s.m.deadStart fp.val dev.toNat = some v → expired (s.m.now (fpDie fp.val)) v 400000 = true → s.m.dead dev.toNat = false →
     dev.toNat ∉ s.m.deadNew → (s.m.port fp.val).ents = [(i, e)] → e.dev = dev.toNat → (s.m.port fp.val).waiting = [] →
     s.m.req? e.rid = some q → q.ofGroup → q.entry = some (fp.val, i) →
     Completes (.deadPartnerTimeout fp dev) s fun t => t.m.deadNew = s.m.deadNew ++ [dev.toNat] ∧
       (t.m.req? e.rid).map Req.ans = some (some { status := .errPartnerDead }) ∧ (t.m.port fp.val).ents = []) ∧
   (∀ (s : State) (dev : DevNo), s.m.off = false → dev.toNat ∈ s.m.deadNew →
     (∀ fp, (s.m.port fp).ents = [] ∧ (s.m.port fp).waiting = []) →
     Completes (.deadMapPropagation dev) s fun t => t.m.dead dev.toNat = true ∧ dev.toNat ∉ t.m.deadNew) ∧
   (∀ (s : State) (who : Requester) (k : Fin 8192) (v : W32), Reaches s who 0 (Reg.FAB_DEAD_MAP + 4 * k.val) →
     Completes (.fabDeadMapWrite who 0 k v) s fun t => SaysOk t ∧
       t.m.rd (at_ 0 (Reg.FAB_DEAD_MAP + 4 * k.val)) = s.m.rd (at_ 0 (Reg.FAB_DEAD_MAP + 4 * k.val)) &&& ~~~v) ∧
   (∀ s : State, s.m.off = false → s.m.bit (at_ 0 Reg.FAB_ROUTE_STATUS) 1 = true → s.m.stagedDev < 2 ^ 18 → s.m.portsIdle →
     (∀ p ∈ s.m.ports, p.2.ents = []) →
     Completes .routeLoadActive s fun t => t.m.device = s.m.stagedDev ∧ t.m.bit (at_ 0 Reg.FAB_DEVICE) 18 = true ∧
       t.m.fld (at_ 0 Reg.FAB_ROUTE_STATUS) 0 2 = 1 ∧ t.m.fld (at_ 0 Reg.FAB_ROUTE_STATUS) 8 8 = 0 ∧
       (∀ k, k < 256 → t.m.rd (at_ 0 (Reg.FAB_MEMBER_ROUTE + 4 * k)) = s.m.route.get k 0) ∧
       ∀ k, k < 1024 → t.m.rd (at_ 0 (Reg.FAB_GROUP_ROUTE + 4 * k)) = s.m.route.get (256 + k) 0))

/-- R346, R352, R353, R357, R358, R362: the requests of LU_CTRL in a state that takes them, the role of a unit's groups, credit
reservations and the clearing of counters; the Vilpin link trained and lost. -/
def Obligations.LinkRequestsAct : Prop :=
  (∀ (s : State) (who : Requester) (u : LinkUnit) (fp : FPort), fportOf u = some fp.val →
    Reaches s who u.die.val (Reg.LU_CTRL + u.port.val * 0x40000 + u.unit.val * 0x1000) → s.m.portsIdle →
    ∀ (c : Instr) (was becomes : Nat), (c, was, becomes) ∈ [(.luEnable who u, 0, 1), (.luDisable who u, 1, 0), (.luDisable who u, 4, 0),
      (.luQuiesce who u, 2, 3), (.luResume who u, 3, 2), (.luResume who u, 4, 2), (.luRetrain who u, 4, 1)] →
    s.m.fpState fp.val = was →
    Completes c s fun t => SaysOk t ∧ t.m.fpState fp.val = becomes ∧ t.m.fld (aFp fp.val Reg.LU_CTRL) 8 8 = 0) ∧
  (∀ (s : State) (who : Requester) (die : Die) (port : Port), Reaches s who die.val (Reg.LR_ROLE + 4 * port.val) →
    outward die.val port.val = true → isHostUnit die.val port.val 0 = false → s.m.luState die.val port.val 0 = 0 →
    s.m.rd (at_ die.val (Reg.LR_ROLE + 4 * port.val)) = 0 →
    Completes (.lrRoleWrite who die port 0xA) s fun t => SaysOk t ∧ t.m.rd (at_ die.val (Reg.LR_ROLE + 4 * port.val)) = 0xA ∧
      t.m.fld (aUnit die.val port.val 0 Reg.LU_STATE) 5 2 = 2) ∧
  (∀ (s : State) (who : Requester) (fp : FPort) (p : Part) (v : W32),
    let u := unitOf fp.val
    let a (i : Nat) := aFp fp.val Reg.LU_CREDIT_RES + 4 * i
    let total := ((List.range 32).map fun i => if i = p.val then v.toNat % 2048 else s.m.fld (a i) 0 11).foldl (· + ·) 0
    Reaches s who u.1 (Reg.LU_CREDIT_RES + u.2.1 * 0x40000 + u.2.2 * 0x1000 + 4 * p.val) →
    (total ≤ 1536 → Completes (.luCreditResWrite who fp p v) s fun t => SaysOk t ∧ t.m.fld (a p.val) 0 11 = v.toNat % 2048) ∧
    (total > 1536 → Completes (.luCreditResWrite who fp p v) s fun t =>
      t.m.reply = some ⟨.refusedNoCredit, 0⟩ ∧ t.m.regs = s.m.regs)) ∧
  (∀ (s : State) (who : Requester) (die : Die) (port : Port), Reaches s who die.val (Reg.EP_CNT_CLEAR + port.val * 0x40000) →
    Completes (.epCntClear who die port 1) s fun t => SaysOk t ∧
      ∀ k, k < 14 → t.m.rd (aUnit die.val port.val 0 Reg.LU_FLIT_TX_CNT + 4 * k) = 0) ∧
  (∀ (s : State) (rev2 : Bool), s.m.off = false → s.m.fld (at_ 0 Reg.VL_STATE) 0 3 = 1 →
    Completes (.vilpinTrained rev2) s fun t => t.m.vlUp = true ∧ t.m.compat = !rev2) ∧
  (∀ s : State, s.m.off = false → s.m.vlUp = true →
    Completes .vilpinLoss s fun t => t.m.vlUp = false ∧ t.m.fld (at_ 0 Reg.VL_STATE) 0 3 = 1)

namespace Sys2Proof.Machine

/-! ### Queues -/

/-- The next descriptor d of a queue may begin and has been read, with machine m then; its header is good and its kind is `kind`; a
serial one finds no job of its queue running; and its partition has the turn (R372, R374, R376, R403). -/
abbrev Heads (s : State) (q kind : Nat) (m : Mach) (d : List Byte) : Prop :=
  s.m.off = false ∧ s.m.mayBegin q = true ∧ s.m.readHead q = (m, some (.ok, d)) ∧ m.queueTurn q = true ∧
  (descSerial d = true → (m.queue q).jobs = []) ∧ headerBad d = false ∧ descF d 0 1 = kind

/-- The job that begins with a descriptor. -/
def Mach.headJob (m : Mach) (q : Nat) (d : List Byte) : Job := (m.takeHead q d).2

/-- A queue's record of a job that has ended with a status is due. -/
def Ended (t : State) (q : Nat) (j : Job) (st : Status) : Prop := { j with status := st } ∈ (t.m.queue q).ended

end Sys2Proof.Machine

/-- R368 to R375: a doorbell on an enabled queue with room admits its descriptors; CQ_HEAD moves up to CQ_TAIL; Q_CFG enables a
queue; the interrupt address takes 0 or an address of the companion window. R255, R256, R372, R377, R378: COPY hands its
transfer to the mover of the first cluster of its partition with room; a fence with nothing before it and no write ends OK; a
cache packet whose fields are good begins its range operation. -/
def Obligations.QueueRegistersActAndDescriptorsBegin : Prop :=
  (∀ (s : State) (q : Queue) (v : W32),
     (Reaches s .driver 0 (aQ q.val Reg.Q_DOORBELL) → s.m.qEnabled q.val = true → s.m.failedDegraded = false → s.m.pdState = 0 →
       s.m.partState (qPart q.val) ≠ pRESETTING → s.m.partState (qPart q.val) ≠ pREMOVING →
       s.m.fld (aPart (qPart q.val) Reg.PART_RATE) 0 16 = 0 →
       (v - s.m.rd (aQ q.val Reg.Q_TAIL)).toNat ≤ s.m.qSlots q.val →
       ((v - s.m.rd (aQ q.val Reg.Q_CQ_HEAD)).toNat ≤ s.m.qSlots q.val →
         Completes (.doorbell q v) s fun t => SaysOk t ∧ t.m.rd (aQ q.val Reg.Q_TAIL) = v ∧
           t.m.fld (aQ q.val Reg.Q_STATUS) 0 8 = 0 ∧
           (t.m.queue q.val).arrived.length = (s.m.queue q.val).arrived.length + (v - s.m.rd (aQ q.val Reg.Q_TAIL)).toNat) ∧
       (s.m.qSlots q.val < (v - s.m.rd (aQ q.val Reg.Q_CQ_HEAD)).toNat →
         Completes (.doorbell q v) s fun t => t.m.reply = some ⟨.refusedQueueFull, 0⟩ ∧
           t.m.rd (aQ q.val Reg.Q_TAIL) = s.m.rd (aQ q.val Reg.Q_TAIL) ∧ t.m.queues = s.m.queues ∧
           t.m.fld (aQ q.val Reg.Q_STATUS) 0 8 = 0x10)) ∧
     (Reaches s .driver 0 (aQ q.val Reg.Q_CQ_HEAD) →
       (v - s.m.rd (aQ q.val Reg.Q_CQ_HEAD)).toNat ≤ (s.m.rd (aQ q.val Reg.Q_CQ_TAIL) - s.m.rd (aQ q.val Reg.Q_CQ_HEAD)).toNat →
       Completes (.qCqHeadWrite q v) s fun t => SaysOk t ∧ t.m.rd (aQ q.val Reg.Q_CQ_HEAD) = v) ∧
     (Reaches s .driver 0 (aQ q.val Reg.Q_CFG) → s.m.qEnabled q.val = false → v.getLsbD 5 = true → 4 ≤ v.toNat % 32 →
       v.toNat % 32 ≤ 16 → (s.m.rd64 (aQ q.val Reg.Q_BASE)).toNat % 4096 = 0 → (s.m.rd64 (aQ q.val Reg.Q_CQ_BASE)).toNat % 4096 = 0 →
       Completes (.qCfgWrite q v) s fun t => SaysOk t ∧ t.m.qEnabled q.val = true ∧ t.m.qSlots q.val = 2 ^ (v.toNat % 32)) ∧
     (∀ a : W64, Reaches s .driver 0 (aQ q.val Reg.Q_IRQ_ADDR) → noticeAddr a = true →
       Completes (.qIrqAddrWrite q (.full a)) s fun t => SaysOk t ∧ t.m.rd64 (aQ q.val Reg.Q_IRQ_ADDR) = a)) ∧
  (∀ (s : State) (q : Queue) (m : Mach) (d : List Byte),
     let j := m.headJob q.val d
     (∀ cl, Heads s q.val 2 m d → copyBad d = false → m.moverRoom (qPart q.val) = some cl →
       Completes (.copy q) s fun t => j ∈ (t.m.queue q.val).jobs ∧ (t.m.cluster cl).mover = (m.cluster cl).mover ++
         [{ slot := slotOfIndex cl 0, group := 0, ticket := (m.cluster cl).ticket, desc := copyDesc d, part := qPart q.val
            queue := some (q.val, j.seq) }]) ∧
     (Heads s q.val 4 m d → (s.m.queue q.val).jobs = [] → (m.queue q.val).jobs = [] → fenceBad d = false → descF d 9 1 % 4 = 0 →
       Completes (.fenceDescriptor q) s fun t => (t.m.queue q.val).jobs = [] ∧ Ended t q.val j .ok) ∧
     (∀ (c : Instr) (op : Nat) (n : Mach), (c, op) ∈ [(.prefetch q, 0), (.flush q, 1), (.invalidate q, 2), (.pin q, 3), (.unpin q, 4)] →
       Heads s q.val 3 m d → packetBad d = false → descF d 24 1 = op → m.rangeOf? q.val = none →
       m.reportOk q.val (qPart q.val) (descF d 32 8) = (n, some true) →
       Completes c s fun t => n.headJob q.val d ∈ (t.m.queue q.val).jobs ∧ t.m.ranges = n.ranges ++
         [{ q := q.val, seq := (n.headJob q.val d).seq, op := op, part := qPart q.val, cur := descF d 8 8
            stop := descF d 8 8 + descF d 16 8, report := descF d 32 8, dies := descF d 26 2 }]))

/-- R373, R380 to R384: ACQUIRE of a semaphore that holds enough, with no waiter, takes its count and owns it; RELEASE adds to it,
saturating, and gives up its own ownership; SET sets it and clears its owner; an ACQUIRE that has waited too long ends with
ERR_TIMEOUT. A record that could be written takes its job off the queue and advances CQ_TAIL. -/
def Obligations.SemaphoresAndRecordsAct : Prop :=
  ∀ (s : State) (q : Queue) (m : Mach) (d : List Byte),
    let i := semOf q.val d
    let j := m.headJob q.val d
    let v := (m.rd (aSemV i)).toNat
    (semBad d = false → m.semWait.get i [] = [] → Heads s q.val 6 m d →
      (semOp d = 0 → semN d ≤ v → m.preempted q.val = false →
        Completes (.acquire q) s fun t => (t.m.rd (aSemV i)).toNat = v - semN d ∧ t.m.semOwner i = some q.val ∧
          Ended t q.val j .ok) ∧
      (semOp d = 1 →
        Completes (.release q) s fun t => (t.m.rd (aSemV i)).toNat = min (v + semN d) (2 ^ 32 - 1) ∧
          t.m.semOwner i = (if m.semOwner i = some q.val then none else m.semOwner i) ∧ Ended t q.val j .ok) ∧
      (semOp d = 2 →
        Completes (.set q) s fun t => (t.m.rd (aSemV i)).toNat = semN d ∧ t.m.semOwner i = none ∧ Ended t q.val j .ok)) ∧
    (∀ w k, s.m.off = false → s.m.waitingAcq q.val = some k → (s.m.queue q.val).semFrom = some w → semTimeout k.desc ≠ 0 →
      expired (s.m.now 0) w (semTimeout k.desc) = true →
      Completes (.acquireTimeout q) s fun t => Ended t q.val k .errTimeout ∧ (t.m.queue q.val).semFrom = none ∧
        ∀ x ∈ t.m.semWait, q.val ∉ x.2) ∧
    (∀ k rest bs, s.m.off = false → (s.m.queue q.val).ended = k :: rest → (m.queue q.val).ended = k :: rest →
      s.m.engWriteAt q.val engRecord (qPart q.val) (s.m.slotAddr q.val Reg.Q_CQ_BASE 32 k.seq) k.record = (m, .done .ok bs) →
      Completes (.completionRecord q) s fun t => (t.m.queue q.val).ended = rest ∧
        t.m.rd (aQ q.val Reg.Q_CQ_TAIL) = m.rd (aQ q.val Reg.Q_CQ_TAIL) + 1)

namespace Sys2Proof.Machine

/-! ### Power, clocks, start-up and resets -/

/-- A control register of die 0 or of a die, as the module shows it. -/
abbrev Field (t : State) (die off lo n : Nat) : Nat := t.m.fld (at_ die off) lo n

end Sys2Proof.Machine

/-- R423, R427, R430 to R432, R439, R444, R449, R451: what is written to the settings of power and clocks takes effect where the manual
accepts it: a VCORE target, the cap, the droop and thermal settings, a gate or wake request of a cluster, the source of the control
clock, the debug block's clock. A ramp ends within 5 mV of its target. A hint is in force until it expires. -/
def Obligations.PowerAndClockSettingsAct : Prop :=
  ∀ (s : State) (who : Requester) (die : Die) (v : W32),
    let reach (off : Nat) : Prop := Reaches s who die.val off
    (reach Reg.PWR_VCORE_TARGET → 500 ≤ v.toNat % 1024 → v.toNat % 1024 ≤ 800 → v.toNat % 1024 % 5 = 0 →
      s.m.vcoreTarget die.val ≤ s.m.vcoreApplied die.val →
      Completes (.vcoreTargetWrite who die v) s fun t => SaysOk t ∧ t.m.vcoreTarget die.val = v.toNat % 1024 ∧
        t.m.vcoreApplied die.val = v.toNat % 1024) ∧
    (s.m.off = false → s.m.bit (at_ die.val Reg.PWR_VCORE_STATUS) 20 = true → 500 ≤ s.m.vcoreApplied die.val →
      s.m.vcoreApplied die.val ≤ 800 →
      Completes (.vcoreRampDone die) s fun t => t.m.bit (at_ die.val Reg.PWR_VCORE_STATUS) 20 = false ∧
        s.m.vcoreApplied die.val ≤ Field t die.val Reg.PWR_VCORE_STATUS 0 10 + 5 ∧
        Field t die.val Reg.PWR_VCORE_STATUS 0 10 ≤ s.m.vcoreApplied die.val + 5) ∧
    (Reaches s who 0 Reg.PWR_CAP → 2500 ≤ v.toNat % 8192 → v.toNat % 8192 ≤ 7200 →
      Completes (.pwrCapWrite who v) s fun t => SaysOk t ∧ t.m.capMw = 1000 * (v.toNat % 8192)) ∧
    (∀ k : BitVec 6, k.toNat < 36 → reach Reg.PWR_GATE_REQ →
      (s.m.clusterBusy (die.val * 36 + k.toNat) = false →
        Completes (.gate who die k) s fun t => SaysOk t ∧ t.m.isGated (die.val * 36 + k.toNat) = true) ∧
      (s.m.isGated (die.val * 36 + k.toNat) = true →
        Completes (.wakeCluster who die k) s fun t => SaysOk t ∧ t.m.isGated (die.val * 36 + k.toNat) = false ∧
          (t.m.cluster (die.val * 36 + k.toNat)).idle = s.m.now die.val)) ∧
    (∀ mv k ns, reach Reg.PWR_DROOP_CFG → 10 ≤ mv → mv ≤ 100 → 1 ≤ k → k ≤ 64 → 100 ≤ ns → ns ≤ 10000 →
      Completes (.droopCfgWrite who die (BitVec.ofNat 32 (mv + 256 * k + 65536 * ns))) s fun t => SaysOk t ∧
        Field t die.val Reg.PWR_DROOP_CFG 0 8 = mv ∧ Field t die.val Reg.PWR_DROOP_CFG 8 7 = k ∧
        Field t die.val Reg.PWR_DROOP_CFG 16 14 = ns) ∧
    (reach Reg.PWR_THERM_CFG → 80 ≤ v.toNat % 256 → v.toNat % 256 ≤ 100 →
      Completes (.thermCfgWrite who die v) s fun t => SaysOk t ∧ Field t die.val Reg.PWR_THERM_CFG 0 8 = v.toNat % 256) ∧
    (reach Reg.CLK_CTRL_SRC → (v.getLsbD 0 = true → s.m.loopALocked die.val = true) →
      Completes (.clkCtrlSrcWrite who die v) s fun t => SaysOk t ∧ t.m.bit (at_ die.val Reg.CLK_CTRL_SRC) 0 = v.getLsbD 0) ∧
    (reach Reg.CLK_EN → (v ^^^ s.m.rd (at_ die.val Reg.CLK_EN)) &&& 0xFF = 0 → (die.val ≠ 0 → v &&& 0xE0 = 0) →
      Completes (.clkEnWrite who die v) s fun t => SaysOk t ∧ t.m.bit (at_ die.val Reg.CLK_EN) 8 = v.getLsbD 8) ∧
    (∀ (q : Queue) (m : Mach) (d : List Byte), Heads s q.val 5 m d → descF d 8 1 ≤ 2 → zeroIn d 9 12 = true →
      zeroIn d 16 128 = true →
      Completes (.powerHint q) s fun t => t.m.phase (qPart q.val) = descF d 8 1 ∧ Ended t q.val (m.headJob q.val d) .ok ∧
        (t.m.part (qPart q.val)).hintUntil = if descF d 12 4 = 0 then none else some (m.now 0 + descF d 12 4)) ∧
    (∀ (p : Part) (e : Nat), s.m.off = false → (s.m.part p.val).hintUntil = some e → e < s.m.now 0 →
      Completes (.hintExpiry p) s fun t => t.m.phase p.val = 3 ∧ (t.m.part p.val).hintUntil = none)

/-- R45, R428, R433, R434, R436, R442, R450, R452: the loops and events of power and clocks. The cap loop adds its energy, shows its
measurement and sets k_cap by its rule; a die's period shows its sensors and sets k_thermal; a droop clamps and is released; an
undervoltage or a lost loop A is fatal; a snapshot captures every timer; a rim block's clock is gated when its crossing is empty, now
or once drained, and stays on when it has not drained in time. -/
def Obligations.PowerAndClockEventsAct : Prop :=
  ∀ (s : State) (die : Die), s.m.off = false →
    (∀ (mw : W32) (volt : BitVec 16) (a b c d : Byte), s.m.powerRuns 0 = true → s.m.now 0 % 10000 = 0 → s.m.capAt ≠ s.m.now 0 →
      ∃ t, exec (.capLoop mw volt a b c d) s = .next t ∧ t.pending = s.pending ∧
        t.kept = { s.kept with energy := BitVec.ofNat 64 (min (s.kept.energy.toNat + mw.toNat / 10) (2 ^ 64 - 1)) } ∧
        t.m.capAt = s.m.now 0 ∧ t.m.rd (at_ 0 Reg.PWR_INPUT) = mw ∧ t.m.kCap = capLoopK s.m.capMw mw.toNat s.m.kCap s.m.capHeld) ∧
    (∀ temps : BitVec 104, s.m.powerRuns die.val = true → s.m.now die.val % 10000 = 0 →
      (s.m.dieSt die.val).periodAt ≠ s.m.now die.val →
      Completes (.dieLoopPeriod die temps) s fun t =>
        (∀ i, i < 13 → t.m.rd (at_ die.val Reg.PWR_TEMP + 4 * i) = ((temps >>> (8 * i)).setWidth 8).setWidth 32) ∧
        Field t die.val Reg.PWR_LIMIT 16 7 = kThermal (Field s die.val Reg.PWR_LIMIT 16 7)
          (hottest ((bytesOf temps.toNat 13).map (·.toNat))).1 (Field s die.val Reg.PWR_THERM_CFG 0 8)) ∧
    (∀ cl, s.m.powerRuns die.val = true → (s.m.dieSt die.val).clampUntil = none →
      Completes (.droopTrip die cl) s fun t => t.m.bit (at_ die.val Reg.PWR_LIMIT) 7 = true ∧
        (t.m.dieSt die.val).clampUntil = some (s.m.now die.val + (Field s die.val Reg.PWR_DROOP_CFG 16 14 + 9) / 10)) ∧
    (∀ e, (s.m.dieSt die.val).clampUntil = some e → e < s.m.now die.val →
      Completes (.clampRelease die) s fun t => t.m.bit (at_ die.val Reg.PWR_LIMIT) 7 = false ∧
        (t.m.dieSt die.val).clampUntil = none) ∧
    (s.m.powerRuns die.val = true →
      Completes (.undervoltage die) s fun t => (t.m.dieSt die.val).halted = true ∧ t.m.failedDegraded = true ∧
        t.m.warmDue = true ∧ t.m.bit (at_ die.val Reg.PWR_EVENTS) 0 = true) ∧
    (s.m.loopALocked die.val = true → (s.m.dieSt die.val).up = true →
      Completes (.loopALockLoss die) s fun t => t.m.loopALocked die.val = false ∧ t.m.failedDegraded = true ∧
        t.m.bit (at_ die.val Reg.CLK_CTRL_SRC) 0 = false ∧ t.m.memRuns die.val = false ∧ t.m.linkRuns die.val = false) ∧
    (∀ n : Port, s.m.bit (at_ die.val Reg.CLK_STATUS) (4 + n.val) = true →
      Completes (.loopBLockLoss die n) s fun t => t.m.bit (at_ die.val Reg.CLK_STATUS) (4 + n.val) = false ∧
        t.m.bit (at_ die.val Reg.CLK_STATUS) 9 = true) ∧
    (∀ who, Reaches s who 0 Reg.CLK_SNAP_CTRL → s.m.bit (at_ 0 Reg.CLK_SNAP_CTRL) 1 = false →
      Completes (.timerSnapshot who 1) s fun t => SaysOk t ∧
        ∀ d, d < 16 → t.m.rd64 (at_ 0 (Reg.CLK_SNAP_VAL + 8 * d)) = s.m.capture d) ∧
    (∀ ch : Chan, s.m.chanState die.val ch.val ≠ cFAILED → s.m.chanState die.val ch.val ≠ cSHUT →
      let mine (g : GateReq) : Bool := g.die == die.val && g.blk == .channel ch
      (s.m.crossingBusy die (.channel ch) = false →
        (Completes (.rimClockGateRequest die (.channel ch)) s fun t => SaysOk t ∧ t.m.chanState die.val ch.val = cOFF) ∧
        (s.m.gates.any mine = true → Completes (.crossingDrained die (.channel ch)) s fun t =>
          SaysOk t ∧ t.m.chanState die.val ch.val = cOFF ∧ t.m.gates.any mine = false)) ∧
      (∀ g, s.m.crossingBusy die (.channel ch) = true → s.m.gates.find? mine = some g →
        expired (s.m.now die.val) g.since 1000 = true →
        Completes (.rimClockGateTimeout die (.channel ch)) s fun t =>
          t.m.reply = some ⟨.busyOwned, 0⟩ ∧ t.m.gates.any mine = false ∧ t.m.regs = s.m.regs))

/-- R447, R453, R460 to R463, R471, R473, R521: a power-on reset puts every register at its reset value; a fall of PWR_GOOD stops the
module; start-up goes from stage to stage, and records what fails. -/
def Obligations.StartUpGoesStageByStage : Prop :=
  (∀ (s : State) (strap : Byte) (clr low : Bool),
    ∃ t, exec (.powerOnReset strap clr low) s = .next t ∧ t.pending = s.pending ∧ t.m.off = false ∧
      (∀ a, t.m.rd a = resetWord a) ∧ t.m.stage = 1 ∧ t.m.mem = [] ∧ t.m.cores = [] ∧ t.m.groups = [] ∧ t.m.queues = [] ∧
      t.kept.sealed = false ∧ t.kept.winBase = 0 ∧ t.kept.strap = strap &&& 0x1F ∧
      t.kept.creds = (if clr then [] else s.kept.creds) ∧ t.kept.bankA = s.kept.bankA ∧ t.kept.bankB = s.kept.bankB) ∧
  (∀ s : State, ∃ t, exec .pwrGoodFall s = .next t ∧ t.pending = s.pending ∧ t.m.off = true) ∧
  (∀ s : State, s.m.off = false →
    (s.m.stage = 1 → Completes .strapDelayExpiry s fun t => t.m.stage = 2 ∧ t.m.strapDone = true) ∧
    (∀ (die : Die) (a b : Nat), s.m.stage = 2 → s.m.strapDone = true → s.m.bit (at_ 0 Reg.BOOT_STATE) 5 = false →
      s.m.loopALocked die.val = false →
      (crystalOk a 25000 = true → crystalOk b 156250 = true →
        Completes (.crystalCheck die a b true) s fun t => t.m.loopALocked die.val = true ∧
          t.m.stage = if (List.range 16).all (fun d => d == die.val || s.m.loopALocked d) then 3 else 2) ∧
      (crystalOk a 25000 = false → Completes (.crystalCheck die a b true) s fun t => t.m.loopALocked die.val = false ∧
        t.m.bit (at_ 0 Reg.BOOT_STATE) 5 = true ∧ Field t 0 Reg.BOOT_STATE 8 8 = 1 ∧ Field t 0 Reg.BOOT_STATE 16 4 = die.val)) ∧
    (∀ b h, s.m.stage = 3 → s.m.bootStopped = false → s.kept.select.tryBanks false s.kept.select.bank = some (b, h) →
      ∃ t, exec .stewardBoot s = .next t ∧ t.pending = s.pending ∧ t.kept = s.kept.select ∧ t.m.stage = 4 ∧ t.m.runBank = b ∧
        t.m.rd64 (at_ 0 Reg.SEC_FW_RUN) = BitVec.ofNat 64 (partOf h 8 8)) ∧
    (∀ (die : Die) b h, s.m.stage = 4 → s.m.bootStopped = false → (s.m.dieSt die.val).up = false →
      (∀ e, e < die.val → (s.m.dieSt e).joined = true) → s.kept.tryBanks true s.m.runBank = some (b, h) →
      Completes (.dieJoin die) s fun t => (t.m.dieSt die.val).up = true ∧ t.m.bit (at_ die.val Reg.CLK_DOMAIN_STATUS) 2 = true) ∧
    (s.m.boundPassed = true → s.m.bit (at_ 0 Reg.BOOT_STATE) 5 = false →
      (s.m.stage = 4 → Completes .stageBoundExpiry s fun t => Field t 0 Reg.BOOT_STATE 8 8 = 5) ∧
      (s.m.stage = 6 → s.m.vlUp = false → Completes .stageBoundExpiry s fun t => Field t 0 Reg.BOOT_STATE 8 8 = 7)) ∧
    (s.m.stage = 6 → s.m.ready = false → s.m.vlUp = true →
      ∃ t, exec .moduleReady s = .next t ∧ t.pending = s.pending ∧ t.kept = { s.kept with trialFails := 0 } ∧ t.m.ready = true))

/-- R434, R453 to R457, R524: a warm reset, by command, by its pin or by the steward, starts again at stage 2 with its cause noted on
every die and the module's work gone. A core reset begins and, once drained or timed out, leaves the core clear. -/
def Obligations.WarmAndCoreResetsAct : Prop :=
  (∀ (s : State) (who : Requester) (c : Instr) (cause : Nat), s.m.off = false →
    (c = .rstCmdWarmReset who ∧ cause = 1 ∧ Reaches s who 0 Reg.RST_CMD ∧ s.m.warming = false ∨
     c = .warmRstN ∧ cause = 3 ∧ 4 ≤ s.m.stage ∧ s.m.warming = false ∨ c = .stewardWarmReset ∧ cause = 4 ∧ s.m.warmDue = true) →
      ∃ t, exec c s = .next t ∧ t.pending = s.pending ∧ t.kept = s.kept.warmed s.m ∧ t.m.stage = 2 ∧
        (∀ d, d < 16 → Field t d Reg.RST_CAUSE 0 3 = cause ∧
          t.m.rd (at_ d Reg.RST_WARM_CNT) = s.m.rd (at_ d Reg.RST_WARM_CNT) + 1) ∧
        t.m.groups = [] ∧ t.m.launches = [] ∧ t.m.lines = [] ∧ t.m.reqs = [] ∧ t.m.queues = [] ∧ t.m.keys = []) ∧
  (∀ (s : State) (who : Requester) (die : Die) (v : W32),
    let slot := die.val * 2304 + v.toNat % 4096
    Reaches s who die.val Reg.RST_CORE → v.getLsbD 12 = true → v.toNat % 4096 ≤ 2303 → s.m.warming = false →
    s.m.clusterOwner (clusterOfSlot slot) = none → (s.m.dieSt die.val).coreReset = none → (s.m.core slot).launch = none →
      Completes (.coreReset who die v) s fun t => SaysOk t ∧ (t.m.dieSt die.val).coreReset = some (slot, s.m.now die.val) ∧
        (t.m.core slot).reset = true ∧ t.m.bit (at_ die.val Reg.RST_CORE) 13 = true) ∧
  (∀ (s : State) (die : Die) (slot since : Nat), s.m.off = false → (s.m.dieSt die.val).coreReset = some (slot, since) →
    (s.m.coreDrained slot = true ∨ expired (s.m.now die.val) since 10000 = true) →
      Completes (.coreResetDrainTimeout die) s fun t => (t.m.dieSt die.val).coreReset = none ∧ t.m.core slot = {} ∧
        t.m.bit (at_ die.val Reg.RST_CORE) 13 = false ∧ Field t die.val Reg.RST_CORE 16 8 = 0)

/-- R458, R459: a standby request with no partition at work, no pinned line and no self-test is taken; entry ends once nothing is left
in the slices, with every channel's clock stopped and every cluster gated; a wake begins the channels' recalibration. -/
def Obligations.StandbyIsEnteredAndLeft : Prop :=
  ∀ s : State,
    (∀ who, Reaches s who 0 Reg.RST_CMD → s.m.warming = false → s.m.pdState = 0 →
      (∀ p, p < 32 → s.m.partState p = pFREE ∨ s.m.partState p = pCONFIG ∨ s.m.partState p = pFROZEN) →
      (∀ x ∈ s.m.lines, x.2.pin = none) → (∀ x ∈ s.m.dies, x.2.bist = none) →
      Completes (.standby who) s fun t => SaysOk t ∧ t.m.pdState = 1 ∧ t.m.standbyFrom = some (s.m.now 0)) ∧
    (s.m.off = false → s.m.pdState = 1 → s.m.standbyDrained = true → s.m.lines = [] → (∀ x ∈ s.m.chans, x.2.sent = [] ∧ x.2.out = []) →
      Completes .standbyComplete s fun t => t.m.pdState = 2 ∧ (∀ cl, cl < 576 → t.m.isGated cl = true) ∧
        ∀ d ch, d < 16 → ch < 64 → t.m.chanState d ch = (if s.m.chanState d ch = cFAILED ∨ s.m.chanState d ch = cSHUT then
          s.m.chanState d ch else cOFF)) ∧
    (∀ who (die : Die) (ch : Chan), Reaches s who 0 Reg.RST_CMD → s.m.warming = false → s.m.pdState = 2 →
      s.m.chanState die.val ch.val = cOFF → s.m.bit (aSlice die.val ch.val Reg.MC_STATE) 8 = false →
      Completes (.wake who) s fun t => SaysOk t ∧ t.m.pdState = 3 ∧ t.m.bit (aSlice die.val ch.val Reg.MC_STATE) 7 = true ∧
        (t.m.chan die.val ch.val).recalWire = s.m.nextWire die.val ch.val 0)

namespace Sys2Proof.Machine

/-! ### Launches and partitions -/

/-- A command of a partition completed: its requester and the `status` of `PART_STATE` both show it (R392). -/
abbrev PartSays (t : State) (p : Nat) (st : Status) : Prop :=
  t.m.reply = some ⟨st, 0⟩ ∧ t.m.fld (aPart p Reg.PART_STATE) 8 8 = st.code.toNat

/-- Registers of a partition's block take writes: no reset, removal or freeze of it runs (R394). -/
abbrev PartOpen (s : State) (p : Nat) : Prop := s.m.resetting p = false ∧ s.m.partState p ≠ pFREEZING

/-- Nothing of a partition runs, waits or is outstanding. -/
abbrev PartIdle (s : State) (p : Nat) : Prop :=
  (∀ x ∈ s.m.launches, qPart x.2.queue ≠ p) ∧ (∀ x ∈ s.m.queues, qPart x.1 ≠ p) ∧ (∀ x ∈ s.m.reqs, x.2.part ≠ p) ∧
  ∀ c ∈ s.m.clusters, ∀ t ∈ c.2.mover, t.part ≠ p

end Sys2Proof.Machine

/-- R54, R55, R399, R400, R496: a launch that is next in its queue and finds a cluster begins on it: it is a running launch with that
descriptor, which holds the cluster and is attached when a debugger is armed for it. A bad descriptor completes with ERR_DECODE and
no launch begins. -/
def Obligations.LaunchesBeginOnTheirClusters : Prop :=
  ∀ (s : State) (q : Queue) (m n : Mach) (d : List Byte) (anchor : Option Nat) (cl : Nat),
    let j := n.headJob q.val d
    let order := ((n.queue q.val).waitLaunch).getD n.nextLaunch
    Heads s q.val 1 m d → m.anchorOf q.val (qPart q.val) (descF d 16 8) = (n, some anchor) →
    n.pickCluster q.val anchor ⟨.wait q.val, n.prio q.val, order⟩ = some cl →
      (launchBad d = false → Completes (.launch q) s fun t =>
        (∃ y, t.m.launch? n.nextLaunch = some y ∧ y.queue = q.val ∧ y.seq = j.seq ∧ y.desc = d ∧ y.stat = .running ∧
          y.began = order ∧ y.attached = n.armed q.val ∧ cl ∈ y.clusters) ∧
        (t.m.cluster cl).launch = some n.nextLaunch ∧ ∃ k ∈ (t.m.queue q.val).jobs, k.seq = j.seq ∧ k.desc = d) ∧
      (launchBad d = true → Completes (.launch q) s fun t => t.m.launches = n.launches ∧
        ∃ k ∈ (t.m.queue q.val).ended, k.seq = j.seq ∧ k.status = .errDecode)

/-- R388 to R394, R397, R402, R528: the owner tables and the registers of a partition's block take what is written where the manual
accepts it, and the buckets are refilled at their time. -/
def Obligations.PartitionRegistersAct : Prop :=
  (∀ (s : State) (who : Requester) (cl : Cluster) (v : W32), Reaches s who 0 (Reg.PART_CLUSTER_OWNER + 4 * cl.val) →
    (∀ p, s.m.clusterOwner cl.val = some p ∨ ownerOf v = some p → s.m.partState p = pCONFIG) → s.m.clusterBusy cl.val = false →
    (∀ p, ownerOf v = some p → ∀ x ∈ s.m.launches, qPart x.2.queue ≠ p) →
      Completes (.clusterOwnerWrite who cl v) s fun t => SaysOk t ∧ t.m.clusterOwner cl.val = ownerOf v ∧
        ∀ k : Cluster, k ≠ cl → t.m.clusterOwner k.val = s.m.clusterOwner k.val) ∧
  (∀ (s : State) (who : Requester) (g : Fin 3072) (v : W32), Reaches s who 0 (Reg.PART_GRANULE_OWNER + 4 * g.val) →
    (∀ p, s.m.granuleOwner g.val = some p ∨ ownerOf v = some p → s.m.partState p = pCONFIG) →
      Completes (.granuleOwnerWrite who g v) s fun t => SaysOk t ∧ t.m.granuleOwner g.val = ownerOf v ∧
        ∀ k : Fin 3072, k ≠ g → t.m.granuleOwner k.val = s.m.granuleOwner k.val) ∧
  (∀ (s : State) (who : Requester) (p : Part) (v : W32),
    let at' (off : Nat) := aPart p.val off
    (Reaches s who 0 (at' Reg.PART_CFG) → s.m.partState p.val = pCONFIG → v.toNat % 256 ≠ 0 → v.toNat / 512 % 4 ≠ 3 →
      Completes (.partCfgWrite who p v) s fun t => SaysOk t ∧ t.m.fld (at' Reg.PART_CFG) 0 13 = v.toNat % 8192) ∧
    (Reaches s who 0 (at' Reg.PART_RATE) → PartOpen s p.val →
      Completes (.partRateWrite who p v) s fun t => SaysOk t ∧ t.m.rd (at' Reg.PART_RATE) = v ∧
        t.m.rd (at' Reg.PART_TOKENS) = v >>> 16) ∧
    (Reaches s who 0 (at' Reg.PART_TLB_INV) → PartOpen s p.val → v.getLsbD 0 = true →
      Completes (.partTlbInv who p v) s fun t => SaysOk t ∧ ∀ cl, cl < 576 →
        (t.m.cluster cl).tlb = if s.m.clusterOwner cl = some p.val then [] else (s.m.cluster cl).tlb) ∧
    (∀ a : W64, Reaches s who 0 (at' Reg.PART_NOTIFY_ADDR) → PartOpen s p.val → noticeAddr a = true →
      Completes (.partNotifyAddrWrite who p (.full a)) s fun t => SaysOk t ∧ t.m.rd64 (at' Reg.PART_NOTIFY_ADDR) = a)) ∧
  (∀ s : State, s.m.off = false → s.m.now 0 % 100000 = 0 → s.m.refillAt ≠ s.m.now 0 →
    Completes .tokenRefill s fun t => t.m.refillAt = s.m.now 0 ∧ ∀ p, p < 32 →
      let old := (s.m.rd (aPart p Reg.PART_TOKENS)).toNat
      let rate := s.m.fld (aPart p Reg.PART_RATE) 0 16
      (t.m.rd (aPart p Reg.PART_TOKENS)).toNat =
        if rate = 0 then old else max old (min (old + rate) (s.m.fld (aPart p Reg.PART_RATE) 16 16)))

/-- R392, R393, R407, R408, R412, R414, R420, R421, R475, Table 14.3: the commands of a partition in the states that take them. CREATE of
a FREE one leaves it CONFIG and its semaphores at 0; ACTIVATE measures it; RESET and REMOVE of an idle one go as far as the wait of
step 4; PREEMPT halts the running launch of a queue; RESUME restores it once its clusters are free; FREEZE begins; THAW of a FROZEN one
returns it to ACTIVE with the timeouts of its queues running on. -/
def Obligations.PartitionCommandsAct : Prop :=
  ∀ (s : State) (who : Requester) (p : Part), Reaches s who 0 (aPart p.val Reg.PART_CMD) →
    let st := s.m.partState p.val
    (st = pFREE → Completes (.partCreate who p) s fun t => PartSays t p.val .ok ∧ t.m.partState p.val = pCONFIG ∧
      t.m.meas.get (pmeasKey p.val) 0 = 0 ∧ ∀ k, k < 64 → t.m.rd (aSemV (64 * p.val + k)) = 0 ∧ t.m.semWait.get (64 * p.val + k) [] = []) ∧
    (st = pCONFIG → (s.m.sable p.val = true → (s.m.key p.val).memKey.isSome = true ∧
        s.m.tablesOwned p.val 5 4 (s.m.rd64 (aPart p.val Reg.PART_PT_ROOT)).toNat = true) →
      s.m.ownClusters p.val ≠ [] → s.m.ownGranules p.val ≠ [] →
      Completes (.partActivate who p) s fun t => PartSays t p.val .ok ∧ t.m.partState p.val = pACTIVE ∧
        t.m.meas.get (pmeasKey p.val) 0 = Config.sha512 (measBytes (s.m.meas.get (pmeasKey p.val) 0) ++
          measBytes (Config.sha512 (s.m.partItems p.val)))) ∧
    (∀ removing : Bool, st = pCONFIG ∨ st = pACTIVE ∨ st = pFREEZING ∨ st = pFROZEN → PartIdle s p.val → s.m.coreResetIn p.val = false →
      Completes (if removing then .partRemove who p else .partReset who p) s fun t => PartSays t p.val .ok ∧
        t.m.partState p.val = (if removing then pREMOVING else pRESETTING) ∧ (t.m.part p.val).resetStep = 3 ∧
        (t.m.part p.val).resetFrom = s.m.now 0) ∧
    (∀ (k : Fin 64) (l : Nat) (y : Launch), let q := 64 * p.val + k.val
      st = pACTIVE → s.m.launch? l = some y →
      (s.m.launches.find? (fun x => x.2.queue == q && x.2.stat == .running && !x.2.halted) = some (l, y) → s.m.saveAddr q ≠ 0 →
        s.m.inGranules p.val (s.m.saveAddr q) (saveBytes y.clusters.length) = true → s.m.hasSuspended q = false →
        s.m.debugHalted y = false →
        Completes (.partPreempt who p k) s fun t => PartSays t p.val .ok ∧
          (t.m.launch? l).map (fun y => (y.stat, y.preempts, y.byDriver)) = some (.saving, y.preempts, true) ∧
          ∀ cl ∈ y.clusters, ∀ slot ∈ slotsOfCluster cl, ∀ g < 8, ∀ x, t.m.group? slot g = some x →
            x.stat = .parked ∨ x.stat = .exited ∨ x.stat = .haltFault) ∧
      (∀ cl rest c, s.m.launches.find? (fun x => x.2.queue == q && (x.2.stat == .suspended || x.2.stat == .restoring)) = some (l, y) →
        y.stat = .suspended → y.clusters = cl :: rest → s.m.clusterFree cl = true → c.who = .restore l →
        (s.m.updLaunch l fun y => { y with resumed := true }).bestClaim cl = some c →
        Completes (.partResume who p k) s fun t => PartSays t p.val .ok ∧
          (t.m.launch? l).map (·.stat) = some .restoring ∧ ∀ k ∈ y.clusters, (t.m.cluster k).launch = some l)) ∧
    (st = pACTIVE → s.m.inGranules p.val (s.m.rd64 (aPart p.val Reg.PART_FREEZE_BASE)).toNat 65536 = true →
      s.m.fld (aPart p.val Reg.PART_CFG) 9 2 = 2 → (∀ x ∈ s.m.launches, qPart x.2.queue = p.val → x.2.stat ≠ .running) →
      Completes (.partFreeze who p) s fun t => PartSays t p.val .ok ∧ t.m.partState p.val = pFREEZING ∧
        (t.m.part p.val).freezing = true ∧ t.m.launches = s.m.launches ∧
        ∀ q x, t.m.queues.get? q = some x → qPart q = p.val → x.semFrom = none) ∧
    (st = pFROZEN → (∀ x ∈ s.m.launches, qPart x.2.queue ≠ p.val) → (∀ x ∈ s.m.queues, qPart x.1 = p.val → x.2.waitLaunch = none) →
      Completes (.partThaw who p) s fun t => PartSays t p.val .ok ∧ t.m.partState p.val = pACTIVE ∧
        ∀ q x, s.m.queues.get? q = some x → qPart q = p.val →
          t.m.queues.get? q = some { x with semKept := none, semFrom := x.semKept.map fun v => s.m.now 0 - v })

/-- R408 to R414, R417, R420: work on partitions that goes on by itself. 400,000 ticks after step 3 a reset or removal ends, its keys
zeroised; a launch that the driver pre-empted is saved once it has come to rest, and a restored one runs on where it stood; a freeze
ends once nothing of its partition is left to do. -/
def Obligations.PartitionWorkCompletes : Prop :=
  (∀ (s : State) (p : Part), s.m.off = false → s.m.resetting p.val = true → (s.m.part p.val).resetStep = 3 →
    expired (s.m.now 0) (s.m.part p.val).resetFrom 400000 = true →
    (s.m.sable p.val = true → s.m.writesDue p.val = false ∧ ∀ x ∈ s.m.lines, s.m.lineOf p.val x.1 = false) →
      Completes (.resetStep4Timeout p) s fun t =>
        t.m.partState p.val = (if s.m.partState p.val = pREMOVING then pFREE else pCONFIG) ∧ t.m.key p.val = {} ∧
        t.m.part p.val = {} ∧ t.m.rd64 (aPart p.val Reg.PART_EVENT_TIME) = BitVec.ofNat 64 (s.m.now 0) ∧
        ∀ cl, cl < 576 → t.m.clusterOwner cl =
          if s.m.partState p.val = pREMOVING ∧ s.m.clusterOwner cl = some p.val then none else s.m.clusterOwner cl) ∧
  (∀ (s : State) (l : Nat) (y : Launch), s.m.off = false → s.m.launches = [(l, y)] → y.stat = .saving → y.halted = false →
    y.byDriver = true → y.resumed = false → s.m.restReached y = true →
      Completes (.saveComplete l) s fun t =>
        t.m.launches = [(l, { y with stat := .suspended, saved := y.clusters.map s.m.saveCluster, preempts := y.preempts + 1 })] ∧
        (∀ cl ∈ y.clusters, (t.m.cluster cl).launch = none) ∧ t.m.fld (aSched y.queue Reg.SCHED_QSTATE) 0 3 = 3) ∧
  (∀ (s : State) (l : Nat) (y : Launch) (p : SavedCl), s.m.off = false → s.m.launch? l = some y → y.stat = .restoring →
    y.halted = false → y.saved = [p] → y.clusters = [p.cluster] → p.slots ≠ [] → y.total ≤ y.next → (p.groups.map (·.1)).Nodup →
      Completes (.restoreComplete l) s fun t =>
        (t.m.launch? l).map (fun y => (y.stat, y.saved, y.byDriver)) = some (.running, [], false) ∧
        (t.m.cluster p.cluster).slots.map (fun x => (x.1, x.2.index)) = p.slots.map (fun x => (x.1, x.2.index)) ∧
        ∀ x ∈ p.groups, t.m.groups.get? x.1 = some (if x.2.stat = .parked then { x.2 with stat := x.2.back } else x.2)) ∧
  (∀ (s : State) (p : Part), s.m.off = false → s.m.partState p.val = pFREEZING → PartIdle s p.val → s.m.writesDue p.val = false →
    (∀ x ∈ s.m.lines, s.m.lineOf p.val x.1 = false) →
      Completes (.freezeComplete p) s fun t => t.m.partState p.val = pFROZEN ∧ (t.m.part p.val).freezing = false)

namespace Sys2Proof.Machine

/-! ### Security -/

/-- A Slate request of a type, with a body, that has arrived whole and, where it needs a role, is accepted (R489, R490). -/
abbrev Heard (s : State) (h : SlateHdr) (typ : Nat) (body : List Byte) (role : Option Nat) : Prop :=
  s.m.slateUp = true ∧ (∀ r, role = some r → s.kept.accepts h typ body r = true) ∧ (s.m.collect h).2 = true

/-- What outlives a warm reset once a credential's request is accepted: its number is the highest (R490). -/
def Kept.heard (k : Kept) (h : SlateHdr) : Kept := { k with lastSeq := k.lastSeq.put h.cred.toNat h.seq }

/-- A Slate request of a type answers a next state; its reply, signed datagrams with a status and a body, is the last message sent,
and k is what outlives a warm reset then. -/
abbrev Replies (c : Instr) (s : State) (h : SlateHdr) (typ : Nat) (st : Status) (body : List Byte) (k : Kept) (P : State → Prop) : Prop :=
  ∃ t, exec c s = .next t ∧ t.pending = s.pending ∧ t.kept = k ∧
    t.m.outbox.getLast? = some (.slateReply (slateMessage typ h.seq st.code body)) ∧ P t

end Sys2Proof.Machine

/-- R476, R469, R490, Table 17.9: the reads of the Slate network. ATTEST answers the quote of the module, or of a partition that
exists and is not being reset, with its signature under the identity key; IDENTITY answers the certificate and the dies'
identities; TELEMETRY, of a credential with role 0, the state, the energy, the input power, the coolant and the temperatures.
They change no register. R338, R349, R453, R481, R489, R492: what a credential that manages the fabric or resets the module
does. ROUTE_LOAD stages its table; DEAD_CLEAR clears a device's bit and lowers the count; RX_UPDATE writes entries of the
receive table; SET_ADDR keeps two addresses; WARM_RESET starts the module again with cause 2. A request turned away changes
nothing but its counter. -/
def Obligations.SlateRequestsReadAndManage : Prop :=
  (∀ (s : State) (h : SlateHdr),
     (∀ (part : Option Part) (nonce : BitVec 256), Heard s h 0x01 (attestBody (part.map (·.val)) nonce) none →
       (∀ p, part = some p → s.m.resetting p.val = false ∧ s.m.partState p.val ≠ pFREE) →
       let q := s.quote (part.map (·.val)) nonce
       Replies (.attest h part nonce) s h 0x01 .ok (q ++ bytesOf (Config.ed25519Sign idSeed q).toNat 64) s.kept fun t =>
         t.m.regs = s.m.regs) ∧
     (Heard s h 0x02 [] none →
       Replies (.identity h) s h 0x02 .ok (bytesOf Config.certificate.toNat 128 ++ s.m.identities) s.kept fun t => t.m.regs = s.m.regs) ∧
     (Heard s h 0x10 [] (some 0) →
       let w (die off : Nat) : List Byte := bytesOf (s.m.rd (at_ die off)).toNat 4
       Replies (.telemetry h) s h 0x10 .ok (w 0 Reg.BOOT_STATE ++ w 0 Reg.FAB_MODULE_STATE ++ bytesOf s.kept.energy.toNat 8 ++
         w 0 Reg.PWR_INPUT ++ w 0 Reg.PWR_COOLANT ++ (List.range 16).flatMap fun d => w d Reg.PWR_TEMP_MAX) (s.kept.heard h) fun t =>
         t.m.regs = s.m.regs)) ∧
  (∀ (s : State) (h : SlateHdr),
     (∀ (dev : DevNo) (members groups : List (BitVec 31)), Heard s h 0x12 (routeBody dev.toNat members groups) (some 1) → s.m.bit (at_ 0 Reg.FAB_ROUTE_STATUS) 1 = false →
       Replies (.routeLoad h dev members groups) s h 0x12 .ok [] (s.kept.heard h) fun t => t.m.stagedDev = dev.toNat ∧
         t.m.bit (at_ 0 Reg.FAB_ROUTE_STATUS) 1 = true ∧ ∀ k, k < 1280 →
           t.m.route.get k 0 = ((if k < 256 then members.getD k 0 else groups.getD (k - 256) 0) : BitVec 31).setWidth 32) ∧
     (∀ dev : DevNo, Heard s h 0x13 (bytesOf dev.toNat 4) (some 1) →
       let a := at_ 0 (Reg.FAB_DEAD_MAP + 4 * (dev.toNat / 32))
       let c := at_ 0 Reg.FAB_DEAD_COUNT
       Replies (.deadClear h dev) s h 0x13 .ok [] (s.kept.heard h) fun t => t.m.bit a (dev.toNat % 32) = false ∧
         (∀ i, i < 32 → i ≠ dev.toNat % 32 → t.m.bit a i = s.m.bit a i) ∧
         t.m.fld c 0 19 = s.m.fld c 0 19 - if s.m.bit a (dev.toNat % 32) = true then 1 else 0) ∧
     (∀ es : List (Fin 64 × RxEntry), Heard s h 0x14 (rxBody es) (some 1) → (es.map (·.1)).Nodup →
       Replies (.rxUpdate h es) s h 0x14 .ok [] (s.kept.heard h) fun t => ∀ x ∈ es,
         let a := at_ 0 (Reg.SEC_RX + 8 * x.1.val)
         t.m.fld a 0 5 = x.2.kslot.toNat ∧ t.m.bit a 5 = x.2.valid ∧ t.m.fld a 6 5 = x.2.partition.toNat ∧
           t.m.fld (a + 4) 0 16 = x.2.epoch.toNat) ∧
     (∀ a b : BitVec 128, Heard s h 0x15 (addrBody a b) (some 1) →
       Replies (.setAddr h a b) s h 0x15 .ok [] { s.kept.heard h with moduleAddr := a, managerAddr := b } fun t => t.m.regs = s.m.regs) ∧
     (Heard s h 0x20 [] (some 2) → s.m.warming = false →
       Replies (.warmReset h) s h 0x20 .ok [] ((s.kept.heard h).warmed s.m) fun t => t.m.stage = 2 ∧
         (∀ d, d < 16 → Field t d Reg.RST_CAUSE 0 3 = 2) ∧ t.m.groups = [] ∧ t.m.launches = [] ∧ t.m.queues = []) ∧
     (s.m.slateUp = true → s.kept.accepts h 0x20 [] 2 = false →
       exec (.warmReset h) s = .next (s.but (s.m.count64 (at_ 0 Reg.SEC_SLATE_REJECT_CNT) 1))))

/-- R472, R482 to R485, R487, R490, R492: firmware, keys and credentials. FW_STAGE collects a set for the bank that does not run, and keeps an
accepted one as staged; FW_ACTIVATE selects it on trial; FW_CONFIRM ends the trial and may raise the fused minimum. KEY_LOAD loads the
memory key or a fabric key of a partition, EPOCH_RETIRE ends the epoch before, CRED_SET sets or removes a credential. -/
def Obligations.SlateRequestsLoadFirmwareAndKeys : Prop :=
  ∀ (s : State) (h : SlateHdr),
    let k := s.kept.heard h
    (∀ chunk last, Heard s h 0x30 (fwBody chunk last) (some 3) → s.m.update ≠ 3 → (s.m.update = 1 → s.m.stageCred = h.cred.toNat) →
      let set := (if s.m.update = 1 then s.m.staged else []) ++ chunk
      let bank (set : List Byte) : Kept := if s.m.runBank then { k with bankA := set } else { k with bankB := set }
      (last = false → Replies (.fwStage h chunk last) s h 0x30 .ok [] (bank []) fun t => t.m.update = 1 ∧ t.m.staged = set ∧
        t.m.stageCred = h.cred.toNat) ∧
      (last = true → setOk s.kept.svnMin set = true →
        Replies (.fwStage h chunk last) s h 0x30 .ok [] (bank set) fun t => t.m.update = 2) ∧
      (last = true → setOk s.kept.svnMin set = false →
        Replies (.fwStage h chunk last) s h 0x30 .errSecurity [] (bank []) fun t => t.m.update = 0)) ∧
    (Heard s h 0x31 [] (some 3) → s.m.update = 2 →
      Replies (.fwActivate h) s h 0x31 .ok [] { k with bank := !s.m.runBank, trial := true, trialFails := 0 } fun t => t.m.update = 3) ∧
    (Heard s h 0x32 [] (some 3) → s.kept.trial = true → s.kept.bank = s.m.runBank → s.m.ready = true →
      Replies (.fwConfirm h) s h 0x32 .ok []
        { k with trial := false, trialFails := 0, svnMin := max s.kept.svnMin (s.m.rd (at_ 0 Reg.SEC_FW_RUN)).toNat } fun t =>
        t.m.regs = s.m.regs) ∧
    (∀ body key, let p := partOf body 0 1
      let e := partOf body 2 2
      Heard s h 0x40 body (some 4) → unwrapKey body = some key → p < 32 → s.m.sable p = true → s.m.resetting p = false →
      (partOf body 1 1 = 0 → s.m.partState p = pCONFIG → (s.m.key p).memKey = none →
        Replies (.keyLoad h body) s h 0x40 .ok [] k fun t =>
          (t.m.key p).memKey = some (BitVec.ofNat 512 (partOf key 0 64)) ∧ t.m.bit (aSlot p Reg.SEC_KSLOT) 0 = true) ∧
      (partOf body 1 1 = 1 → s.m.partState p = pCONFIG ∨ s.m.partState p = pACTIVE →
        s.m.fabState p = kEMPTY ∨ s.m.fabState p = kLOADED → e ≠ 0 → e ≠ s.m.epoch p →
        Replies (.keyLoad h body) s h 0x40 .ok [] k fun t => (t.m.key p).cur = some (BitVec.ofNat 256 (partOf key 0 32)) ∧
          t.m.epoch p = e ∧
          if s.m.fabState p = kLOADED then
            (t.m.key p).prev = (s.m.key p).cur ∧ t.m.prevEpoch p = s.m.epoch p ∧ t.m.fabState p = kROTATING
          else (t.m.key p).prev = none ∧ t.m.prevEpoch p = 0 ∧ t.m.fabState p = kLOADED)) ∧
    (∀ (p : Part) (e : BitVec 16), Heard s h 0x41 (epochBody p.val e) (some 4) → s.m.fabState p.val = kROTATING → e.toNat = s.m.prevEpoch p.val →
      Replies (.epochRetire h p e) s h 0x41 .ok [] k fun t => (t.m.key p.val).prev = none ∧ t.m.prevEpoch p.val = 0 ∧
        t.m.fabState p.val = kLOADED ∧ (e ≠ 0 → (p.val, e.toNat) ∈ t.m.retired)) ∧
    (∀ (i : Fin 8) key roles,
      let creds : Tab Cred := if key = 0 then s.kept.creds.del i.val else s.kept.creds.put i.val { key := key, roles := roles }
      Heard s h 0x50 (credBody i.val key roles) (some 5) → (∃ c ∈ creds, c.2.roles.getLsbD 5 = true) →
      Replies (.credSet h i key roles) s h 0x50 .ok [] { k with creds := creds, lastSeq := k.lastSeq.del i.val } fun t =>
        t.m.regs = s.m.regs)

/-- R474, R477, R482, R489, R493, Table 17.11: SEAL seals; MEAS_EXTEND extends one of the measurements 4 to 7; a fabric slot's epoch takes what
is written for a partition outside Sable mode; a request in pieces for too long is dropped; ENROLL of an empty table sets the first
credential with every role; the sideband reads answer without changing anything. -/
def Obligations.SecurityRegistersAndSidebandAct : Prop :=
  ∀ s : State, s.m.off = false →
    (∀ (who : Requester) (v : W32), Reaches s who 0 Reg.SEC_SEAL →
      ∃ t, exec (.seal who v) s = .next t ∧ t.pending = s.pending ∧ SaysOk t ∧ t.m.regs = s.m.regs ∧
        t.kept = if v.getLsbD 0 = true then { s.kept with sealed := true } else s.kept) ∧
    (∀ (who : Requester) (v : W32), let i := v.toNat % 8
      Reaches s who 0 Reg.SEC_MEAS_EXTEND → v.getLsbD 3 = true → 4 ≤ i → s.m.update ≠ 1 → s.m.update ≠ 3 →
      Completes (.measExtend who v) s fun t => SaysOk t ∧ t.m.fld (at_ 0 Reg.SEC_MEAS_EXTEND) 8 8 = 0 ∧ ∀ j,
        t.m.meas.get j 0 = if j = i then Config.sha512 (measBytes (s.m.meas.get i 0) ++ s.m.measData) else s.m.meas.get j 0) ∧
    (∀ (who : Requester) (p : Part) (v : W32), Reaches s who 0 (Reg.SEC_KSLOT_4 + 0x10 * p.val) → s.m.sable p.val = false →
      s.m.partState p.val = pCONFIG ∨ s.m.partState p.val = pACTIVE →
      Completes (.secKslotEpochWrite who p v) s fun t => SaysOk t ∧ t.m.epoch p.val = v.toNat % 65536) ∧
    (∀ seq : W64, exec (.slateChunkTimeout seq) s = .next (s.but
      { s.m with slate := s.m.slate.filter fun x => !(x.seq == seq && expired (s.m.now 0) x.since 10000000) })) ∧
    (∀ key : BitVec 256, s.kept.creds = [] →
      exec (.enroll key) s = .next
        ⟨s.pending, { s.kept with creds := [(0, { key := key, roles := 0x3F })], lastSeq := [] }, s.m.answer .ok⟩) ∧
    exec .readBootState s = .next (s.but (s.m.answer .ok ((s.m.rd (at_ 0 Reg.BOOT_STATE)).setWidth 64))) ∧
    exec .readModuleIdentifier s = .next (s.but (s.m.answer .ok moduleId)) ∧
    (∃ x, exec .readHighestDieTemperature s = .next (s.but (s.m.answer .ok (BitVec.ofNat 64 x))) ∧
      (∀ d, d < 16 → Field s d Reg.PWR_TEMP_MAX 0 8 ≤ x) ∧ ∃ d, d < 16 ∧ x = Field s d Reg.PWR_TEMP_MAX 0 8) ∧
    exec .readStandbyState s = .next (s.but (s.m.answer .ok ((s.m.rd (at_ 0 Reg.PD_STATE)).setWidth 64)))

namespace Sys2Proof.Machine

/-! ### Debug, self-tests and logs -/

/-- The group x that `DBG_CORE` of a die selects is of an attached launch outside Sable mode, is not set aside by a pre-emption, has not
been stopped by R80, and shows one of the given states (R496, R497). -/
abbrev Selected (s : State) (die : Nat) (states : List Nat) (x : Group) : Prop :=
  Reaches s .driver die Reg.DBG_CMD ∧ s.m.dbgBar .driver (s.m.dbgSlot die) = none ∧
  s.m.group? (s.m.dbgSlot die) (s.m.dbgGroup die) = some x ∧ x.stat ≠ .parked ∧ x.stat ≠ .haltFault ∧
  s.m.groupState (s.m.dbgSlot die) (s.m.dbgGroup die) ∈ states

/-- A debug request completed OK, as its requester and `DBG_CMD` show, and y is the selected group then. -/
abbrev DebugLeaves (s t : State) (die : Nat) (y : Group) : Prop :=
  SaysOk t ∧ t.m.fld (at_ die Reg.DBG_CMD) 8 8 = 0 ∧ t.m.group? (s.m.dbgSlot die) (s.m.dbgGroup die) = some y

end Sys2Proof.Machine

/-- R74, R495 to R499, Table 18.6: attachments and debug requests. `arm` is kept; `now` attaches the running launch that began first;
`detach` ends the attachment. HALT stops a running group, STEP lets a halted one issue an instruction, RESUME lets it run on, READ and
WRITE move its registers and pc through the data window, and END halts its launch. -/
def Obligations.DebugRequestsAct : Prop :=
  (∀ (s : State) (p : Part) (v : W32), Reaches s .driver 0 (Reg.DBG_ATTACH + 8 * p.val) → s.m.sable p.val = false →
    let a := aAttach p.val
    Completes (.dbgAttachArm .driver p v) s (fun t => SaysOk t ∧ t.m.fld a 0 7 = 64 + v.toNat % 64 ∧ t.m.launches = s.m.launches) ∧
    (∀ l, s.m.bit a 9 = false → s.m.firstRunning (64 * p.val + v.toNat % 64) = some l →
      Completes (.dbgAttachNow .driver p v) s fun t => SaysOk t ∧ t.m.bit a 9 = true ∧
        (t.m.launch? l).map (·.attached) = some true) ∧
    Completes (.dbgDetach .driver p v) s (fun t => SaysOk t ∧ t.m.bit a 9 = false ∧
      ∀ x ∈ t.m.launches, qPart x.2.queue = p.val → x.2.attached = false)) ∧
  (∀ (s : State) (die : Die) (x : Group),
    let d := die.val
    let i := s.m.fld (at_ d Reg.DBG_SEL) 3 6
    let file := s.m.fld (at_ d Reg.DBG_SEL) 0 3
    let window := s.m.rd64 (at_ d Reg.DBG_DATA)
    (Selected s d [1] x → Completes (.dbgHalt .driver die) s fun t => ∃ y, DebugLeaves s t d y ∧ y.stat = .haltDebug ∧ y.back = x.cur ∧
      y.reason = 1 ∧ y.pc = x.pc ∧ y.s = x.s ∧ y.v = x.v ∧ y.p = x.p ∧ y.resv = none) ∧
    (Selected s d [3, 5] x → Completes (.dbgStep .driver die) s fun t =>
      DebugLeaves s t d { x with stat := x.back, back := .ready, stepping := true }) ∧
    (Selected s d [3, 5] x → Completes (.dbgResume .driver die) s fun t =>
      DebugLeaves s t d { x with stat := x.back, back := .ready, stepping := false }) ∧
    (Selected s d [4] x → Completes (.dbgResume .driver die) s fun t => DebugLeaves s t d { x with stepping := false }) ∧
    (Selected s d [3, 5] x →
      (file = 0 → i < 32 → Completes (.dbgRead .driver die) s fun t => DebugLeaves s t d x ∧
        t.m.rd64 (at_ d Reg.DBG_DATA) = x.rs i) ∧
      (file = 1 → Completes (.dbgRead .driver die) s fun t => DebugLeaves s t d x ∧
        ∀ l, l < 32 → t.m.rd (at_ d Reg.DBG_DATA + 4 * l) = vget (x.rv i) l) ∧
      (file = 2 → i < 16 → Completes (.dbgRead .driver die) s fun t => DebugLeaves s t d x ∧ t.m.rd (at_ d Reg.DBG_DATA) = x.rp i) ∧
      (file = 3 → Completes (.dbgRead .driver die) s fun t => DebugLeaves s t d x ∧ t.m.rd64 (at_ d Reg.DBG_DATA) = x.pc) ∧
      (file = 0 → i < 32 → Completes (.dbgWrite .driver die) s fun t =>
        DebugLeaves s t d (if i = 0 then x else { x with s := x.s.put i window })) ∧
      (file = 3 → window.toNat % 8 = 0 → Completes (.dbgWrite .driver die) s fun t => ∃ y, DebugLeaves s t d y ∧ y.pc = window ∧
        y.stat = x.stat ∧ y.s = x.s ∧ y.v = x.v ∧ y.p = x.p) ∧
      (file = 3 → window.toNat % 8 ≠ 0 → Completes (.dbgWrite .driver die) s fun t => t.m.reply = some ⟨.errDecode, 0⟩ ∧
        t.m.groups = s.m.groups)) ∧
    (∀ l y, Reaches s .driver d Reg.DBG_CMD → s.m.dbgBar .driver (s.m.dbgSlot d) = none → (s.m.core (s.m.dbgSlot d)).launch = some l →
      s.m.launch? l = some y → y.stat = .running → y.aborted = none → (∀ cl ∈ y.clusters, (s.m.cluster cl).slots ≠ []) →
      Completes (.dbgEnd .driver die) s fun t => SaysOk t ∧
        (t.m.launch? l).map (fun y => (y.halted, y.aborted)) = some (true, none) ∧
        ∀ cl ∈ y.clusters, ∀ slot ∈ slotsOfCluster cl, ∀ g < 8, ∀ x, t.m.group? slot g = some x →
          x.stat = .exited ∨ x.stat = .haltFault))

/-- R501 to R503: a self-test of an unowned idle cluster begins, waking it, and its end shows the cores that failed, which are
fatal; a slice test holds its slice in Amber mode until it ends. R84, R505, R507, R509, Table 18.5: a counter's configuration
clears it; a cleared core-fault bit clears its core's record; CONSUMED moves up to WRITTEN, and a die whose records are all
consumed is no longer pending; fatal entries are freed; the interrupt address takes 0 or an address of the companion window; a
pause that ends with records due writes the interrupt once more. -/
def Obligations.SelfTestsCountersAndLogsAct : Prop :=
  (∀ (s : State) (who : Requester) (die : Die) (v : W32),
     let d := die.val
     let k := v.toNat % 64
     (Reaches s who d Reg.DBG_BIST → k < 36 → s.m.clusterOwner (36 * d + k) = none → s.m.clusterBusy (36 * d + k) = false →
       (s.m.dieSt d).bist = none →
       Completes (.selfTest who die v) s fun t => SaysOk t ∧ (t.m.dieSt d).bist = some k ∧ t.m.isGated (36 * d + k) = false ∧
         Field t d Reg.DBG_BIST 0 6 = k ∧ Field t d Reg.DBG_BIST 7 1 = 1 ∧ Field t d Reg.DBG_BIST 8 8 = 0) ∧
     (∀ (i : Nat) (failed : W64), s.m.off = false → (s.m.dieSt d).bist = some i → i < 36 → s.m.stage ≠ 5 →
       Completes (.selfTestEnd die failed) s fun t => (t.m.dieSt d).bist = none ∧ t.m.rd64 (at_ d Reg.DBG_BIST_RESULT) = failed ∧
         Field t d Reg.DBG_BIST 7 1 = 0 ∧ t.m.failedDegraded = (s.m.failedDegraded || failed != 0)) ∧
     (Reaches s who d Reg.DBG_SLICE_TEST → s.m.bit (aSlice d k Reg.SLICE_STATUS) 3 = false → (s.m.dieSt d).sliceTest = none →
       Completes (.sliceTest who die v) s fun t => SaysOk t ∧ (t.m.dieSt d).sliceTest = some (k, (s.m.amberBase d).getLsbD k) ∧
         t.m.bit64 (at_ d Reg.HOME_AMBER_REQ) k = true ∧ Field t d Reg.DBG_SLICE_TEST 7 1 = 1) ∧
     (∀ (i : Nat) (was failed : Bool), s.m.off = false → (s.m.dieSt d).sliceTest = some (i, was) → i < 64 →
       Completes (.sliceTestEnd die failed) s fun t => (t.m.dieSt d).sliceTest = none ∧ (t.m.amberBase d).getLsbD i = was ∧
         ((s.m.dieSt d).sweep = none → t.m.bit64 (at_ d Reg.HOME_AMBER_REQ) i = was) ∧
         Field t d Reg.DBG_SLICE_TEST 7 1 = 0 ∧ t.m.bit (at_ d Reg.DBG_SLICE_TEST) 8 = failed ∧
         t.m.failedDegraded = (s.m.failedDegraded || failed))) ∧
  (∀ (s : State) (who : Requester) (die : Die) (v : W32),
     let d := die.val
     (∀ k : Fin 16, Reaches s who d (Reg.DBG_CNT_CFG + 0x10 * k.val) → v.toNat % 256 ≤ 0x0B → v.toNat / 256 % 4 ≠ 3 →
       Completes (.dbgCntCfgWrite who die k v) s fun t => SaysOk t ∧ Field t d (Reg.DBG_CNT_CFG + 0x10 * k.val) 0 29 = v.toNat % 2 ^ 29 ∧
         t.m.rd64 (at_ d (Reg.DBG_CNT_VAL + 0x10 * k.val)) = 0) ∧
     (∀ (cl : Cluster) (x : W64), Reaches s who (cl.val / 36) (Reg.CSUP_CORE_FAULT + cl.val % 36 * 0x10000) →
       let a := aCsup cl.val Reg.CSUP_CORE_FAULT
       Completes (.csupCoreFaultClear who cl (.full x)) s fun t => SaysOk t ∧ t.m.rd64 a = s.m.rd64 a &&& ~~~x ∧
         ∀ i w, i < 64 → w < 8 → let r := aCsup cl.val Reg.CSUP_REC_0 + 0x20 * i + 4 * w
           t.m.rd r = if x.getLsbD i = true ∧ s.m.bit64 a i = true then 0 else s.m.rd r) ∧
     (Reaches s who d Reg.DM_FLT_CONSUMED →
       let w := s.m.rd (at_ d Reg.DM_FLT_WRITTEN)
       (w - v).toNat ≤ (w - s.m.rd (at_ d Reg.DM_FLT_CONSUMED)).toNat →
       Completes (.dmFltConsumedWrite who die v) s fun t => SaysOk t ∧ t.m.rd (at_ d Reg.DM_FLT_CONSUMED) = v ∧
         t.m.bit (at_ 0 Reg.DM_PENDING) d = (s.m.bit (at_ 0 Reg.DM_PENDING) d && v != w)) ∧
     (Reaches s who d Reg.DM_FLT_STATUS → v.getLsbD 21 = true →
       Completes (.fatalClear who die v) s fun t => SaysOk t ∧ Field t d Reg.DM_FLT_STATUS 16 5 = 0 ∧
         Field t d Reg.DM_FLT_STATUS 0 16 = Field s d Reg.DM_FLT_STATUS 0 16) ∧
     (∀ a : W64, Reaches s who 0 Reg.DM_IRQ_ADDR → noticeAddr a = true →
       Completes (.dmIrqAddrWrite who (.full a)) s fun t => SaysOk t ∧ t.m.rd64 (at_ 0 Reg.DM_IRQ_ADDR) = a) ∧
     (∀ (taken : Bool) (from_ : Nat), s.m.off = false → s.m.irqPause = some from_ → expired (s.m.now 0) from_ 10000 = true →
       let a := s.m.rd64 (at_ 0 Reg.DM_IRQ_ADDR)
       Completes (.dmIrqPauseExpiry taken) s fun t => t.m.irqDue = false ∧
         (s.m.irqDue = false ∨ a = 0 → t.m.irqPause = none ∧ t.m.outbox = s.m.outbox) ∧
         (s.m.irqDue = true ∧ a ≠ 0 → t.m.irqPause = some (s.m.now 0) ∧
           t.m.outbox = s.m.outbox ++ [.writeCmp a.toNat (bytesOf (s.m.rd (at_ 0 Reg.DM_IRQ_DATA)).toNat 4)])))

/-! ### Control space, and rules of the whole module -/

/-- R8 to R11, R86: an access of control space whose size or place is wrong completes with ERR_DECODE; a 4-byte write has the effect of
its register's own command; a write of a register that only holds its value leaves that value, and an 8-byte write both halves. A 4-byte
read answers the word; a read of a low half latches the high half, which the next read of it answers whatever the register holds by then.
An 8-byte read of a 64-bit register answers both halves at one instant and ends the latch; of two words, both, or the status that turns one
of them away. The fields of a fault record that R86 hides read as zero in Sable mode. -/
def Obligations.ControlSpaceIsReadAndWritten : Prop :=
  ∀ (s : State) (who : Requester) (die : Die) (v : W32) (x : W64),
    let off := Reg.HOME_AMBER_REQ
    (∀ o size, s.m.off = false → s.m.canReach who = true → ¬(who = .driver ∧ s.m.cmpWriteDue = true) →
      (size ≠ 4 ∧ size ≠ 8) ∨ o % size ≠ 0 →
      exec (.controlWrite who die o size x) s = .next (s.but (s.m.answer .errDecode))) ∧
    (∀ c o, (c, o) ∈ [(Instr.clkEnWrite who die v, Reg.CLK_EN), (.vcoreTargetWrite who die v, Reg.PWR_VCORE_TARGET),
        (.thermCfgWrite who die v, Reg.PWR_THERM_CFG), (.homeInterleaveWrite who die v, Reg.HOME_INTERLEAVE),
        (.dmFltConsumedWrite who die v, Reg.DM_FLT_CONSUMED), (.ceTableClear who die v, Reg.MEM_CE_STATUS),
        (.coreReset who die v, Reg.RST_CORE)] →
      exec (.controlWrite who die o 4 (v.setWidth 64)) s = exec c s) ∧
    (Reaches s who 0 Reg.DM_IRQ_DATA →
      Completes (.controlWrite who 0 Reg.DM_IRQ_DATA 4 x) s fun t => SaysOk t ∧ t.m.rd (at_ 0 Reg.DM_IRQ_DATA) = x.setWidth 32) ∧
    (Reaches s who die.val off → (s.m.dieSt die.val).sweep = none → (s.m.dieSt die.val).sliceTest = none →
      Completes (.controlWrite who die off 8 x) s fun t => SaysOk t ∧ t.m.rd64 (at_ die.val off) = x) ∧
    (∀ o, s.m.off = false → s.m.canReach who = true →
      (∀ size, (size ≠ 4 ∧ size ≠ 8) ∨ o % size ≠ 0 →
        exec (.lowHalfRead who die ⟨o, size⟩) s = .next (s.but (s.m.answer .errDecode))) ∧
      (∀ st, o % 4 = 0 → s.m.readLook die.val o = .inr st →
        exec (.lowHalfRead who die ⟨o, 4⟩) s = .next (s.but (s.m.answer st))) ∧
      (∀ h, s.m.readLook die.val o = .inl h →
        (h.row.wide = false → exec (.lowHalfRead who die ⟨o, 4⟩) s =
          .next (s.but (s.m.answer .ok ((s.readWord die.val o h).setWidth 64)))) ∧
        (h.row.wide = true → h.high = false → Completes (.lowHalfRead who die ⟨o, 4⟩) s fun t =>
          t.m.reply = some ⟨.ok, (s.readWord die.val o h).setWidth 64⟩ ∧ t.m.regs = s.m.regs ∧
            t.m.latches.get? (latchKey who die.val o) = some (s.readWord die.val (o + 4) { h with high := true })) ∧
        (∀ w, h.row.wide = true → h.high = true → s.m.latches.get? (latchKey who die.val (o - 4)) = some w →
          Completes (.lowHalfRead who die ⟨o, 4⟩) s fun t => t.m.reply = some ⟨.ok, w.setWidth 64⟩ ∧ t.m.regs = s.m.regs ∧
            t.m.latches.get? (latchKey who die.val (o - 4)) = none) ∧
        (recHidden h = true → s.m.sableCluster (36 * die.val + h.i 0) = true → h.high = false →
          Completes (.lowHalfRead who die ⟨o, 4⟩) s fun t => t.m.reply = some ⟨.ok, 0⟩) ∧
        (∀ k, o % 8 = 0 → s.m.readLook die.val (o + 4) = .inl k →
          (h.row.wide = true → h.high = false → Completes (.lowHalfRead who die ⟨o, 8⟩) s fun t =>
            t.m.reply = some ⟨.ok, joined (s.readWord die.val o h) (s.readWord die.val (o + 4) k)⟩ ∧ t.m.regs = s.m.regs ∧
              t.m.latches.get? (latchKey who die.val o) = none) ∧
          (h.row.wide = false → k.row.wide = false → exec (.lowHalfRead who die ⟨o, 8⟩) s =
            .next (s.but (s.m.answer .ok (joined (s.readWord die.val o h) (s.readWord die.val (o + 4) k)))))) ∧
        (∀ st, o % 8 = 0 → s.m.readLook die.val (o + 4) = .inr st →
          exec (.lowHalfRead who die ⟨o, 8⟩) s = .next (s.but (s.m.answer st)))))

/-- R521: while PWR_GOOD is low no command has an effect but a power-on reset, and a further fall. -/
def Obligations.NothingActsWithoutPower : Prop :=
  ∀ (s : State) (c : Instr), s.m.off = true → c ≠ .pwrGoodFall → (∀ strap a b, c ≠ .powerOnReset strap a b) →
    exec c s = .next s

/-- R12, R442, R477, R490, R493: for every command but a power-on reset and a fall of PWR_GOOD, the seal once set stays, and with it the
window base, the one sealed field; the energy counter does not fall; and the credentials change only by CRED_SET and by ENROLL. A write
of the sealed register changes nothing and completes with ERR_SECURITY. -/
def Obligations.SealEnergyAndCredentialsHold : Prop :=
  (∀ (s t : State) (c : Instr), exec c s = .next t → c ≠ .pwrGoodFall → (∀ strap a b, c ≠ .powerOnReset strap a b) →
    (s.kept.sealed = true → t.kept.sealed = true ∧ t.kept.winBase = s.kept.winBase) ∧
    s.kept.energy.toNat ≤ t.kept.energy.toNat ∧ t.kept.strap = s.kept.strap ∧
    ((∀ h i key roles, c ≠ .credSet h i key roles) → (∀ key, c ≠ .enroll key) → t.kept.creds = s.kept.creds)) ∧
  (∀ (s : State) (who : Requester) (o size : Nat) (x : W64),
    (o, size) ∈ [(Reg.VL_WIN_BASE, 8), (Reg.VL_WIN_BASE, 4), (Reg.VL_WIN_BASE + 4, 4)] → Reaches s who 0 o →
    s.kept.sealed = true →
      ∃ t, exec (.controlWrite who 0 o size x) s = .next t ∧
        t = s.but { s.m with latches := t.m.latches, reply := some ⟨.errSecurity, 0⟩ })

namespace Sys2Proof.Machine

/-- The bits of `VL_WIN_BASE` that hold the base of the companion window (Table 13.8). -/
def winBaseBits : W64 := 0xFFFFFC0000000000

/-- What holds of the state that outlives a warm reset: the strap word has five bits, the window base lies within its field, and when
there are credentials one of them administers (R386, R447, R492). -/
abbrev Kept.Sound (k : Kept) : Prop :=
  k.strap.toNat < 32 ∧ k.winBase &&& ~~~winBaseBits = 0 ∧ (k.creds = [] ∨ ∃ c ∈ k.creds, c.2.roles.getLsbD 5 = true)

end Sys2Proof.Machine

/-- R386, R447, R492: every step keeps the strap word in its five bits, the window base in its field, and a credential that administers among
the credentials. -/
def Obligations.EveryStepKeepsTheKeptStateSound : Prop :=
  ∀ s t : State, s.kept.Sound → step s = .next t → t.kept.Sound

/-- The state that outlives a warm reset is sound at reset. -/
def Obligations.ResetIsSound : Prop := State.reset.kept.Sound ∧ State.reset.pending = [] ∧ Memory.wf State.reset.m.mem = true

/-- With no command waiting a step is one tick (the model's choice: log 1): the timer of every die whose rim timer runs advances by one;
the upsets of stored bits that fall into it (the model's choice: log 106) touch the arrays and memory and nothing else, and without one
only the steps for which the limiter holds the cores' matrix instructions pass. Groups, requests, queues and what outlives a warm reset
stay as they are. -/
def Obligations.AnEmptyQueueTicks : Prop :=
  ∀ s : State, s.pending = [] → ∃ t, step s = .next t ∧ t.pending = [] ∧ t.kept = s.kept ∧
    (∀ d, d < 16 → t.m.now d = if s.m.bit (at_ d Reg.CLK_DOMAIN_STATUS) 2 = true then (s.m.now d + 1) % 2 ^ 64 else s.m.now d) ∧
    t.m = { s.m with regs := t.m.regs, cores := t.m.cores, lines := t.m.lines, tints := t.m.tints, mem := t.m.mem,
                     syn := t.m.syn, fresh := s.m.fresh + 1 } ∧
    (Config.upsets s.m.fresh = [] → t.m.lines = s.m.lines ∧ t.m.tints = s.m.tints ∧ t.m.mem = s.m.mem ∧ t.m.syn = s.m.syn ∧
      t.m.cores = s.m.cores.mapV fun c => { c with hold := c.hold - 1 })

namespace Sys2Proof.Machine

/-! ### Frames of the control blocks -/

/-- Commands of the control blocks, the fabric's control, the coherence messages that only the tints and the network see, and the
management network: none of them reaches stacked memory, a core or a group. -/
def sparesTheArray : Instr → Bool
  | .homeInterleaveWrite .. | .undervoltage .. | .rimClockGateRequest .. | .crossingDrained .. | .rimClockGateTimeout ..
  | .tintRead .. | .leaseExpiry .. | .sliceCtrlWrite .. | .tintChangeDone .. | .slicePinQuotaWrite .. | .sliceCntClear ..
  | .inv .. | .fwdrd .. | .snprd .. | .putack .. | .retry .. | .credit .. | .grante .. | .dataf .. | .datas .. | .datae ..
  | .datapsn .. | .homeAmberReqWrite .. | .amberTransitionDone .. | .homeCntClear .. | .probeLogClear .. | .training ..
  | .recalNow .. | .recalIntervalExpiry .. | .recalWire .. | .refresh .. | .offlineReq .. | .onlineReq .. | .ictRun ..
  | .go .. | .stop .. | .rawRead .. | .rawWrite .. | .mcCntClear .. | .ceTableClear .. | .dieLinkTrained ..
  | .dieLinkFault .. | .failedDegraded .. | .identityFrame .. | .laneMarginLow .. | .transitTimeout ..
  | .fabDeadMapWrite .. | .quiesced .. | .lrRoleWrite .. | .luCreditResWrite .. | .epCntClear .. | .vilpinTrained ..
  | .vilpinLoss | .doorbell .. | .qCqHeadWrite .. | .qCfgWrite .. | .qIrqAddrWrite .. | .acquireTimeout ..
  | .granuleOwnerWrite .. | .partCfgWrite .. | .partRateWrite .. | .tokenRefill | .partTlbInv .. | .partNotifyAddrWrite ..
  | .vcoreTargetWrite .. | .pwrCapWrite .. | .capLoop .. | .hintExpiry .. | .droopTrip .. | .clampRelease ..
  | .droopCfgWrite .. | .thermCfgWrite .. | .clkCtrlSrcWrite .. | .loopALockLoss .. | .loopBLockLoss .. | .clkEnWrite ..
  | .timerSnapshot .. | .standby .. | .wake .. | .strapDelayExpiry | .crystalCheck .. | .stewardBoot | .dieJoin ..
  | .stageBoundExpiry | .moduleReady | .attest .. | .identity .. | .telemetry .. | .routeLoad .. | .deadClear ..
  | .rxUpdate .. | .setAddr .. | .fwStage .. | .fwActivate .. | .fwConfirm .. | .keyLoad .. | .epochRetire .. | .credSet ..
  | .slateChunkTimeout .. | .readBootState | .readModuleIdentifier | .readHighestDieTemperature | .readStandbyState
  | .enroll .. | .seal .. | .measExtend .. | .secKslotEpochWrite .. | .dbgAttachArm .. | .dbgAttachNow .. | .dbgDetach ..
  | .selfTestEnd .. | .sliceTest .. | .sliceTestEnd .. | .dbgCntCfgWrite .. | .csupCoreFaultClear ..
  | .dmFltConsumedWrite .. | .fatalClear .. | .dmIrqAddrWrite .. | .dmIrqPauseExpiry .. | .vcoreRampDone .. => true
  | _ => false

/-- Consecutive words. -/
def wordsAt (a n : Nat) : List Nat := (List.range n).map fun k => a + 4 * k

/-- The commands that write one register or clear a table, with the words that each may change (the register tables up to
18.6). -/
abbrev RegisterRow (who : Requester) (die : Die) (ch : Chan) (p : Part) (q : Queue) (v : W32) (x : W64) (row : Instr × List Nat) :
    Prop :=
  let d := die.val
  row ∈ ([(.slicePinQuotaWrite who die ch p v, [aSlice d ch.val Reg.SLICE_PIN_QUOTA + 8 * p.val]),
   (.sliceCntClear who die ch v, wordsAt (aSlice d ch.val Reg.SLICE_HIT_CNT) 22),
   (.homeAmberReqWrite who die (.full x), wordsAt (at_ d Reg.HOME_AMBER_REQ) 2),
   (.homeCntClear who die v, wordsAt (at_ d Reg.HOME_FWD_CNT) 14 ++ wordsAt (at_ d Reg.TINT_FWD_SERVED_CNT) 10),
   (.probeLogClear who die v, at_ d Reg.HOME_LOG_STATUS :: wordsAt (at_ d Reg.HOME_PROBE_LOG) 64),
   (.mcCntClear who die ch v, wordsAt (aSlice d ch.val Reg.MC_CORR_CNT) 10),
   (.ceTableClear who die v, at_ d Reg.MEM_CE_STATUS :: wordsAt (at_ d Reg.MEM_CE_ENTRY) 128),
   (.qCqHeadWrite q v, [aQ q.val Reg.Q_CQ_HEAD]), (.qIrqAddrWrite q (.full x), wordsAt (aQ q.val Reg.Q_IRQ_ADDR) 2),
   (.granuleOwnerWrite who (Fin.ofNat 3072 v.toNat) v, [Reg.PART_GRANULE_OWNER + 4 * (v.toNat % 3072)]),
   (.partCfgWrite who p v, [aPart p.val Reg.PART_CFG]),
   (.partRateWrite who p v, [aPart p.val Reg.PART_RATE, aPart p.val Reg.PART_TOKENS]),
   (.partNotifyAddrWrite who p (.full x), wordsAt (aPart p.val Reg.PART_NOTIFY_ADDR) 2),
   (.pwrCapWrite who v, [at_ 0 Reg.PWR_CAP]), (.thermCfgWrite who die v, [at_ d Reg.PWR_THERM_CFG]),
   (.droopCfgWrite who die v, [at_ d Reg.PWR_DROOP_CFG, at_ d Reg.PWR_LIMIT]),
   (.clkCtrlSrcWrite who die v, [at_ d Reg.CLK_CTRL_SRC]), (.clkEnWrite who die v, [at_ d Reg.CLK_EN]),
   (.timerSnapshot who v, at_ 0 Reg.CLK_SNAP_CTRL :: wordsAt (at_ 0 Reg.CLK_SNAP_VAL) 32),
   (.secKslotEpochWrite who p v, [at_ 0 (Reg.SEC_KSLOT_4 + 0x10 * p.val)]),
   (.dbgCntCfgWrite who die (Fin.ofNat 16 v.toNat) v, at_ d (Reg.DBG_CNT_CFG + 0x10 * (v.toNat % 16)) ::
     wordsAt (at_ d (Reg.DBG_CNT_VAL + 0x10 * (v.toNat % 16))) 2),
   (.dmFltConsumedWrite who die v, [at_ d Reg.DM_FLT_CONSUMED, at_ 0 Reg.DM_PENDING]),
   (.fatalClear who die v, [at_ d Reg.DM_FLT_STATUS]), (.dmIrqAddrWrite who (.full x), wordsAt (at_ 0 Reg.DM_IRQ_ADDR) 2)] : List (Instr × List Nat))

end Sys2Proof.Machine

/-- R8, R10: a command that writes one register changes its words, the requester's latch and its answer, and nothing else: whether it is
taken or turned away, every other word of control space, memory, the array and all the rest stay as they were, but that a write of
`HOME_AMBER_REQ` during a slice test or the exclusion sweep is also what the bits return to at its end. -/
def Obligations.RegisterWritesChangeOnlyTheirRegister : Prop :=
  ∀ (s t : State) (who : Requester) (die : Die) (ch : Chan) (p : Part) (q : Queue) (v : W32) (x : W64),
    ∀ row, RegisterRow who die ch p q v x row → exec row.1 s = .next t →
      t = s.but { s.m with regs := t.m.regs, latches := t.m.latches, reply := t.m.reply, dies := t.m.dies } ∧
      (row.1 ≠ .homeAmberReqWrite who die (.full x) ∨ (s.m.dieSt die.val).sweep = none ∧ (s.m.dieSt die.val).sliceTest = none →
        t.m.dies = s.m.dies) ∧
      ∀ a, a ∉ row.2 → t.m.rd a = s.m.rd a

/-- Commands of the control blocks and the management network change no byte of stacked memory, no check bits, no core and no group
(Tables 9.7 to 18.6; R489). The end of an interconnect test overwrites lines of its own channel alone, and no core and no group (R318). -/
def Obligations.ControlCommandsSpareTheArray : Prop :=
  (∀ (s t : State) (c : Instr), sparesTheArray c = true → exec c s = .next t →
    t.m.mem = s.m.mem ∧ t.m.syn = s.m.syn ∧ t.m.cores = s.m.cores ∧ t.m.groups = s.m.groups) ∧
  ∀ (s t : State) (die : Die) (ch : Chan) (failed : List (Fin 328)), exec (.ictDone die ch failed) s = .next t →
    t.m.cores = s.m.cores ∧ t.m.groups = s.m.groups ∧
    ∀ line, (∀ k, k < chanLines → line ≠ lineAt s.m.interleave die.val ch.val k) →
      ∀ w, w < 16 → t.m.memWord line w = s.m.memWord line w ∧ t.m.memSyn line w = s.m.memSyn line w
end

