-- ==== Sys2Proof/Laws/Ecc.lean ====
section
/-! SUPPORT. The columns of the word code have the properties of R304 and R305, whatever the module's own are. -/
namespace Sys2Proof.Config

/-! ### Parity: every syndrome of one bit of the sample has odd weight -/

/-- The parity of a syndrome. -/
def odd (x : BitVec 16) : Bool := (List.range 16).foldl (fun p k => p ^^ x.getLsbD k) false

theorem foldl_xor (f g : Nat → Bool) : ∀ (l : List Nat) (p q : Bool),
    l.foldl (fun a k => a ^^ (f k ^^ g k)) (p ^^ q) = (l.foldl (fun a k => a ^^ f k) p ^^ l.foldl (fun a k => a ^^ g k) q)
  | [], _, _ => rfl
  | k :: t, p, q => by
    rw [List.foldl_cons, List.foldl_cons, List.foldl_cons, ← foldl_xor f g t]
    congr 1
    cases p <;> cases q <;> cases f k <;> cases g k <;> rfl

theorem odd_xor (x y : BitVec 16) : odd (x ^^^ y) = (odd x ^^ odd y) := by
  simp only [odd, BitVec.getLsbD_xor]
  exact foldl_xor x.getLsbD y.getLsbD _ false false

theorem odd_zero : odd 0 = false := by decide
theorem odd_poison : odd poisonP = false := by decide

/-- Two syndromes of different parity differ. -/
theorem ne_of_odd {x y : BitVec 16} (h : odd x ≠ odd y) : x ≠ y := fun e => h (e ▸ rfl)

theorem sample_odd : ∀ i < 80, odd (oneBit sampleCol i) = true := by decide +kernel

/-! ### The sums of two syndromes differ -/

/-- No number of a list stands twice, and none is among those marked in a bitmap. -/
def allNew : List Nat → Nat → Bool
  | [], _ => true
  | x :: t, b => !b.testBit x && allNew t (b ||| 2 ^ x)

theorem allNew_nodup : ∀ (l : List Nat) (b : Nat), allNew l b = true → l.Nodup ∧ ∀ x ∈ l, b.testBit x = false
  | [], _, _ => ⟨List.nodup_nil, by simp⟩
  | x :: t, b, h => by
    simp only [allNew, Bool.and_eq_true, Bool.not_eq_true'] at h
    obtain ⟨hn, ht⟩ := allNew_nodup t _ h.2
    simp only [Nat.testBit_or, Bool.or_eq_false_iff] at ht
    refine ⟨List.nodup_cons.2 ⟨fun hx => ?_, hn⟩, ?_⟩
    · simpa [Nat.testBit_two_pow_self] using (ht x hx).2
    · intro y hy
      rcases List.mem_cons.1 hy with rfl | hy
      · exact h.1
      · exact (ht y hy).1

/-- The pairs of bits of a word. -/
def bitPairs : List (Nat × Nat) := (List.range 80).flatMap fun i => (List.range i).map fun j => (i, j)

theorem mem_bitPairs {i j : Nat} (hi : i < 80) (hj : j < i) : (i, j) ∈ bitPairs :=
  List.mem_flatMap.2 ⟨i, List.mem_range.2 hi, List.mem_map.2 ⟨j, List.mem_range.2 hj, rfl⟩⟩

/-- The syndrome of an error in two bits, as a number. -/
def pairSyn (p : Nat × Nat) : Nat := (oneBit sampleCol p.1 ^^^ oneBit sampleCol p.2).toNat

theorem sample_pairs : allNew (bitPairs.map pairSyn) 0 = true := by decide +kernel

theorem sample_pair_inj {i j k l : Nat} (hi : i < 80) (hj : j < i) (hk : k < 80) (hl : l < k)
    (h : oneBit sampleCol i ^^^ oneBit sampleCol j = oneBit sampleCol k ^^^ oneBit sampleCol l) : i = k ∧ j = l := by
  have e := List.inj_on_of_nodup_map (allNew_nodup _ _ sample_pairs).1 (mem_bitPairs hi hj) (mem_bitPairs hk hl)
    (by simpa [pairSyn] using congrArg BitVec.toNat h)
  exact ⟨congrArg Prod.fst e, congrArg Prod.snd e⟩

theorem sample_ne : ∀ i < 80, ∀ j < i, oneBit sampleCol i ≠ oneBit sampleCol j := by decide +kernel

theorem sample_poison : ∀ i < 80, ∀ j < 80, poisonP ≠ oneBit sampleCol i ^^^ oneBit sampleCol j := by decide +kernel

theorem sample_ne' {i j : Nat} (hi : i < 80) (hj : j < 80) (h : i ≠ j) : oneBit sampleCol i ≠ oneBit sampleCol j := by
  rcases Nat.lt_or_gt_of_ne h with h | h
  · exact (sample_ne j hj i h).symm
  · exact sample_ne i hi j h

/-- The sum of two syndromes is that of two others only in order. -/
theorem sample_pair_inj' {i j k l : Nat} (hi : i < 80) (hj : j < i) (hk : k < 80) (hl : l < 80) (hkl : k ≠ l)
    (h : oneBit sampleCol i ^^^ oneBit sampleCol j = oneBit sampleCol k ^^^ oneBit sampleCol l) :
    i = k ∨ i = l := by
  rcases Nat.lt_or_gt_of_ne hkl with c | c
  · exact .inr (sample_pair_inj hi hj hl c (by rw [h, BitVec.xor_comm])).1
  · exact .inl (sample_pair_inj hi hj hk c h).1

/-- The syndrome of three bits is none of one bit. -/
theorem sample_triple {i j k l : Nat} (hi : i < 80) (hj : j < i) (hk : k < j) (hl : l < 80) :
    oneBit sampleCol i ^^^ oneBit sampleCol j ^^^ oneBit sampleCol k ≠ oneBit sampleCol l := by
  intro h
  have cancel (a b c d : BitVec 16) (e : a ^^^ b ^^^ c = d) : a ^^^ b = c ^^^ d := by
    rw [← e, BitVec.xor_comm (a ^^^ b) c, ← BitVec.xor_assoc, BitVec.xor_self, BitVec.zero_xor]
  have h1 := cancel _ _ _ _ h
  have hj' : j < 80 := by omega
  have hk' : k < 80 := by omega
  by_cases hkl : k = l
  · subst hkl
    rw [BitVec.xor_self] at h1
    exact sample_ne i hi j hj (by
      have := congrArg (· ^^^ oneBit sampleCol j) h1
      simpa [BitVec.xor_assoc] using this)
  · rcases sample_pair_inj' hi hj hk' hl hkl h1 with e | e
    · omega
    · subst e
      have := congrArg (oneBit sampleCol i ^^^ ·) h1
      simp only [← BitVec.xor_assoc, BitVec.xor_self, BitVec.zero_xor] at this
      rw [BitVec.xor_comm (oneBit sampleCol i), BitVec.xor_assoc, BitVec.xor_self, BitVec.xor_zero] at this
      exact sample_ne j hj' k hk this

/-! ### The properties -/

theorem sample_corrects : corrects sampleCol = true := by
  simp only [corrects, List.all_eq_true, List.mem_range, Bool.and_eq_true, bne_iff_ne, ne_eq, Bool.or_eq_true, beq_iff_eq]
  refine fun i hi => ⟨ne_of_odd (by rw [sample_odd i hi, odd_zero]; decide), fun j hj => ⟨sample_ne i hi j hj, fun k hk =>
    ⟨ne_of_odd (by rw [odd_xor, sample_odd i hi, sample_odd j (by omega), sample_odd k hk]; decide), fun l hl => ?_⟩⟩⟩
  by_cases h : oneBit sampleCol i ^^^ oneBit sampleCol j = oneBit sampleCol k ^^^ oneBit sampleCol l
  · exact .inr (sample_pair_inj hi hj hk hl h)
  · exact .inl h

theorem sample_detects : detects sampleCol = true := by
  simp only [detects, List.all_eq_true, List.mem_range, Bool.and_eq_true, bne_iff_ne, ne_eq]
  intro i hi j hj k hk
  have o : odd (oneBit sampleCol i ^^^ oneBit sampleCol j ^^^ oneBit sampleCol k) = true := by
    rw [odd_xor, odd_xor, sample_odd i hi, sample_odd j (by omega), sample_odd k (by omega)]; rfl
  refine ⟨ne_of_odd (by rw [o, odd_zero]; decide), fun l hl => ⟨sample_triple hi hj hk hl, fun n hn => ne_of_odd ?_⟩⟩
  rw [o, odd_xor, sample_odd l hl, sample_odd n (by omega)]; decide

theorem sample_poisonApart : poisonApart sampleCol = true := by
  simp only [poisonApart, List.all_eq_true, List.mem_range, Bool.and_eq_true, bne_iff_ne, ne_eq]
  refine ⟨⟨by decide, fun l hl => ⟨ne_of_odd (by rw [odd_poison, sample_odd l hl]; decide), fun n hn =>
    sample_poison l hl n (by omega)⟩⟩, fun k hk => ⟨?_, fun l hl => ⟨?_, fun n hn => ne_of_odd ?_⟩⟩⟩
  · exact ne_of_odd (by rw [odd_xor, odd_poison, sample_odd k hk, odd_zero]; decide)
  · intro h
    refine sample_poison l hl k hk ?_
    rw [← h, BitVec.xor_assoc, BitVec.xor_self, BitVec.xor_zero]
  · rw [odd_xor, odd_poison, sample_odd k hk, odd_xor, sample_odd l hl, sample_odd n (by omega)]; decide

/-- R304, R305: the columns that the module is modelled with have the properties, whatever its own are. -/
theorem goodColumns_eccCol : goodColumns eccCol = true := by
  by_cases h : goodColumns colChoice = true
  · have e : eccCol = colChoice := funext fun i => by rw [eccCol, if_pos h]
    rw [e]; exact h
  · have e : eccCol = sampleCol := funext fun i => by rw [eccCol, if_neg h]
    rw [e, goodColumns, sample_corrects, sample_detects, sample_poisonApart]; rfl

end Sys2Proof.Config
end

