-- ==== Sys2Proof/Laws/Tab.lean ====
section
/-! SUPPORT. What reading a table or a memory gives after a change of it, and that every memory operation keeps the canonical
form. -/
namespace Sys2Proof.Machine

variable {α : Type}

@[simp] theorem Tab.get?_nil (k : Nat) : Tab.get? ([] : Tab α) k = none := rfl

theorem Tab.get?_put (t : Tab α) (i k : Nat) (x : α) :
    Tab.get? (Tab.put t i x) k = if i = k then some x else Tab.get? t k := by
  induction t with
  | nil => simp [Tab.put, Tab.get?]
  | cons h t ih =>
    obtain ⟨a, v⟩ := h
    unfold Tab.put
    split
    · by_cases e : i = k <;> simp [Tab.get?, e]
    · split
      · subst_vars
        by_cases e : a = k <;> simp [Tab.get?, e]
      · by_cases e : a = k
        · subst e
          have : ¬ i = a := by omega
          simp [Tab.get?, this]
        · simp [Tab.get?, e, ih]

@[simp] theorem Tab.get?_put_self (t : Tab α) (i : Nat) (x : α) : Tab.get? (Tab.put t i x) i = some x := by
  simp [Tab.get?_put]

theorem Tab.get?_put_ne (t : Tab α) {i k : Nat} (x : α) (h : i ≠ k) : Tab.get? (Tab.put t i x) k = Tab.get? t k := by
  simp [Tab.get?_put, h]

theorem Tab.get_put (t : Tab α) (i k : Nat) (x d : α) : Tab.get (Tab.put t i x) k d = if i = k then x else Tab.get t k d := by
  unfold Tab.get
  rw [Tab.get?_put]
  split <;> rfl

@[simp] theorem Tab.get_put_self (t : Tab α) (i : Nat) (x d : α) : Tab.get (Tab.put t i x) i d = x := by simp [Tab.get_put]

theorem Tab.get?_upd (t : Tab α) (i k : Nat) (f : α → α) :
    Tab.get? (Tab.upd t i f) k = if i = k then (Tab.get? t k).map f else Tab.get? t k := by
  induction t with
  | nil => simp [Tab.upd, Tab.get?]
  | cons h t ih =>
    obtain ⟨a, v⟩ := h
    unfold Tab.upd
    split
    · subst_vars
      by_cases e : a = k <;> simp [Tab.get?, e]
    · by_cases e : a = k
      · subst e
        have : ¬ i = a := by omega
        simp [Tab.get?, this]
      · simp [Tab.get?, e, ih]

theorem Tab.get?_del (t : Tab α) (i k : Nat) : Tab.get? (Tab.del t i) k = if i = k then none else Tab.get? t k := by
  induction t with
  | nil => simp [Tab.del, Tab.get?]
  | cons h t ih =>
    obtain ⟨a, v⟩ := h
    unfold Tab.del
    split
    · subst_vars
      rw [ih]
      by_cases e : a = k <;> simp [Tab.get?, e]
    · by_cases e : a = k
      · subst e
        have : ¬ i = a := by omega
        simp [Tab.get?, this]
      · simp [Tab.get?, e, ih]

theorem Tab.get?_mapV (t : Tab α) (f : α → α) (k : Nat) : Tab.get? (Tab.mapV t f) k = (Tab.get? t k).map f := by
  induction t with
  | nil => rfl
  | cons h t ih =>
    obtain ⟨a, v⟩ := h
    by_cases e : a = k
    · simp [Tab.mapV, Tab.get?, e]
    · have := ih
      simp only [Tab.mapV] at this
      simp [Tab.mapV, Tab.get?, e, this]

/-! ### Bytes of a memory -/

theorem Cells.wfFrom_mono {c : List Host.Cell} {lo lo' : Nat} (h : lo' ≤ lo) (w : Cells.wfFrom lo c = true) :
    Cells.wfFrom lo' c = true := by
  cases c with
  | nil => rfl
  | cons x t =>
    obtain ⟨a, v⟩ := x
    simp only [Cells.wfFrom, Bool.and_eq_true, decide_eq_true_eq] at w ⊢
    exact ⟨⟨by omega, w.1.2⟩, w.2⟩

/-- An address below every listed one reads as the blank byte. -/
theorem Cells.read_below {c : List Host.Cell} {lo a : Nat} (w : Cells.wfFrom lo c = true) (h : a < lo) :
    Cells.read c a = blankByte := by
  induction c generalizing lo with
  | nil => rfl
  | cons x t ih =>
    obtain ⟨k, v⟩ := x
    simp only [Cells.wfFrom, Bool.and_eq_true, decide_eq_true_eq] at w
    have : ¬ k = a := by omega
    simp [Cells.read, this, ih w.2 (by omega)]

/-- A write of one byte: that byte reads as written, every other as before. -/
theorem Cells.read_write {c : List Host.Cell} {lo : Nat} (w : Cells.wfFrom lo c = true) (i a : Nat) (x : Byte) :
    Cells.read (Cells.write c i x) a = if i = a then x else Cells.read c a := by
  induction c generalizing lo with
  | nil =>
    by_cases e : x = blankByte <;> by_cases f : i = a <;> simp [Cells.write, Cells.read, e, f]
  | cons h t ih =>
    obtain ⟨k, v⟩ := h
    simp only [Cells.wfFrom, Bool.and_eq_true, decide_eq_true_eq] at w
    obtain ⟨⟨hk, hv⟩, ht⟩ := w
    unfold Cells.write
    split
    · split
      · subst_vars
        by_cases f : i = a
        · subst f
          have : ¬ k = i := by omega
          have hb := Cells.read_below (a := i) ht (by omega)
          simp [Cells.read, this, hb]
        · simp [f]
      · by_cases f : i = a <;> simp [Cells.read, f]
    · split
      · subst_vars
        split
        · subst_vars
          by_cases f : k = a
          · subst f
            simp [Cells.read_below ht (Nat.lt_succ_self _)]
          · simp [Cells.read, f]
        · by_cases f : k = a <;> simp [Cells.read, f]
      · by_cases f : k = a
        · subst f
          have : ¬ i = k := by omega
          simp [Cells.read, this]
        · simp [Cells.read, f, ih ht]

/-- A write of one byte keeps the canonical form. -/
theorem Cells.wfFrom_write {c : List Host.Cell} {lo : Nat} (w : Cells.wfFrom lo c = true) {i : Nat} (h : lo ≤ i) (x : Byte) :
    Cells.wfFrom lo (Cells.write c i x) = true := by
  induction c generalizing lo with
  | nil =>
    by_cases e : x = blankByte <;> simp [Cells.write, Cells.wfFrom, e, h]
  | cons y t ih =>
    obtain ⟨k, v⟩ := y
    have w' := w
    simp only [Cells.wfFrom, Bool.and_eq_true, decide_eq_true_eq] at w
    obtain ⟨⟨hk, hv⟩, ht⟩ := w
    unfold Cells.write
    split
    · split
      · exact w'
      · rename_i h1 h2
        simp [Cells.wfFrom, h, h2, hv, ht]
        omega
    · split
      · subst_vars
        split
        · exact Cells.wfFrom_mono (by omega) ht
        · rename_i h2
          simp [Cells.wfFrom, hk, h2, ht]
      · simp [Cells.wfFrom, hk, hv]
        exact ih ht (by omega)

theorem Memory.wf_write {c : List Host.Cell} (w : Memory.wf c = true) (i : Nat) (x : Byte) :
    Memory.wf (Cells.write c i x) = true := Cells.wfFrom_write w (Nat.zero_le i) x

theorem Memory.wf_writeL {c : List Host.Cell} (w : Memory.wf c = true) (a : Nat) (bs : List Byte) :
    Memory.wf (Cells.writeL c a bs) = true := by
  induction bs generalizing c a with
  | nil => exact w
  | cons b bs ih => exact ih (Memory.wf_write w a b) (a + 1)

/-- Cells left out of a memory in canonical form leave it so. -/
theorem Cells.wfFrom_filter {c : List Host.Cell} {lo : Nat} (w : Cells.wfFrom lo c = true) (f : Host.Cell → Bool) :
    Cells.wfFrom lo (c.filter f) = true := by
  induction c generalizing lo with
  | nil => rfl
  | cons x t ih =>
    obtain ⟨k, v⟩ := x
    simp only [Cells.wfFrom, Bool.and_eq_true, decide_eq_true_eq] at w
    by_cases hf : f (k, v) = true
    · rw [List.filter_cons_of_pos hf]
      simp only [Cells.wfFrom, Bool.and_eq_true, decide_eq_true_eq]
      exact ⟨w.1, ih w.2⟩
    · rw [List.filter_cons_of_neg hf]
      exact Cells.wfFrom_mono (by omega) (ih w.2)
theorem Memory.wf_filter {c : List Host.Cell} (w : Memory.wf c = true) (f : Host.Cell → Bool) : Memory.wf (c.filter f) = true :=
  Cells.wfFrom_filter w f

/-- Bytes written upward from an address read as written; every other address reads as before. -/
theorem Cells.read_writeL {c : List Host.Cell} (w : Memory.wf c = true) (a : Nat) (bs : List Byte) (i : Nat) :
    Cells.read (Cells.writeL c a bs) i = if a ≤ i ∧ i < a + bs.length then bs.getD (i - a) 0 else Cells.read c i := by
  induction bs generalizing c a with
  | nil =>
    have : ¬ (a ≤ i ∧ i < a) := by omega
    simp [Cells.writeL, this]
  | cons b bs ih =>
    rw [Cells.writeL, ih (Memory.wf_write w a b), Cells.read_write w]
    by_cases e : a = i
    · subst e
      have h : ¬ (a + 1 ≤ a ∧ a < a + 1 + bs.length) := by omega
      rw [if_neg h]
      simp
    · by_cases h : a + 1 ≤ i ∧ i < a + 1 + bs.length
      · have h2 : a ≤ i ∧ i < a + (b :: bs).length := by simp; omega
        have h3 : i - a = (i - (a + 1)) + 1 := by omega
        rw [if_pos h, if_pos h2, h3]
        rfl
      · have h2 : ¬ (a ≤ i ∧ i < a + (b :: bs).length) := by simp; omega
        rw [if_neg h, if_neg h2, if_neg e]

end Sys2Proof.Machine
end

