-- ==== Sys2Proof/Laws/State.lean ====
section
/-! SUPPORT. What each field of the machine is after each named update of one part: one lemma per field and update, by
definition; and what a word reads as after a write of one. -/
namespace Sys2Proof.Machine

/-! ### `Mach.wr` -/

section
variable (m : Mach) (a : Nat) (x : W32)
@[simp] theorem Mach.wr_off : (m.wr a x).off = m.off := rfl
@[simp] theorem Mach.wr_strapDone : (m.wr a x).strapDone = m.strapDone := rfl
@[simp] theorem Mach.wr_runBank : (m.wr a x).runBank = m.runBank := rfl
@[simp] theorem Mach.wr_warmDue : (m.wr a x).warmDue = m.warmDue := rfl
@[simp] theorem Mach.wr_regs : (m.wr a x).regs = m.regs.put a x := rfl
@[simp] theorem Mach.wr_latches : (m.wr a x).latches = m.latches := rfl
@[simp] theorem Mach.wr_mem : (m.wr a x).mem = m.mem := rfl
@[simp] theorem Mach.wr_syn : (m.wr a x).syn = m.syn := rfl
@[simp] theorem Mach.wr_cores : (m.wr a x).cores = m.cores := rfl
@[simp] theorem Mach.wr_groups : (m.wr a x).groups = m.groups := rfl
@[simp] theorem Mach.wr_clusters : (m.wr a x).clusters = m.clusters := rfl
@[simp] theorem Mach.wr_launches : (m.wr a x).launches = m.launches := rfl
@[simp] theorem Mach.wr_nextLaunch : (m.wr a x).nextLaunch = m.nextLaunch := rfl
@[simp] theorem Mach.wr_reqs : (m.wr a x).reqs = m.reqs := rfl
@[simp] theorem Mach.wr_nextReq : (m.wr a x).nextReq = m.nextReq := rfl
@[simp] theorem Mach.wr_slices : (m.wr a x).slices = m.slices := rfl
@[simp] theorem Mach.wr_lines : (m.wr a x).lines = m.lines := rfl
@[simp] theorem Mach.wr_tints : (m.wr a x).tints = m.tints := rfl
@[simp] theorem Mach.wr_chans : (m.wr a x).chans = m.chans := rfl
@[simp] theorem Mach.wr_net : (m.wr a x).net = m.net := rfl
@[simp] theorem Mach.wr_ports : (m.wr a x).ports = m.ports := rfl
@[simp] theorem Mach.wr_dlinks : (m.wr a x).dlinks = m.dlinks := rfl
@[simp] theorem Mach.wr_neighGen : (m.wr a x).neighGen = m.neighGen := rfl
@[simp] theorem Mach.wr_transit : (m.wr a x).transit = m.transit := rfl
@[simp] theorem Mach.wr_deadNew : (m.wr a x).deadNew = m.deadNew := rfl
@[simp] theorem Mach.wr_route : (m.wr a x).route = m.route := rfl
@[simp] theorem Mach.wr_rerouted : (m.wr a x).rerouted = m.rerouted := rfl
@[simp] theorem Mach.wr_stagedDev : (m.wr a x).stagedDev = m.stagedDev := rfl
@[simp] theorem Mach.wr_queues : (m.wr a x).queues = m.queues := rfl
@[simp] theorem Mach.wr_queueDrr : (m.wr a x).queueDrr = m.queueDrr := rfl
@[simp] theorem Mach.wr_admitted : (m.wr a x).admitted = m.admitted := rfl
@[simp] theorem Mach.wr_semWait : (m.wr a x).semWait = m.semWait := rfl
@[simp] theorem Mach.wr_ranges : (m.wr a x).ranges = m.ranges := rfl
@[simp] theorem Mach.wr_parts : (m.wr a x).parts = m.parts := rfl
@[simp] theorem Mach.wr_dies : (m.wr a x).dies = m.dies := rfl
@[simp] theorem Mach.wr_gates : (m.wr a x).gates = m.gates := rfl
@[simp] theorem Mach.wr_keys : (m.wr a x).keys = m.keys := rfl
@[simp] theorem Mach.wr_slate : (m.wr a x).slate = m.slate := rfl
@[simp] theorem Mach.wr_retired : (m.wr a x).retired = m.retired := rfl
@[simp] theorem Mach.wr_meas : (m.wr a x).meas = m.meas := rfl
@[simp] theorem Mach.wr_staged : (m.wr a x).staged = m.staged := rfl
@[simp] theorem Mach.wr_stageCred : (m.wr a x).stageCred = m.stageCred := rfl
@[simp] theorem Mach.wr_irqPause : (m.wr a x).irqPause = m.irqPause := rfl
@[simp] theorem Mach.wr_irqDue : (m.wr a x).irqDue = m.irqDue := rfl
@[simp] theorem Mach.wr_capHeld : (m.wr a x).capHeld = m.capHeld := rfl
@[simp] theorem Mach.wr_capAt : (m.wr a x).capAt = m.capAt := rfl
@[simp] theorem Mach.wr_refillAt : (m.wr a x).refillAt = m.refillAt := rfl
@[simp] theorem Mach.wr_noticeSeq : (m.wr a x).noticeSeq = m.noticeSeq := rfl
@[simp] theorem Mach.wr_capLow : (m.wr a x).capLow = m.capLow := rfl
@[simp] theorem Mach.wr_capUnder : (m.wr a x).capUnder = m.capUnder := rfl
@[simp] theorem Mach.wr_stageFrom : (m.wr a x).stageFrom = m.stageFrom := rfl
@[simp] theorem Mach.wr_standbyFrom : (m.wr a x).standbyFrom = m.standbyFrom := rfl
@[simp] theorem Mach.wr_lineStamp : (m.wr a x).lineStamp = m.lineStamp := rfl
@[simp] theorem Mach.wr_fresh : (m.wr a x).fresh = m.fresh := rfl
@[simp] theorem Mach.wr_reply : (m.wr a x).reply = m.reply := rfl
@[simp] theorem Mach.wr_outbox : (m.wr a x).outbox = m.outbox := rfl
end

/-! ### `Mach.setCore` -/

section
variable (m : Mach) (k : Nat) (x : Core)
@[simp] theorem Mach.setCore_off : (m.setCore k x).off = m.off := rfl
@[simp] theorem Mach.setCore_strapDone : (m.setCore k x).strapDone = m.strapDone := rfl
@[simp] theorem Mach.setCore_runBank : (m.setCore k x).runBank = m.runBank := rfl
@[simp] theorem Mach.setCore_warmDue : (m.setCore k x).warmDue = m.warmDue := rfl
@[simp] theorem Mach.setCore_regs : (m.setCore k x).regs = m.regs := rfl
@[simp] theorem Mach.setCore_latches : (m.setCore k x).latches = m.latches := rfl
@[simp] theorem Mach.setCore_mem : (m.setCore k x).mem = m.mem := rfl
@[simp] theorem Mach.setCore_syn : (m.setCore k x).syn = m.syn := rfl
@[simp] theorem Mach.setCore_cores : (m.setCore k x).cores = m.cores.put k x := rfl
@[simp] theorem Mach.setCore_groups : (m.setCore k x).groups = m.groups := rfl
@[simp] theorem Mach.setCore_clusters : (m.setCore k x).clusters = m.clusters := rfl
@[simp] theorem Mach.setCore_launches : (m.setCore k x).launches = m.launches := rfl
@[simp] theorem Mach.setCore_nextLaunch : (m.setCore k x).nextLaunch = m.nextLaunch := rfl
@[simp] theorem Mach.setCore_reqs : (m.setCore k x).reqs = m.reqs := rfl
@[simp] theorem Mach.setCore_nextReq : (m.setCore k x).nextReq = m.nextReq := rfl
@[simp] theorem Mach.setCore_slices : (m.setCore k x).slices = m.slices := rfl
@[simp] theorem Mach.setCore_lines : (m.setCore k x).lines = m.lines := rfl
@[simp] theorem Mach.setCore_tints : (m.setCore k x).tints = m.tints := rfl
@[simp] theorem Mach.setCore_chans : (m.setCore k x).chans = m.chans := rfl
@[simp] theorem Mach.setCore_net : (m.setCore k x).net = m.net := rfl
@[simp] theorem Mach.setCore_ports : (m.setCore k x).ports = m.ports := rfl
@[simp] theorem Mach.setCore_dlinks : (m.setCore k x).dlinks = m.dlinks := rfl
@[simp] theorem Mach.setCore_neighGen : (m.setCore k x).neighGen = m.neighGen := rfl
@[simp] theorem Mach.setCore_transit : (m.setCore k x).transit = m.transit := rfl
@[simp] theorem Mach.setCore_deadNew : (m.setCore k x).deadNew = m.deadNew := rfl
@[simp] theorem Mach.setCore_route : (m.setCore k x).route = m.route := rfl
@[simp] theorem Mach.setCore_rerouted : (m.setCore k x).rerouted = m.rerouted := rfl
@[simp] theorem Mach.setCore_stagedDev : (m.setCore k x).stagedDev = m.stagedDev := rfl
@[simp] theorem Mach.setCore_queues : (m.setCore k x).queues = m.queues := rfl
@[simp] theorem Mach.setCore_queueDrr : (m.setCore k x).queueDrr = m.queueDrr := rfl
@[simp] theorem Mach.setCore_admitted : (m.setCore k x).admitted = m.admitted := rfl
@[simp] theorem Mach.setCore_semWait : (m.setCore k x).semWait = m.semWait := rfl
@[simp] theorem Mach.setCore_ranges : (m.setCore k x).ranges = m.ranges := rfl
@[simp] theorem Mach.setCore_parts : (m.setCore k x).parts = m.parts := rfl
@[simp] theorem Mach.setCore_dies : (m.setCore k x).dies = m.dies := rfl
@[simp] theorem Mach.setCore_gates : (m.setCore k x).gates = m.gates := rfl
@[simp] theorem Mach.setCore_keys : (m.setCore k x).keys = m.keys := rfl
@[simp] theorem Mach.setCore_slate : (m.setCore k x).slate = m.slate := rfl
@[simp] theorem Mach.setCore_retired : (m.setCore k x).retired = m.retired := rfl
@[simp] theorem Mach.setCore_meas : (m.setCore k x).meas = m.meas := rfl
@[simp] theorem Mach.setCore_staged : (m.setCore k x).staged = m.staged := rfl
@[simp] theorem Mach.setCore_stageCred : (m.setCore k x).stageCred = m.stageCred := rfl
@[simp] theorem Mach.setCore_irqPause : (m.setCore k x).irqPause = m.irqPause := rfl
@[simp] theorem Mach.setCore_irqDue : (m.setCore k x).irqDue = m.irqDue := rfl
@[simp] theorem Mach.setCore_capHeld : (m.setCore k x).capHeld = m.capHeld := rfl
@[simp] theorem Mach.setCore_capAt : (m.setCore k x).capAt = m.capAt := rfl
@[simp] theorem Mach.setCore_refillAt : (m.setCore k x).refillAt = m.refillAt := rfl
@[simp] theorem Mach.setCore_noticeSeq : (m.setCore k x).noticeSeq = m.noticeSeq := rfl
@[simp] theorem Mach.setCore_capLow : (m.setCore k x).capLow = m.capLow := rfl
@[simp] theorem Mach.setCore_capUnder : (m.setCore k x).capUnder = m.capUnder := rfl
@[simp] theorem Mach.setCore_stageFrom : (m.setCore k x).stageFrom = m.stageFrom := rfl
@[simp] theorem Mach.setCore_standbyFrom : (m.setCore k x).standbyFrom = m.standbyFrom := rfl
@[simp] theorem Mach.setCore_lineStamp : (m.setCore k x).lineStamp = m.lineStamp := rfl
@[simp] theorem Mach.setCore_fresh : (m.setCore k x).fresh = m.fresh := rfl
@[simp] theorem Mach.setCore_reply : (m.setCore k x).reply = m.reply := rfl
@[simp] theorem Mach.setCore_outbox : (m.setCore k x).outbox = m.outbox := rfl
end

/-! ### `Mach.setGroup` -/

section
variable (m : Mach) (k g : Nat) (x : Group)
@[simp] theorem Mach.setGroup_off : (m.setGroup k g x).off = m.off := rfl
@[simp] theorem Mach.setGroup_strapDone : (m.setGroup k g x).strapDone = m.strapDone := rfl
@[simp] theorem Mach.setGroup_runBank : (m.setGroup k g x).runBank = m.runBank := rfl
@[simp] theorem Mach.setGroup_warmDue : (m.setGroup k g x).warmDue = m.warmDue := rfl
@[simp] theorem Mach.setGroup_regs : (m.setGroup k g x).regs = m.regs := rfl
@[simp] theorem Mach.setGroup_latches : (m.setGroup k g x).latches = m.latches := rfl
@[simp] theorem Mach.setGroup_mem : (m.setGroup k g x).mem = m.mem := rfl
@[simp] theorem Mach.setGroup_syn : (m.setGroup k g x).syn = m.syn := rfl
@[simp] theorem Mach.setGroup_cores : (m.setGroup k g x).cores = m.cores := rfl
@[simp] theorem Mach.setGroup_groups : (m.setGroup k g x).groups = m.groups.put (k * 8 + g) x := rfl
@[simp] theorem Mach.setGroup_clusters : (m.setGroup k g x).clusters = m.clusters := rfl
@[simp] theorem Mach.setGroup_launches : (m.setGroup k g x).launches = m.launches := rfl
@[simp] theorem Mach.setGroup_nextLaunch : (m.setGroup k g x).nextLaunch = m.nextLaunch := rfl
@[simp] theorem Mach.setGroup_reqs : (m.setGroup k g x).reqs = m.reqs := rfl
@[simp] theorem Mach.setGroup_nextReq : (m.setGroup k g x).nextReq = m.nextReq := rfl
@[simp] theorem Mach.setGroup_slices : (m.setGroup k g x).slices = m.slices := rfl
@[simp] theorem Mach.setGroup_lines : (m.setGroup k g x).lines = m.lines := rfl
@[simp] theorem Mach.setGroup_tints : (m.setGroup k g x).tints = m.tints := rfl
@[simp] theorem Mach.setGroup_chans : (m.setGroup k g x).chans = m.chans := rfl
@[simp] theorem Mach.setGroup_net : (m.setGroup k g x).net = m.net := rfl
@[simp] theorem Mach.setGroup_ports : (m.setGroup k g x).ports = m.ports := rfl
@[simp] theorem Mach.setGroup_dlinks : (m.setGroup k g x).dlinks = m.dlinks := rfl
@[simp] theorem Mach.setGroup_neighGen : (m.setGroup k g x).neighGen = m.neighGen := rfl
@[simp] theorem Mach.setGroup_transit : (m.setGroup k g x).transit = m.transit := rfl
@[simp] theorem Mach.setGroup_deadNew : (m.setGroup k g x).deadNew = m.deadNew := rfl
@[simp] theorem Mach.setGroup_route : (m.setGroup k g x).route = m.route := rfl
@[simp] theorem Mach.setGroup_rerouted : (m.setGroup k g x).rerouted = m.rerouted := rfl
@[simp] theorem Mach.setGroup_stagedDev : (m.setGroup k g x).stagedDev = m.stagedDev := rfl
@[simp] theorem Mach.setGroup_queues : (m.setGroup k g x).queues = m.queues := rfl
@[simp] theorem Mach.setGroup_queueDrr : (m.setGroup k g x).queueDrr = m.queueDrr := rfl
@[simp] theorem Mach.setGroup_admitted : (m.setGroup k g x).admitted = m.admitted := rfl
@[simp] theorem Mach.setGroup_semWait : (m.setGroup k g x).semWait = m.semWait := rfl
@[simp] theorem Mach.setGroup_ranges : (m.setGroup k g x).ranges = m.ranges := rfl
@[simp] theorem Mach.setGroup_parts : (m.setGroup k g x).parts = m.parts := rfl
@[simp] theorem Mach.setGroup_dies : (m.setGroup k g x).dies = m.dies := rfl
@[simp] theorem Mach.setGroup_gates : (m.setGroup k g x).gates = m.gates := rfl
@[simp] theorem Mach.setGroup_keys : (m.setGroup k g x).keys = m.keys := rfl
@[simp] theorem Mach.setGroup_slate : (m.setGroup k g x).slate = m.slate := rfl
@[simp] theorem Mach.setGroup_retired : (m.setGroup k g x).retired = m.retired := rfl
@[simp] theorem Mach.setGroup_meas : (m.setGroup k g x).meas = m.meas := rfl
@[simp] theorem Mach.setGroup_staged : (m.setGroup k g x).staged = m.staged := rfl
@[simp] theorem Mach.setGroup_stageCred : (m.setGroup k g x).stageCred = m.stageCred := rfl
@[simp] theorem Mach.setGroup_irqPause : (m.setGroup k g x).irqPause = m.irqPause := rfl
@[simp] theorem Mach.setGroup_irqDue : (m.setGroup k g x).irqDue = m.irqDue := rfl
@[simp] theorem Mach.setGroup_capHeld : (m.setGroup k g x).capHeld = m.capHeld := rfl
@[simp] theorem Mach.setGroup_capAt : (m.setGroup k g x).capAt = m.capAt := rfl
@[simp] theorem Mach.setGroup_refillAt : (m.setGroup k g x).refillAt = m.refillAt := rfl
@[simp] theorem Mach.setGroup_noticeSeq : (m.setGroup k g x).noticeSeq = m.noticeSeq := rfl
@[simp] theorem Mach.setGroup_capLow : (m.setGroup k g x).capLow = m.capLow := rfl
@[simp] theorem Mach.setGroup_capUnder : (m.setGroup k g x).capUnder = m.capUnder := rfl
@[simp] theorem Mach.setGroup_stageFrom : (m.setGroup k g x).stageFrom = m.stageFrom := rfl
@[simp] theorem Mach.setGroup_standbyFrom : (m.setGroup k g x).standbyFrom = m.standbyFrom := rfl
@[simp] theorem Mach.setGroup_lineStamp : (m.setGroup k g x).lineStamp = m.lineStamp := rfl
@[simp] theorem Mach.setGroup_fresh : (m.setGroup k g x).fresh = m.fresh := rfl
@[simp] theorem Mach.setGroup_reply : (m.setGroup k g x).reply = m.reply := rfl
@[simp] theorem Mach.setGroup_outbox : (m.setGroup k g x).outbox = m.outbox := rfl
end

/-! ### `Mach.updGroup` -/

section
variable (m : Mach) (k g : Nat) (f : Group → Group)
@[simp] theorem Mach.updGroup_off : (m.updGroup k g f).off = m.off := rfl
@[simp] theorem Mach.updGroup_strapDone : (m.updGroup k g f).strapDone = m.strapDone := rfl
@[simp] theorem Mach.updGroup_runBank : (m.updGroup k g f).runBank = m.runBank := rfl
@[simp] theorem Mach.updGroup_warmDue : (m.updGroup k g f).warmDue = m.warmDue := rfl
@[simp] theorem Mach.updGroup_regs : (m.updGroup k g f).regs = m.regs := rfl
@[simp] theorem Mach.updGroup_latches : (m.updGroup k g f).latches = m.latches := rfl
@[simp] theorem Mach.updGroup_mem : (m.updGroup k g f).mem = m.mem := rfl
@[simp] theorem Mach.updGroup_syn : (m.updGroup k g f).syn = m.syn := rfl
@[simp] theorem Mach.updGroup_cores : (m.updGroup k g f).cores = m.cores := rfl
@[simp] theorem Mach.updGroup_groups : (m.updGroup k g f).groups = m.groups.upd (k * 8 + g) f := rfl
@[simp] theorem Mach.updGroup_clusters : (m.updGroup k g f).clusters = m.clusters := rfl
@[simp] theorem Mach.updGroup_launches : (m.updGroup k g f).launches = m.launches := rfl
@[simp] theorem Mach.updGroup_nextLaunch : (m.updGroup k g f).nextLaunch = m.nextLaunch := rfl
@[simp] theorem Mach.updGroup_reqs : (m.updGroup k g f).reqs = m.reqs := rfl
@[simp] theorem Mach.updGroup_nextReq : (m.updGroup k g f).nextReq = m.nextReq := rfl
@[simp] theorem Mach.updGroup_slices : (m.updGroup k g f).slices = m.slices := rfl
@[simp] theorem Mach.updGroup_lines : (m.updGroup k g f).lines = m.lines := rfl
@[simp] theorem Mach.updGroup_tints : (m.updGroup k g f).tints = m.tints := rfl
@[simp] theorem Mach.updGroup_chans : (m.updGroup k g f).chans = m.chans := rfl
@[simp] theorem Mach.updGroup_net : (m.updGroup k g f).net = m.net := rfl
@[simp] theorem Mach.updGroup_ports : (m.updGroup k g f).ports = m.ports := rfl
@[simp] theorem Mach.updGroup_dlinks : (m.updGroup k g f).dlinks = m.dlinks := rfl
@[simp] theorem Mach.updGroup_neighGen : (m.updGroup k g f).neighGen = m.neighGen := rfl
@[simp] theorem Mach.updGroup_transit : (m.updGroup k g f).transit = m.transit := rfl
@[simp] theorem Mach.updGroup_deadNew : (m.updGroup k g f).deadNew = m.deadNew := rfl
@[simp] theorem Mach.updGroup_route : (m.updGroup k g f).route = m.route := rfl
@[simp] theorem Mach.updGroup_rerouted : (m.updGroup k g f).rerouted = m.rerouted := rfl
@[simp] theorem Mach.updGroup_stagedDev : (m.updGroup k g f).stagedDev = m.stagedDev := rfl
@[simp] theorem Mach.updGroup_queues : (m.updGroup k g f).queues = m.queues := rfl
@[simp] theorem Mach.updGroup_queueDrr : (m.updGroup k g f).queueDrr = m.queueDrr := rfl
@[simp] theorem Mach.updGroup_admitted : (m.updGroup k g f).admitted = m.admitted := rfl
@[simp] theorem Mach.updGroup_semWait : (m.updGroup k g f).semWait = m.semWait := rfl
@[simp] theorem Mach.updGroup_ranges : (m.updGroup k g f).ranges = m.ranges := rfl
@[simp] theorem Mach.updGroup_parts : (m.updGroup k g f).parts = m.parts := rfl
@[simp] theorem Mach.updGroup_dies : (m.updGroup k g f).dies = m.dies := rfl
@[simp] theorem Mach.updGroup_gates : (m.updGroup k g f).gates = m.gates := rfl
@[simp] theorem Mach.updGroup_keys : (m.updGroup k g f).keys = m.keys := rfl
@[simp] theorem Mach.updGroup_slate : (m.updGroup k g f).slate = m.slate := rfl
@[simp] theorem Mach.updGroup_retired : (m.updGroup k g f).retired = m.retired := rfl
@[simp] theorem Mach.updGroup_meas : (m.updGroup k g f).meas = m.meas := rfl
@[simp] theorem Mach.updGroup_staged : (m.updGroup k g f).staged = m.staged := rfl
@[simp] theorem Mach.updGroup_stageCred : (m.updGroup k g f).stageCred = m.stageCred := rfl
@[simp] theorem Mach.updGroup_irqPause : (m.updGroup k g f).irqPause = m.irqPause := rfl
@[simp] theorem Mach.updGroup_irqDue : (m.updGroup k g f).irqDue = m.irqDue := rfl
@[simp] theorem Mach.updGroup_capHeld : (m.updGroup k g f).capHeld = m.capHeld := rfl
@[simp] theorem Mach.updGroup_capAt : (m.updGroup k g f).capAt = m.capAt := rfl
@[simp] theorem Mach.updGroup_refillAt : (m.updGroup k g f).refillAt = m.refillAt := rfl
@[simp] theorem Mach.updGroup_noticeSeq : (m.updGroup k g f).noticeSeq = m.noticeSeq := rfl
@[simp] theorem Mach.updGroup_capLow : (m.updGroup k g f).capLow = m.capLow := rfl
@[simp] theorem Mach.updGroup_capUnder : (m.updGroup k g f).capUnder = m.capUnder := rfl
@[simp] theorem Mach.updGroup_stageFrom : (m.updGroup k g f).stageFrom = m.stageFrom := rfl
@[simp] theorem Mach.updGroup_standbyFrom : (m.updGroup k g f).standbyFrom = m.standbyFrom := rfl
@[simp] theorem Mach.updGroup_lineStamp : (m.updGroup k g f).lineStamp = m.lineStamp := rfl
@[simp] theorem Mach.updGroup_fresh : (m.updGroup k g f).fresh = m.fresh := rfl
@[simp] theorem Mach.updGroup_reply : (m.updGroup k g f).reply = m.reply := rfl
@[simp] theorem Mach.updGroup_outbox : (m.updGroup k g f).outbox = m.outbox := rfl
end

/-! ### `Mach.setCluster` -/

section
variable (m : Mach) (k : Nat) (x : ClusterSt)
@[simp] theorem Mach.setCluster_off : (m.setCluster k x).off = m.off := rfl
@[simp] theorem Mach.setCluster_strapDone : (m.setCluster k x).strapDone = m.strapDone := rfl
@[simp] theorem Mach.setCluster_runBank : (m.setCluster k x).runBank = m.runBank := rfl
@[simp] theorem Mach.setCluster_warmDue : (m.setCluster k x).warmDue = m.warmDue := rfl
@[simp] theorem Mach.setCluster_regs : (m.setCluster k x).regs = m.regs := rfl
@[simp] theorem Mach.setCluster_latches : (m.setCluster k x).latches = m.latches := rfl
@[simp] theorem Mach.setCluster_mem : (m.setCluster k x).mem = m.mem := rfl
@[simp] theorem Mach.setCluster_syn : (m.setCluster k x).syn = m.syn := rfl
@[simp] theorem Mach.setCluster_cores : (m.setCluster k x).cores = m.cores := rfl
@[simp] theorem Mach.setCluster_groups : (m.setCluster k x).groups = m.groups := rfl
@[simp] theorem Mach.setCluster_clusters : (m.setCluster k x).clusters = m.clusters.put k x := rfl
@[simp] theorem Mach.setCluster_launches : (m.setCluster k x).launches = m.launches := rfl
@[simp] theorem Mach.setCluster_nextLaunch : (m.setCluster k x).nextLaunch = m.nextLaunch := rfl
@[simp] theorem Mach.setCluster_reqs : (m.setCluster k x).reqs = m.reqs := rfl
@[simp] theorem Mach.setCluster_nextReq : (m.setCluster k x).nextReq = m.nextReq := rfl
@[simp] theorem Mach.setCluster_slices : (m.setCluster k x).slices = m.slices := rfl
@[simp] theorem Mach.setCluster_lines : (m.setCluster k x).lines = m.lines := rfl
@[simp] theorem Mach.setCluster_tints : (m.setCluster k x).tints = m.tints := rfl
@[simp] theorem Mach.setCluster_chans : (m.setCluster k x).chans = m.chans := rfl
@[simp] theorem Mach.setCluster_net : (m.setCluster k x).net = m.net := rfl
@[simp] theorem Mach.setCluster_ports : (m.setCluster k x).ports = m.ports := rfl
@[simp] theorem Mach.setCluster_dlinks : (m.setCluster k x).dlinks = m.dlinks := rfl
@[simp] theorem Mach.setCluster_neighGen : (m.setCluster k x).neighGen = m.neighGen := rfl
@[simp] theorem Mach.setCluster_transit : (m.setCluster k x).transit = m.transit := rfl
@[simp] theorem Mach.setCluster_deadNew : (m.setCluster k x).deadNew = m.deadNew := rfl
@[simp] theorem Mach.setCluster_route : (m.setCluster k x).route = m.route := rfl
@[simp] theorem Mach.setCluster_rerouted : (m.setCluster k x).rerouted = m.rerouted := rfl
@[simp] theorem Mach.setCluster_stagedDev : (m.setCluster k x).stagedDev = m.stagedDev := rfl
@[simp] theorem Mach.setCluster_queues : (m.setCluster k x).queues = m.queues := rfl
@[simp] theorem Mach.setCluster_queueDrr : (m.setCluster k x).queueDrr = m.queueDrr := rfl
@[simp] theorem Mach.setCluster_admitted : (m.setCluster k x).admitted = m.admitted := rfl
@[simp] theorem Mach.setCluster_semWait : (m.setCluster k x).semWait = m.semWait := rfl
@[simp] theorem Mach.setCluster_ranges : (m.setCluster k x).ranges = m.ranges := rfl
@[simp] theorem Mach.setCluster_parts : (m.setCluster k x).parts = m.parts := rfl
@[simp] theorem Mach.setCluster_dies : (m.setCluster k x).dies = m.dies := rfl
@[simp] theorem Mach.setCluster_gates : (m.setCluster k x).gates = m.gates := rfl
@[simp] theorem Mach.setCluster_keys : (m.setCluster k x).keys = m.keys := rfl
@[simp] theorem Mach.setCluster_slate : (m.setCluster k x).slate = m.slate := rfl
@[simp] theorem Mach.setCluster_retired : (m.setCluster k x).retired = m.retired := rfl
@[simp] theorem Mach.setCluster_meas : (m.setCluster k x).meas = m.meas := rfl
@[simp] theorem Mach.setCluster_staged : (m.setCluster k x).staged = m.staged := rfl
@[simp] theorem Mach.setCluster_stageCred : (m.setCluster k x).stageCred = m.stageCred := rfl
@[simp] theorem Mach.setCluster_irqPause : (m.setCluster k x).irqPause = m.irqPause := rfl
@[simp] theorem Mach.setCluster_irqDue : (m.setCluster k x).irqDue = m.irqDue := rfl
@[simp] theorem Mach.setCluster_capHeld : (m.setCluster k x).capHeld = m.capHeld := rfl
@[simp] theorem Mach.setCluster_capAt : (m.setCluster k x).capAt = m.capAt := rfl
@[simp] theorem Mach.setCluster_refillAt : (m.setCluster k x).refillAt = m.refillAt := rfl
@[simp] theorem Mach.setCluster_noticeSeq : (m.setCluster k x).noticeSeq = m.noticeSeq := rfl
@[simp] theorem Mach.setCluster_capLow : (m.setCluster k x).capLow = m.capLow := rfl
@[simp] theorem Mach.setCluster_capUnder : (m.setCluster k x).capUnder = m.capUnder := rfl
@[simp] theorem Mach.setCluster_stageFrom : (m.setCluster k x).stageFrom = m.stageFrom := rfl
@[simp] theorem Mach.setCluster_standbyFrom : (m.setCluster k x).standbyFrom = m.standbyFrom := rfl
@[simp] theorem Mach.setCluster_lineStamp : (m.setCluster k x).lineStamp = m.lineStamp := rfl
@[simp] theorem Mach.setCluster_fresh : (m.setCluster k x).fresh = m.fresh := rfl
@[simp] theorem Mach.setCluster_reply : (m.setCluster k x).reply = m.reply := rfl
@[simp] theorem Mach.setCluster_outbox : (m.setCluster k x).outbox = m.outbox := rfl
end

/-! ### `Mach.updLaunch` -/

section
variable (m : Mach) (k : Nat) (f : Launch → Launch)
@[simp] theorem Mach.updLaunch_off : (m.updLaunch k f).off = m.off := rfl
@[simp] theorem Mach.updLaunch_strapDone : (m.updLaunch k f).strapDone = m.strapDone := rfl
@[simp] theorem Mach.updLaunch_runBank : (m.updLaunch k f).runBank = m.runBank := rfl
@[simp] theorem Mach.updLaunch_warmDue : (m.updLaunch k f).warmDue = m.warmDue := rfl
@[simp] theorem Mach.updLaunch_regs : (m.updLaunch k f).regs = m.regs := rfl
@[simp] theorem Mach.updLaunch_latches : (m.updLaunch k f).latches = m.latches := rfl
@[simp] theorem Mach.updLaunch_mem : (m.updLaunch k f).mem = m.mem := rfl
@[simp] theorem Mach.updLaunch_syn : (m.updLaunch k f).syn = m.syn := rfl
@[simp] theorem Mach.updLaunch_cores : (m.updLaunch k f).cores = m.cores := rfl
@[simp] theorem Mach.updLaunch_groups : (m.updLaunch k f).groups = m.groups := rfl
@[simp] theorem Mach.updLaunch_clusters : (m.updLaunch k f).clusters = m.clusters := rfl
@[simp] theorem Mach.updLaunch_launches : (m.updLaunch k f).launches = m.launches.upd k f := rfl
@[simp] theorem Mach.updLaunch_nextLaunch : (m.updLaunch k f).nextLaunch = m.nextLaunch := rfl
@[simp] theorem Mach.updLaunch_reqs : (m.updLaunch k f).reqs = m.reqs := rfl
@[simp] theorem Mach.updLaunch_nextReq : (m.updLaunch k f).nextReq = m.nextReq := rfl
@[simp] theorem Mach.updLaunch_slices : (m.updLaunch k f).slices = m.slices := rfl
@[simp] theorem Mach.updLaunch_lines : (m.updLaunch k f).lines = m.lines := rfl
@[simp] theorem Mach.updLaunch_tints : (m.updLaunch k f).tints = m.tints := rfl
@[simp] theorem Mach.updLaunch_chans : (m.updLaunch k f).chans = m.chans := rfl
@[simp] theorem Mach.updLaunch_net : (m.updLaunch k f).net = m.net := rfl
@[simp] theorem Mach.updLaunch_ports : (m.updLaunch k f).ports = m.ports := rfl
@[simp] theorem Mach.updLaunch_dlinks : (m.updLaunch k f).dlinks = m.dlinks := rfl
@[simp] theorem Mach.updLaunch_neighGen : (m.updLaunch k f).neighGen = m.neighGen := rfl
@[simp] theorem Mach.updLaunch_transit : (m.updLaunch k f).transit = m.transit := rfl
@[simp] theorem Mach.updLaunch_deadNew : (m.updLaunch k f).deadNew = m.deadNew := rfl
@[simp] theorem Mach.updLaunch_route : (m.updLaunch k f).route = m.route := rfl
@[simp] theorem Mach.updLaunch_rerouted : (m.updLaunch k f).rerouted = m.rerouted := rfl
@[simp] theorem Mach.updLaunch_stagedDev : (m.updLaunch k f).stagedDev = m.stagedDev := rfl
@[simp] theorem Mach.updLaunch_queues : (m.updLaunch k f).queues = m.queues := rfl
@[simp] theorem Mach.updLaunch_queueDrr : (m.updLaunch k f).queueDrr = m.queueDrr := rfl
@[simp] theorem Mach.updLaunch_admitted : (m.updLaunch k f).admitted = m.admitted := rfl
@[simp] theorem Mach.updLaunch_semWait : (m.updLaunch k f).semWait = m.semWait := rfl
@[simp] theorem Mach.updLaunch_ranges : (m.updLaunch k f).ranges = m.ranges := rfl
@[simp] theorem Mach.updLaunch_parts : (m.updLaunch k f).parts = m.parts := rfl
@[simp] theorem Mach.updLaunch_dies : (m.updLaunch k f).dies = m.dies := rfl
@[simp] theorem Mach.updLaunch_gates : (m.updLaunch k f).gates = m.gates := rfl
@[simp] theorem Mach.updLaunch_keys : (m.updLaunch k f).keys = m.keys := rfl
@[simp] theorem Mach.updLaunch_slate : (m.updLaunch k f).slate = m.slate := rfl
@[simp] theorem Mach.updLaunch_retired : (m.updLaunch k f).retired = m.retired := rfl
@[simp] theorem Mach.updLaunch_meas : (m.updLaunch k f).meas = m.meas := rfl
@[simp] theorem Mach.updLaunch_staged : (m.updLaunch k f).staged = m.staged := rfl
@[simp] theorem Mach.updLaunch_stageCred : (m.updLaunch k f).stageCred = m.stageCred := rfl
@[simp] theorem Mach.updLaunch_irqPause : (m.updLaunch k f).irqPause = m.irqPause := rfl
@[simp] theorem Mach.updLaunch_irqDue : (m.updLaunch k f).irqDue = m.irqDue := rfl
@[simp] theorem Mach.updLaunch_capHeld : (m.updLaunch k f).capHeld = m.capHeld := rfl
@[simp] theorem Mach.updLaunch_capAt : (m.updLaunch k f).capAt = m.capAt := rfl
@[simp] theorem Mach.updLaunch_refillAt : (m.updLaunch k f).refillAt = m.refillAt := rfl
@[simp] theorem Mach.updLaunch_noticeSeq : (m.updLaunch k f).noticeSeq = m.noticeSeq := rfl
@[simp] theorem Mach.updLaunch_capLow : (m.updLaunch k f).capLow = m.capLow := rfl
@[simp] theorem Mach.updLaunch_capUnder : (m.updLaunch k f).capUnder = m.capUnder := rfl
@[simp] theorem Mach.updLaunch_stageFrom : (m.updLaunch k f).stageFrom = m.stageFrom := rfl
@[simp] theorem Mach.updLaunch_standbyFrom : (m.updLaunch k f).standbyFrom = m.standbyFrom := rfl
@[simp] theorem Mach.updLaunch_lineStamp : (m.updLaunch k f).lineStamp = m.lineStamp := rfl
@[simp] theorem Mach.updLaunch_fresh : (m.updLaunch k f).fresh = m.fresh := rfl
@[simp] theorem Mach.updLaunch_reply : (m.updLaunch k f).reply = m.reply := rfl
@[simp] theorem Mach.updLaunch_outbox : (m.updLaunch k f).outbox = m.outbox := rfl
end

/-! ### `Mach.updReq` -/

section
variable (m : Mach) (k : Nat) (f : Req → Req)
@[simp] theorem Mach.updReq_off : (m.updReq k f).off = m.off := rfl
@[simp] theorem Mach.updReq_strapDone : (m.updReq k f).strapDone = m.strapDone := rfl
@[simp] theorem Mach.updReq_runBank : (m.updReq k f).runBank = m.runBank := rfl
@[simp] theorem Mach.updReq_warmDue : (m.updReq k f).warmDue = m.warmDue := rfl
@[simp] theorem Mach.updReq_regs : (m.updReq k f).regs = m.regs := rfl
@[simp] theorem Mach.updReq_latches : (m.updReq k f).latches = m.latches := rfl
@[simp] theorem Mach.updReq_mem : (m.updReq k f).mem = m.mem := rfl
@[simp] theorem Mach.updReq_syn : (m.updReq k f).syn = m.syn := rfl
@[simp] theorem Mach.updReq_cores : (m.updReq k f).cores = m.cores := rfl
@[simp] theorem Mach.updReq_groups : (m.updReq k f).groups = m.groups := rfl
@[simp] theorem Mach.updReq_clusters : (m.updReq k f).clusters = m.clusters := rfl
@[simp] theorem Mach.updReq_launches : (m.updReq k f).launches = m.launches := rfl
@[simp] theorem Mach.updReq_nextLaunch : (m.updReq k f).nextLaunch = m.nextLaunch := rfl
@[simp] theorem Mach.updReq_reqs : (m.updReq k f).reqs = m.reqs.upd k f := rfl
@[simp] theorem Mach.updReq_nextReq : (m.updReq k f).nextReq = m.nextReq := rfl
@[simp] theorem Mach.updReq_slices : (m.updReq k f).slices = m.slices := rfl
@[simp] theorem Mach.updReq_lines : (m.updReq k f).lines = m.lines := rfl
@[simp] theorem Mach.updReq_tints : (m.updReq k f).tints = m.tints := rfl
@[simp] theorem Mach.updReq_chans : (m.updReq k f).chans = m.chans := rfl
@[simp] theorem Mach.updReq_net : (m.updReq k f).net = m.net := rfl
@[simp] theorem Mach.updReq_ports : (m.updReq k f).ports = m.ports := rfl
@[simp] theorem Mach.updReq_dlinks : (m.updReq k f).dlinks = m.dlinks := rfl
@[simp] theorem Mach.updReq_neighGen : (m.updReq k f).neighGen = m.neighGen := rfl
@[simp] theorem Mach.updReq_transit : (m.updReq k f).transit = m.transit := rfl
@[simp] theorem Mach.updReq_deadNew : (m.updReq k f).deadNew = m.deadNew := rfl
@[simp] theorem Mach.updReq_route : (m.updReq k f).route = m.route := rfl
@[simp] theorem Mach.updReq_rerouted : (m.updReq k f).rerouted = m.rerouted := rfl
@[simp] theorem Mach.updReq_stagedDev : (m.updReq k f).stagedDev = m.stagedDev := rfl
@[simp] theorem Mach.updReq_queues : (m.updReq k f).queues = m.queues := rfl
@[simp] theorem Mach.updReq_queueDrr : (m.updReq k f).queueDrr = m.queueDrr := rfl
@[simp] theorem Mach.updReq_admitted : (m.updReq k f).admitted = m.admitted := rfl
@[simp] theorem Mach.updReq_semWait : (m.updReq k f).semWait = m.semWait := rfl
@[simp] theorem Mach.updReq_ranges : (m.updReq k f).ranges = m.ranges := rfl
@[simp] theorem Mach.updReq_parts : (m.updReq k f).parts = m.parts := rfl
@[simp] theorem Mach.updReq_dies : (m.updReq k f).dies = m.dies := rfl
@[simp] theorem Mach.updReq_gates : (m.updReq k f).gates = m.gates := rfl
@[simp] theorem Mach.updReq_keys : (m.updReq k f).keys = m.keys := rfl
@[simp] theorem Mach.updReq_slate : (m.updReq k f).slate = m.slate := rfl
@[simp] theorem Mach.updReq_retired : (m.updReq k f).retired = m.retired := rfl
@[simp] theorem Mach.updReq_meas : (m.updReq k f).meas = m.meas := rfl
@[simp] theorem Mach.updReq_staged : (m.updReq k f).staged = m.staged := rfl
@[simp] theorem Mach.updReq_stageCred : (m.updReq k f).stageCred = m.stageCred := rfl
@[simp] theorem Mach.updReq_irqPause : (m.updReq k f).irqPause = m.irqPause := rfl
@[simp] theorem Mach.updReq_irqDue : (m.updReq k f).irqDue = m.irqDue := rfl
@[simp] theorem Mach.updReq_capHeld : (m.updReq k f).capHeld = m.capHeld := rfl
@[simp] theorem Mach.updReq_capAt : (m.updReq k f).capAt = m.capAt := rfl
@[simp] theorem Mach.updReq_refillAt : (m.updReq k f).refillAt = m.refillAt := rfl
@[simp] theorem Mach.updReq_noticeSeq : (m.updReq k f).noticeSeq = m.noticeSeq := rfl
@[simp] theorem Mach.updReq_capLow : (m.updReq k f).capLow = m.capLow := rfl
@[simp] theorem Mach.updReq_capUnder : (m.updReq k f).capUnder = m.capUnder := rfl
@[simp] theorem Mach.updReq_stageFrom : (m.updReq k f).stageFrom = m.stageFrom := rfl
@[simp] theorem Mach.updReq_standbyFrom : (m.updReq k f).standbyFrom = m.standbyFrom := rfl
@[simp] theorem Mach.updReq_lineStamp : (m.updReq k f).lineStamp = m.lineStamp := rfl
@[simp] theorem Mach.updReq_fresh : (m.updReq k f).fresh = m.fresh := rfl
@[simp] theorem Mach.updReq_reply : (m.updReq k f).reply = m.reply := rfl
@[simp] theorem Mach.updReq_outbox : (m.updReq k f).outbox = m.outbox := rfl
end

/-! ### `Mach.dropReq` -/

section
variable (m : Mach) (k : Nat)
@[simp] theorem Mach.dropReq_off : (m.dropReq k).off = m.off := rfl
@[simp] theorem Mach.dropReq_strapDone : (m.dropReq k).strapDone = m.strapDone := rfl
@[simp] theorem Mach.dropReq_runBank : (m.dropReq k).runBank = m.runBank := rfl
@[simp] theorem Mach.dropReq_warmDue : (m.dropReq k).warmDue = m.warmDue := rfl
@[simp] theorem Mach.dropReq_regs : (m.dropReq k).regs = m.regs := rfl
@[simp] theorem Mach.dropReq_latches : (m.dropReq k).latches = m.latches := rfl
@[simp] theorem Mach.dropReq_mem : (m.dropReq k).mem = m.mem := rfl
@[simp] theorem Mach.dropReq_syn : (m.dropReq k).syn = m.syn := rfl
@[simp] theorem Mach.dropReq_cores : (m.dropReq k).cores = m.cores := rfl
@[simp] theorem Mach.dropReq_groups : (m.dropReq k).groups = m.groups := rfl
@[simp] theorem Mach.dropReq_clusters : (m.dropReq k).clusters = m.clusters := rfl
@[simp] theorem Mach.dropReq_launches : (m.dropReq k).launches = m.launches := rfl
@[simp] theorem Mach.dropReq_nextLaunch : (m.dropReq k).nextLaunch = m.nextLaunch := rfl
@[simp] theorem Mach.dropReq_reqs : (m.dropReq k).reqs = m.reqs.del k := rfl
@[simp] theorem Mach.dropReq_nextReq : (m.dropReq k).nextReq = m.nextReq := rfl
@[simp] theorem Mach.dropReq_slices : (m.dropReq k).slices = m.slices := rfl
@[simp] theorem Mach.dropReq_lines : (m.dropReq k).lines = m.lines := rfl
@[simp] theorem Mach.dropReq_tints : (m.dropReq k).tints = m.tints := rfl
@[simp] theorem Mach.dropReq_chans : (m.dropReq k).chans = m.chans := rfl
@[simp] theorem Mach.dropReq_net : (m.dropReq k).net = m.net := rfl
@[simp] theorem Mach.dropReq_ports : (m.dropReq k).ports = m.ports := rfl
@[simp] theorem Mach.dropReq_dlinks : (m.dropReq k).dlinks = m.dlinks := rfl
@[simp] theorem Mach.dropReq_neighGen : (m.dropReq k).neighGen = m.neighGen := rfl
@[simp] theorem Mach.dropReq_transit : (m.dropReq k).transit = m.transit := rfl
@[simp] theorem Mach.dropReq_deadNew : (m.dropReq k).deadNew = m.deadNew := rfl
@[simp] theorem Mach.dropReq_route : (m.dropReq k).route = m.route := rfl
@[simp] theorem Mach.dropReq_rerouted : (m.dropReq k).rerouted = m.rerouted := rfl
@[simp] theorem Mach.dropReq_stagedDev : (m.dropReq k).stagedDev = m.stagedDev := rfl
@[simp] theorem Mach.dropReq_queues : (m.dropReq k).queues = m.queues := rfl
@[simp] theorem Mach.dropReq_queueDrr : (m.dropReq k).queueDrr = m.queueDrr := rfl
@[simp] theorem Mach.dropReq_admitted : (m.dropReq k).admitted = m.admitted := rfl
@[simp] theorem Mach.dropReq_semWait : (m.dropReq k).semWait = m.semWait := rfl
@[simp] theorem Mach.dropReq_ranges : (m.dropReq k).ranges = m.ranges := rfl
@[simp] theorem Mach.dropReq_parts : (m.dropReq k).parts = m.parts := rfl
@[simp] theorem Mach.dropReq_dies : (m.dropReq k).dies = m.dies := rfl
@[simp] theorem Mach.dropReq_gates : (m.dropReq k).gates = m.gates := rfl
@[simp] theorem Mach.dropReq_keys : (m.dropReq k).keys = m.keys := rfl
@[simp] theorem Mach.dropReq_slate : (m.dropReq k).slate = m.slate := rfl
@[simp] theorem Mach.dropReq_retired : (m.dropReq k).retired = m.retired := rfl
@[simp] theorem Mach.dropReq_meas : (m.dropReq k).meas = m.meas := rfl
@[simp] theorem Mach.dropReq_staged : (m.dropReq k).staged = m.staged := rfl
@[simp] theorem Mach.dropReq_stageCred : (m.dropReq k).stageCred = m.stageCred := rfl
@[simp] theorem Mach.dropReq_irqPause : (m.dropReq k).irqPause = m.irqPause := rfl
@[simp] theorem Mach.dropReq_irqDue : (m.dropReq k).irqDue = m.irqDue := rfl
@[simp] theorem Mach.dropReq_capHeld : (m.dropReq k).capHeld = m.capHeld := rfl
@[simp] theorem Mach.dropReq_capAt : (m.dropReq k).capAt = m.capAt := rfl
@[simp] theorem Mach.dropReq_refillAt : (m.dropReq k).refillAt = m.refillAt := rfl
@[simp] theorem Mach.dropReq_noticeSeq : (m.dropReq k).noticeSeq = m.noticeSeq := rfl
@[simp] theorem Mach.dropReq_capLow : (m.dropReq k).capLow = m.capLow := rfl
@[simp] theorem Mach.dropReq_capUnder : (m.dropReq k).capUnder = m.capUnder := rfl
@[simp] theorem Mach.dropReq_stageFrom : (m.dropReq k).stageFrom = m.stageFrom := rfl
@[simp] theorem Mach.dropReq_standbyFrom : (m.dropReq k).standbyFrom = m.standbyFrom := rfl
@[simp] theorem Mach.dropReq_lineStamp : (m.dropReq k).lineStamp = m.lineStamp := rfl
@[simp] theorem Mach.dropReq_fresh : (m.dropReq k).fresh = m.fresh := rfl
@[simp] theorem Mach.dropReq_reply : (m.dropReq k).reply = m.reply := rfl
@[simp] theorem Mach.dropReq_outbox : (m.dropReq k).outbox = m.outbox := rfl
end

/-! ### `Mach.setSlice` -/

section
variable (m : Mach) (d c : Nat) (x : SliceSt)
@[simp] theorem Mach.setSlice_off : (m.setSlice d c x).off = m.off := rfl
@[simp] theorem Mach.setSlice_strapDone : (m.setSlice d c x).strapDone = m.strapDone := rfl
@[simp] theorem Mach.setSlice_runBank : (m.setSlice d c x).runBank = m.runBank := rfl
@[simp] theorem Mach.setSlice_warmDue : (m.setSlice d c x).warmDue = m.warmDue := rfl
@[simp] theorem Mach.setSlice_regs : (m.setSlice d c x).regs = m.regs := rfl
@[simp] theorem Mach.setSlice_latches : (m.setSlice d c x).latches = m.latches := rfl
@[simp] theorem Mach.setSlice_mem : (m.setSlice d c x).mem = m.mem := rfl
@[simp] theorem Mach.setSlice_syn : (m.setSlice d c x).syn = m.syn := rfl
@[simp] theorem Mach.setSlice_cores : (m.setSlice d c x).cores = m.cores := rfl
@[simp] theorem Mach.setSlice_groups : (m.setSlice d c x).groups = m.groups := rfl
@[simp] theorem Mach.setSlice_clusters : (m.setSlice d c x).clusters = m.clusters := rfl
@[simp] theorem Mach.setSlice_launches : (m.setSlice d c x).launches = m.launches := rfl
@[simp] theorem Mach.setSlice_nextLaunch : (m.setSlice d c x).nextLaunch = m.nextLaunch := rfl
@[simp] theorem Mach.setSlice_reqs : (m.setSlice d c x).reqs = m.reqs := rfl
@[simp] theorem Mach.setSlice_nextReq : (m.setSlice d c x).nextReq = m.nextReq := rfl
@[simp] theorem Mach.setSlice_slices : (m.setSlice d c x).slices = m.slices.put (d * 64 + c) x := rfl
@[simp] theorem Mach.setSlice_lines : (m.setSlice d c x).lines = m.lines := rfl
@[simp] theorem Mach.setSlice_tints : (m.setSlice d c x).tints = m.tints := rfl
@[simp] theorem Mach.setSlice_chans : (m.setSlice d c x).chans = m.chans := rfl
@[simp] theorem Mach.setSlice_net : (m.setSlice d c x).net = m.net := rfl
@[simp] theorem Mach.setSlice_ports : (m.setSlice d c x).ports = m.ports := rfl
@[simp] theorem Mach.setSlice_dlinks : (m.setSlice d c x).dlinks = m.dlinks := rfl
@[simp] theorem Mach.setSlice_neighGen : (m.setSlice d c x).neighGen = m.neighGen := rfl
@[simp] theorem Mach.setSlice_transit : (m.setSlice d c x).transit = m.transit := rfl
@[simp] theorem Mach.setSlice_deadNew : (m.setSlice d c x).deadNew = m.deadNew := rfl
@[simp] theorem Mach.setSlice_route : (m.setSlice d c x).route = m.route := rfl
@[simp] theorem Mach.setSlice_rerouted : (m.setSlice d c x).rerouted = m.rerouted := rfl
@[simp] theorem Mach.setSlice_stagedDev : (m.setSlice d c x).stagedDev = m.stagedDev := rfl
@[simp] theorem Mach.setSlice_queues : (m.setSlice d c x).queues = m.queues := rfl
@[simp] theorem Mach.setSlice_queueDrr : (m.setSlice d c x).queueDrr = m.queueDrr := rfl
@[simp] theorem Mach.setSlice_admitted : (m.setSlice d c x).admitted = m.admitted := rfl
@[simp] theorem Mach.setSlice_semWait : (m.setSlice d c x).semWait = m.semWait := rfl
@[simp] theorem Mach.setSlice_ranges : (m.setSlice d c x).ranges = m.ranges := rfl
@[simp] theorem Mach.setSlice_parts : (m.setSlice d c x).parts = m.parts := rfl
@[simp] theorem Mach.setSlice_dies : (m.setSlice d c x).dies = m.dies := rfl
@[simp] theorem Mach.setSlice_gates : (m.setSlice d c x).gates = m.gates := rfl
@[simp] theorem Mach.setSlice_keys : (m.setSlice d c x).keys = m.keys := rfl
@[simp] theorem Mach.setSlice_slate : (m.setSlice d c x).slate = m.slate := rfl
@[simp] theorem Mach.setSlice_retired : (m.setSlice d c x).retired = m.retired := rfl
@[simp] theorem Mach.setSlice_meas : (m.setSlice d c x).meas = m.meas := rfl
@[simp] theorem Mach.setSlice_staged : (m.setSlice d c x).staged = m.staged := rfl
@[simp] theorem Mach.setSlice_stageCred : (m.setSlice d c x).stageCred = m.stageCred := rfl
@[simp] theorem Mach.setSlice_irqPause : (m.setSlice d c x).irqPause = m.irqPause := rfl
@[simp] theorem Mach.setSlice_irqDue : (m.setSlice d c x).irqDue = m.irqDue := rfl
@[simp] theorem Mach.setSlice_capHeld : (m.setSlice d c x).capHeld = m.capHeld := rfl
@[simp] theorem Mach.setSlice_capAt : (m.setSlice d c x).capAt = m.capAt := rfl
@[simp] theorem Mach.setSlice_refillAt : (m.setSlice d c x).refillAt = m.refillAt := rfl
@[simp] theorem Mach.setSlice_noticeSeq : (m.setSlice d c x).noticeSeq = m.noticeSeq := rfl
@[simp] theorem Mach.setSlice_capLow : (m.setSlice d c x).capLow = m.capLow := rfl
@[simp] theorem Mach.setSlice_capUnder : (m.setSlice d c x).capUnder = m.capUnder := rfl
@[simp] theorem Mach.setSlice_stageFrom : (m.setSlice d c x).stageFrom = m.stageFrom := rfl
@[simp] theorem Mach.setSlice_standbyFrom : (m.setSlice d c x).standbyFrom = m.standbyFrom := rfl
@[simp] theorem Mach.setSlice_lineStamp : (m.setSlice d c x).lineStamp = m.lineStamp := rfl
@[simp] theorem Mach.setSlice_fresh : (m.setSlice d c x).fresh = m.fresh := rfl
@[simp] theorem Mach.setSlice_reply : (m.setSlice d c x).reply = m.reply := rfl
@[simp] theorem Mach.setSlice_outbox : (m.setSlice d c x).outbox = m.outbox := rfl
end

/-! ### `Mach.setChan` -/

section
variable (m : Mach) (d c : Nat) (x : ChanSt)
@[simp] theorem Mach.setChan_off : (m.setChan d c x).off = m.off := rfl
@[simp] theorem Mach.setChan_strapDone : (m.setChan d c x).strapDone = m.strapDone := rfl
@[simp] theorem Mach.setChan_runBank : (m.setChan d c x).runBank = m.runBank := rfl
@[simp] theorem Mach.setChan_warmDue : (m.setChan d c x).warmDue = m.warmDue := rfl
@[simp] theorem Mach.setChan_regs : (m.setChan d c x).regs = m.regs := rfl
@[simp] theorem Mach.setChan_latches : (m.setChan d c x).latches = m.latches := rfl
@[simp] theorem Mach.setChan_mem : (m.setChan d c x).mem = m.mem := rfl
@[simp] theorem Mach.setChan_syn : (m.setChan d c x).syn = m.syn := rfl
@[simp] theorem Mach.setChan_cores : (m.setChan d c x).cores = m.cores := rfl
@[simp] theorem Mach.setChan_groups : (m.setChan d c x).groups = m.groups := rfl
@[simp] theorem Mach.setChan_clusters : (m.setChan d c x).clusters = m.clusters := rfl
@[simp] theorem Mach.setChan_launches : (m.setChan d c x).launches = m.launches := rfl
@[simp] theorem Mach.setChan_nextLaunch : (m.setChan d c x).nextLaunch = m.nextLaunch := rfl
@[simp] theorem Mach.setChan_reqs : (m.setChan d c x).reqs = m.reqs := rfl
@[simp] theorem Mach.setChan_nextReq : (m.setChan d c x).nextReq = m.nextReq := rfl
@[simp] theorem Mach.setChan_slices : (m.setChan d c x).slices = m.slices := rfl
@[simp] theorem Mach.setChan_lines : (m.setChan d c x).lines = m.lines := rfl
@[simp] theorem Mach.setChan_tints : (m.setChan d c x).tints = m.tints := rfl
@[simp] theorem Mach.setChan_chans : (m.setChan d c x).chans = m.chans.put (d * 64 + c) x := rfl
@[simp] theorem Mach.setChan_net : (m.setChan d c x).net = m.net := rfl
@[simp] theorem Mach.setChan_ports : (m.setChan d c x).ports = m.ports := rfl
@[simp] theorem Mach.setChan_dlinks : (m.setChan d c x).dlinks = m.dlinks := rfl
@[simp] theorem Mach.setChan_neighGen : (m.setChan d c x).neighGen = m.neighGen := rfl
@[simp] theorem Mach.setChan_transit : (m.setChan d c x).transit = m.transit := rfl
@[simp] theorem Mach.setChan_deadNew : (m.setChan d c x).deadNew = m.deadNew := rfl
@[simp] theorem Mach.setChan_route : (m.setChan d c x).route = m.route := rfl
@[simp] theorem Mach.setChan_rerouted : (m.setChan d c x).rerouted = m.rerouted := rfl
@[simp] theorem Mach.setChan_stagedDev : (m.setChan d c x).stagedDev = m.stagedDev := rfl
@[simp] theorem Mach.setChan_queues : (m.setChan d c x).queues = m.queues := rfl
@[simp] theorem Mach.setChan_queueDrr : (m.setChan d c x).queueDrr = m.queueDrr := rfl
@[simp] theorem Mach.setChan_admitted : (m.setChan d c x).admitted = m.admitted := rfl
@[simp] theorem Mach.setChan_semWait : (m.setChan d c x).semWait = m.semWait := rfl
@[simp] theorem Mach.setChan_ranges : (m.setChan d c x).ranges = m.ranges := rfl
@[simp] theorem Mach.setChan_parts : (m.setChan d c x).parts = m.parts := rfl
@[simp] theorem Mach.setChan_dies : (m.setChan d c x).dies = m.dies := rfl
@[simp] theorem Mach.setChan_gates : (m.setChan d c x).gates = m.gates := rfl
@[simp] theorem Mach.setChan_keys : (m.setChan d c x).keys = m.keys := rfl
@[simp] theorem Mach.setChan_slate : (m.setChan d c x).slate = m.slate := rfl
@[simp] theorem Mach.setChan_retired : (m.setChan d c x).retired = m.retired := rfl
@[simp] theorem Mach.setChan_meas : (m.setChan d c x).meas = m.meas := rfl
@[simp] theorem Mach.setChan_staged : (m.setChan d c x).staged = m.staged := rfl
@[simp] theorem Mach.setChan_stageCred : (m.setChan d c x).stageCred = m.stageCred := rfl
@[simp] theorem Mach.setChan_irqPause : (m.setChan d c x).irqPause = m.irqPause := rfl
@[simp] theorem Mach.setChan_irqDue : (m.setChan d c x).irqDue = m.irqDue := rfl
@[simp] theorem Mach.setChan_capHeld : (m.setChan d c x).capHeld = m.capHeld := rfl
@[simp] theorem Mach.setChan_capAt : (m.setChan d c x).capAt = m.capAt := rfl
@[simp] theorem Mach.setChan_refillAt : (m.setChan d c x).refillAt = m.refillAt := rfl
@[simp] theorem Mach.setChan_noticeSeq : (m.setChan d c x).noticeSeq = m.noticeSeq := rfl
@[simp] theorem Mach.setChan_capLow : (m.setChan d c x).capLow = m.capLow := rfl
@[simp] theorem Mach.setChan_capUnder : (m.setChan d c x).capUnder = m.capUnder := rfl
@[simp] theorem Mach.setChan_stageFrom : (m.setChan d c x).stageFrom = m.stageFrom := rfl
@[simp] theorem Mach.setChan_standbyFrom : (m.setChan d c x).standbyFrom = m.standbyFrom := rfl
@[simp] theorem Mach.setChan_lineStamp : (m.setChan d c x).lineStamp = m.lineStamp := rfl
@[simp] theorem Mach.setChan_fresh : (m.setChan d c x).fresh = m.fresh := rfl
@[simp] theorem Mach.setChan_reply : (m.setChan d c x).reply = m.reply := rfl
@[simp] theorem Mach.setChan_outbox : (m.setChan d c x).outbox = m.outbox := rfl
end

/-! ### `Mach.setDie` -/

section
variable (m : Mach) (k : Nat) (x : DieSt)
@[simp] theorem Mach.setDie_off : (m.setDie k x).off = m.off := rfl
@[simp] theorem Mach.setDie_strapDone : (m.setDie k x).strapDone = m.strapDone := rfl
@[simp] theorem Mach.setDie_runBank : (m.setDie k x).runBank = m.runBank := rfl
@[simp] theorem Mach.setDie_warmDue : (m.setDie k x).warmDue = m.warmDue := rfl
@[simp] theorem Mach.setDie_regs : (m.setDie k x).regs = m.regs := rfl
@[simp] theorem Mach.setDie_latches : (m.setDie k x).latches = m.latches := rfl
@[simp] theorem Mach.setDie_mem : (m.setDie k x).mem = m.mem := rfl
@[simp] theorem Mach.setDie_syn : (m.setDie k x).syn = m.syn := rfl
@[simp] theorem Mach.setDie_cores : (m.setDie k x).cores = m.cores := rfl
@[simp] theorem Mach.setDie_groups : (m.setDie k x).groups = m.groups := rfl
@[simp] theorem Mach.setDie_clusters : (m.setDie k x).clusters = m.clusters := rfl
@[simp] theorem Mach.setDie_launches : (m.setDie k x).launches = m.launches := rfl
@[simp] theorem Mach.setDie_nextLaunch : (m.setDie k x).nextLaunch = m.nextLaunch := rfl
@[simp] theorem Mach.setDie_reqs : (m.setDie k x).reqs = m.reqs := rfl
@[simp] theorem Mach.setDie_nextReq : (m.setDie k x).nextReq = m.nextReq := rfl
@[simp] theorem Mach.setDie_slices : (m.setDie k x).slices = m.slices := rfl
@[simp] theorem Mach.setDie_lines : (m.setDie k x).lines = m.lines := rfl
@[simp] theorem Mach.setDie_tints : (m.setDie k x).tints = m.tints := rfl
@[simp] theorem Mach.setDie_chans : (m.setDie k x).chans = m.chans := rfl
@[simp] theorem Mach.setDie_net : (m.setDie k x).net = m.net := rfl
@[simp] theorem Mach.setDie_ports : (m.setDie k x).ports = m.ports := rfl
@[simp] theorem Mach.setDie_dlinks : (m.setDie k x).dlinks = m.dlinks := rfl
@[simp] theorem Mach.setDie_neighGen : (m.setDie k x).neighGen = m.neighGen := rfl
@[simp] theorem Mach.setDie_transit : (m.setDie k x).transit = m.transit := rfl
@[simp] theorem Mach.setDie_deadNew : (m.setDie k x).deadNew = m.deadNew := rfl
@[simp] theorem Mach.setDie_route : (m.setDie k x).route = m.route := rfl
@[simp] theorem Mach.setDie_rerouted : (m.setDie k x).rerouted = m.rerouted := rfl
@[simp] theorem Mach.setDie_stagedDev : (m.setDie k x).stagedDev = m.stagedDev := rfl
@[simp] theorem Mach.setDie_queues : (m.setDie k x).queues = m.queues := rfl
@[simp] theorem Mach.setDie_queueDrr : (m.setDie k x).queueDrr = m.queueDrr := rfl
@[simp] theorem Mach.setDie_admitted : (m.setDie k x).admitted = m.admitted := rfl
@[simp] theorem Mach.setDie_semWait : (m.setDie k x).semWait = m.semWait := rfl
@[simp] theorem Mach.setDie_ranges : (m.setDie k x).ranges = m.ranges := rfl
@[simp] theorem Mach.setDie_parts : (m.setDie k x).parts = m.parts := rfl
@[simp] theorem Mach.setDie_dies : (m.setDie k x).dies = m.dies.put k x := rfl
@[simp] theorem Mach.setDie_gates : (m.setDie k x).gates = m.gates := rfl
@[simp] theorem Mach.setDie_keys : (m.setDie k x).keys = m.keys := rfl
@[simp] theorem Mach.setDie_slate : (m.setDie k x).slate = m.slate := rfl
@[simp] theorem Mach.setDie_retired : (m.setDie k x).retired = m.retired := rfl
@[simp] theorem Mach.setDie_meas : (m.setDie k x).meas = m.meas := rfl
@[simp] theorem Mach.setDie_staged : (m.setDie k x).staged = m.staged := rfl
@[simp] theorem Mach.setDie_stageCred : (m.setDie k x).stageCred = m.stageCred := rfl
@[simp] theorem Mach.setDie_irqPause : (m.setDie k x).irqPause = m.irqPause := rfl
@[simp] theorem Mach.setDie_irqDue : (m.setDie k x).irqDue = m.irqDue := rfl
@[simp] theorem Mach.setDie_capHeld : (m.setDie k x).capHeld = m.capHeld := rfl
@[simp] theorem Mach.setDie_capAt : (m.setDie k x).capAt = m.capAt := rfl
@[simp] theorem Mach.setDie_refillAt : (m.setDie k x).refillAt = m.refillAt := rfl
@[simp] theorem Mach.setDie_noticeSeq : (m.setDie k x).noticeSeq = m.noticeSeq := rfl
@[simp] theorem Mach.setDie_capLow : (m.setDie k x).capLow = m.capLow := rfl
@[simp] theorem Mach.setDie_capUnder : (m.setDie k x).capUnder = m.capUnder := rfl
@[simp] theorem Mach.setDie_stageFrom : (m.setDie k x).stageFrom = m.stageFrom := rfl
@[simp] theorem Mach.setDie_standbyFrom : (m.setDie k x).standbyFrom = m.standbyFrom := rfl
@[simp] theorem Mach.setDie_lineStamp : (m.setDie k x).lineStamp = m.lineStamp := rfl
@[simp] theorem Mach.setDie_fresh : (m.setDie k x).fresh = m.fresh := rfl
@[simp] theorem Mach.setDie_reply : (m.setDie k x).reply = m.reply := rfl
@[simp] theorem Mach.setDie_outbox : (m.setDie k x).outbox = m.outbox := rfl
end

/-! ### `Mach.setPort` -/

section
variable (m : Mach) (k : Nat) (x : PortSt)
@[simp] theorem Mach.setPort_off : (m.setPort k x).off = m.off := rfl
@[simp] theorem Mach.setPort_strapDone : (m.setPort k x).strapDone = m.strapDone := rfl
@[simp] theorem Mach.setPort_runBank : (m.setPort k x).runBank = m.runBank := rfl
@[simp] theorem Mach.setPort_warmDue : (m.setPort k x).warmDue = m.warmDue := rfl
@[simp] theorem Mach.setPort_regs : (m.setPort k x).regs = m.regs := rfl
@[simp] theorem Mach.setPort_latches : (m.setPort k x).latches = m.latches := rfl
@[simp] theorem Mach.setPort_mem : (m.setPort k x).mem = m.mem := rfl
@[simp] theorem Mach.setPort_syn : (m.setPort k x).syn = m.syn := rfl
@[simp] theorem Mach.setPort_cores : (m.setPort k x).cores = m.cores := rfl
@[simp] theorem Mach.setPort_groups : (m.setPort k x).groups = m.groups := rfl
@[simp] theorem Mach.setPort_clusters : (m.setPort k x).clusters = m.clusters := rfl
@[simp] theorem Mach.setPort_launches : (m.setPort k x).launches = m.launches := rfl
@[simp] theorem Mach.setPort_nextLaunch : (m.setPort k x).nextLaunch = m.nextLaunch := rfl
@[simp] theorem Mach.setPort_reqs : (m.setPort k x).reqs = m.reqs := rfl
@[simp] theorem Mach.setPort_nextReq : (m.setPort k x).nextReq = m.nextReq := rfl
@[simp] theorem Mach.setPort_slices : (m.setPort k x).slices = m.slices := rfl
@[simp] theorem Mach.setPort_lines : (m.setPort k x).lines = m.lines := rfl
@[simp] theorem Mach.setPort_tints : (m.setPort k x).tints = m.tints := rfl
@[simp] theorem Mach.setPort_chans : (m.setPort k x).chans = m.chans := rfl
@[simp] theorem Mach.setPort_net : (m.setPort k x).net = m.net := rfl
@[simp] theorem Mach.setPort_ports : (m.setPort k x).ports = m.ports.put k x := rfl
@[simp] theorem Mach.setPort_dlinks : (m.setPort k x).dlinks = m.dlinks := rfl
@[simp] theorem Mach.setPort_neighGen : (m.setPort k x).neighGen = m.neighGen := rfl
@[simp] theorem Mach.setPort_transit : (m.setPort k x).transit = m.transit := rfl
@[simp] theorem Mach.setPort_deadNew : (m.setPort k x).deadNew = m.deadNew := rfl
@[simp] theorem Mach.setPort_route : (m.setPort k x).route = m.route := rfl
@[simp] theorem Mach.setPort_rerouted : (m.setPort k x).rerouted = m.rerouted := rfl
@[simp] theorem Mach.setPort_stagedDev : (m.setPort k x).stagedDev = m.stagedDev := rfl
@[simp] theorem Mach.setPort_queues : (m.setPort k x).queues = m.queues := rfl
@[simp] theorem Mach.setPort_queueDrr : (m.setPort k x).queueDrr = m.queueDrr := rfl
@[simp] theorem Mach.setPort_admitted : (m.setPort k x).admitted = m.admitted := rfl
@[simp] theorem Mach.setPort_semWait : (m.setPort k x).semWait = m.semWait := rfl
@[simp] theorem Mach.setPort_ranges : (m.setPort k x).ranges = m.ranges := rfl
@[simp] theorem Mach.setPort_parts : (m.setPort k x).parts = m.parts := rfl
@[simp] theorem Mach.setPort_dies : (m.setPort k x).dies = m.dies := rfl
@[simp] theorem Mach.setPort_gates : (m.setPort k x).gates = m.gates := rfl
@[simp] theorem Mach.setPort_keys : (m.setPort k x).keys = m.keys := rfl
@[simp] theorem Mach.setPort_slate : (m.setPort k x).slate = m.slate := rfl
@[simp] theorem Mach.setPort_retired : (m.setPort k x).retired = m.retired := rfl
@[simp] theorem Mach.setPort_meas : (m.setPort k x).meas = m.meas := rfl
@[simp] theorem Mach.setPort_staged : (m.setPort k x).staged = m.staged := rfl
@[simp] theorem Mach.setPort_stageCred : (m.setPort k x).stageCred = m.stageCred := rfl
@[simp] theorem Mach.setPort_irqPause : (m.setPort k x).irqPause = m.irqPause := rfl
@[simp] theorem Mach.setPort_irqDue : (m.setPort k x).irqDue = m.irqDue := rfl
@[simp] theorem Mach.setPort_capHeld : (m.setPort k x).capHeld = m.capHeld := rfl
@[simp] theorem Mach.setPort_capAt : (m.setPort k x).capAt = m.capAt := rfl
@[simp] theorem Mach.setPort_refillAt : (m.setPort k x).refillAt = m.refillAt := rfl
@[simp] theorem Mach.setPort_noticeSeq : (m.setPort k x).noticeSeq = m.noticeSeq := rfl
@[simp] theorem Mach.setPort_capLow : (m.setPort k x).capLow = m.capLow := rfl
@[simp] theorem Mach.setPort_capUnder : (m.setPort k x).capUnder = m.capUnder := rfl
@[simp] theorem Mach.setPort_stageFrom : (m.setPort k x).stageFrom = m.stageFrom := rfl
@[simp] theorem Mach.setPort_standbyFrom : (m.setPort k x).standbyFrom = m.standbyFrom := rfl
@[simp] theorem Mach.setPort_lineStamp : (m.setPort k x).lineStamp = m.lineStamp := rfl
@[simp] theorem Mach.setPort_fresh : (m.setPort k x).fresh = m.fresh := rfl
@[simp] theorem Mach.setPort_reply : (m.setPort k x).reply = m.reply := rfl
@[simp] theorem Mach.setPort_outbox : (m.setPort k x).outbox = m.outbox := rfl
end

/-! ### `Mach.setQueue` -/

section
variable (m : Mach) (k : Nat) (x : QueueSt)
@[simp] theorem Mach.setQueue_off : (m.setQueue k x).off = m.off := rfl
@[simp] theorem Mach.setQueue_strapDone : (m.setQueue k x).strapDone = m.strapDone := rfl
@[simp] theorem Mach.setQueue_runBank : (m.setQueue k x).runBank = m.runBank := rfl
@[simp] theorem Mach.setQueue_warmDue : (m.setQueue k x).warmDue = m.warmDue := rfl
@[simp] theorem Mach.setQueue_regs : (m.setQueue k x).regs = m.regs := rfl
@[simp] theorem Mach.setQueue_latches : (m.setQueue k x).latches = m.latches := rfl
@[simp] theorem Mach.setQueue_mem : (m.setQueue k x).mem = m.mem := rfl
@[simp] theorem Mach.setQueue_syn : (m.setQueue k x).syn = m.syn := rfl
@[simp] theorem Mach.setQueue_cores : (m.setQueue k x).cores = m.cores := rfl
@[simp] theorem Mach.setQueue_groups : (m.setQueue k x).groups = m.groups := rfl
@[simp] theorem Mach.setQueue_clusters : (m.setQueue k x).clusters = m.clusters := rfl
@[simp] theorem Mach.setQueue_launches : (m.setQueue k x).launches = m.launches := rfl
@[simp] theorem Mach.setQueue_nextLaunch : (m.setQueue k x).nextLaunch = m.nextLaunch := rfl
@[simp] theorem Mach.setQueue_reqs : (m.setQueue k x).reqs = m.reqs := rfl
@[simp] theorem Mach.setQueue_nextReq : (m.setQueue k x).nextReq = m.nextReq := rfl
@[simp] theorem Mach.setQueue_slices : (m.setQueue k x).slices = m.slices := rfl
@[simp] theorem Mach.setQueue_lines : (m.setQueue k x).lines = m.lines := rfl
@[simp] theorem Mach.setQueue_tints : (m.setQueue k x).tints = m.tints := rfl
@[simp] theorem Mach.setQueue_chans : (m.setQueue k x).chans = m.chans := rfl
@[simp] theorem Mach.setQueue_net : (m.setQueue k x).net = m.net := rfl
@[simp] theorem Mach.setQueue_ports : (m.setQueue k x).ports = m.ports := rfl
@[simp] theorem Mach.setQueue_dlinks : (m.setQueue k x).dlinks = m.dlinks := rfl
@[simp] theorem Mach.setQueue_neighGen : (m.setQueue k x).neighGen = m.neighGen := rfl
@[simp] theorem Mach.setQueue_transit : (m.setQueue k x).transit = m.transit := rfl
@[simp] theorem Mach.setQueue_deadNew : (m.setQueue k x).deadNew = m.deadNew := rfl
@[simp] theorem Mach.setQueue_route : (m.setQueue k x).route = m.route := rfl
@[simp] theorem Mach.setQueue_rerouted : (m.setQueue k x).rerouted = m.rerouted := rfl
@[simp] theorem Mach.setQueue_stagedDev : (m.setQueue k x).stagedDev = m.stagedDev := rfl
@[simp] theorem Mach.setQueue_queues : (m.setQueue k x).queues = m.queues.put k x := rfl
@[simp] theorem Mach.setQueue_queueDrr : (m.setQueue k x).queueDrr = m.queueDrr := rfl
@[simp] theorem Mach.setQueue_admitted : (m.setQueue k x).admitted = m.admitted := rfl
@[simp] theorem Mach.setQueue_semWait : (m.setQueue k x).semWait = m.semWait := rfl
@[simp] theorem Mach.setQueue_ranges : (m.setQueue k x).ranges = m.ranges := rfl
@[simp] theorem Mach.setQueue_parts : (m.setQueue k x).parts = m.parts := rfl
@[simp] theorem Mach.setQueue_dies : (m.setQueue k x).dies = m.dies := rfl
@[simp] theorem Mach.setQueue_gates : (m.setQueue k x).gates = m.gates := rfl
@[simp] theorem Mach.setQueue_keys : (m.setQueue k x).keys = m.keys := rfl
@[simp] theorem Mach.setQueue_slate : (m.setQueue k x).slate = m.slate := rfl
@[simp] theorem Mach.setQueue_retired : (m.setQueue k x).retired = m.retired := rfl
@[simp] theorem Mach.setQueue_meas : (m.setQueue k x).meas = m.meas := rfl
@[simp] theorem Mach.setQueue_staged : (m.setQueue k x).staged = m.staged := rfl
@[simp] theorem Mach.setQueue_stageCred : (m.setQueue k x).stageCred = m.stageCred := rfl
@[simp] theorem Mach.setQueue_irqPause : (m.setQueue k x).irqPause = m.irqPause := rfl
@[simp] theorem Mach.setQueue_irqDue : (m.setQueue k x).irqDue = m.irqDue := rfl
@[simp] theorem Mach.setQueue_capHeld : (m.setQueue k x).capHeld = m.capHeld := rfl
@[simp] theorem Mach.setQueue_capAt : (m.setQueue k x).capAt = m.capAt := rfl
@[simp] theorem Mach.setQueue_refillAt : (m.setQueue k x).refillAt = m.refillAt := rfl
@[simp] theorem Mach.setQueue_noticeSeq : (m.setQueue k x).noticeSeq = m.noticeSeq := rfl
@[simp] theorem Mach.setQueue_capLow : (m.setQueue k x).capLow = m.capLow := rfl
@[simp] theorem Mach.setQueue_capUnder : (m.setQueue k x).capUnder = m.capUnder := rfl
@[simp] theorem Mach.setQueue_stageFrom : (m.setQueue k x).stageFrom = m.stageFrom := rfl
@[simp] theorem Mach.setQueue_standbyFrom : (m.setQueue k x).standbyFrom = m.standbyFrom := rfl
@[simp] theorem Mach.setQueue_lineStamp : (m.setQueue k x).lineStamp = m.lineStamp := rfl
@[simp] theorem Mach.setQueue_fresh : (m.setQueue k x).fresh = m.fresh := rfl
@[simp] theorem Mach.setQueue_reply : (m.setQueue k x).reply = m.reply := rfl
@[simp] theorem Mach.setQueue_outbox : (m.setQueue k x).outbox = m.outbox := rfl
end

/-! ### `Mach.setPart` -/

section
variable (m : Mach) (k : Nat) (x : PartSt)
@[simp] theorem Mach.setPart_off : (m.setPart k x).off = m.off := rfl
@[simp] theorem Mach.setPart_strapDone : (m.setPart k x).strapDone = m.strapDone := rfl
@[simp] theorem Mach.setPart_runBank : (m.setPart k x).runBank = m.runBank := rfl
@[simp] theorem Mach.setPart_warmDue : (m.setPart k x).warmDue = m.warmDue := rfl
@[simp] theorem Mach.setPart_regs : (m.setPart k x).regs = m.regs := rfl
@[simp] theorem Mach.setPart_latches : (m.setPart k x).latches = m.latches := rfl
@[simp] theorem Mach.setPart_mem : (m.setPart k x).mem = m.mem := rfl
@[simp] theorem Mach.setPart_syn : (m.setPart k x).syn = m.syn := rfl
@[simp] theorem Mach.setPart_cores : (m.setPart k x).cores = m.cores := rfl
@[simp] theorem Mach.setPart_groups : (m.setPart k x).groups = m.groups := rfl
@[simp] theorem Mach.setPart_clusters : (m.setPart k x).clusters = m.clusters := rfl
@[simp] theorem Mach.setPart_launches : (m.setPart k x).launches = m.launches := rfl
@[simp] theorem Mach.setPart_nextLaunch : (m.setPart k x).nextLaunch = m.nextLaunch := rfl
@[simp] theorem Mach.setPart_reqs : (m.setPart k x).reqs = m.reqs := rfl
@[simp] theorem Mach.setPart_nextReq : (m.setPart k x).nextReq = m.nextReq := rfl
@[simp] theorem Mach.setPart_slices : (m.setPart k x).slices = m.slices := rfl
@[simp] theorem Mach.setPart_lines : (m.setPart k x).lines = m.lines := rfl
@[simp] theorem Mach.setPart_tints : (m.setPart k x).tints = m.tints := rfl
@[simp] theorem Mach.setPart_chans : (m.setPart k x).chans = m.chans := rfl
@[simp] theorem Mach.setPart_net : (m.setPart k x).net = m.net := rfl
@[simp] theorem Mach.setPart_ports : (m.setPart k x).ports = m.ports := rfl
@[simp] theorem Mach.setPart_dlinks : (m.setPart k x).dlinks = m.dlinks := rfl
@[simp] theorem Mach.setPart_neighGen : (m.setPart k x).neighGen = m.neighGen := rfl
@[simp] theorem Mach.setPart_transit : (m.setPart k x).transit = m.transit := rfl
@[simp] theorem Mach.setPart_deadNew : (m.setPart k x).deadNew = m.deadNew := rfl
@[simp] theorem Mach.setPart_route : (m.setPart k x).route = m.route := rfl
@[simp] theorem Mach.setPart_rerouted : (m.setPart k x).rerouted = m.rerouted := rfl
@[simp] theorem Mach.setPart_stagedDev : (m.setPart k x).stagedDev = m.stagedDev := rfl
@[simp] theorem Mach.setPart_queues : (m.setPart k x).queues = m.queues := rfl
@[simp] theorem Mach.setPart_queueDrr : (m.setPart k x).queueDrr = m.queueDrr := rfl
@[simp] theorem Mach.setPart_admitted : (m.setPart k x).admitted = m.admitted := rfl
@[simp] theorem Mach.setPart_semWait : (m.setPart k x).semWait = m.semWait := rfl
@[simp] theorem Mach.setPart_ranges : (m.setPart k x).ranges = m.ranges := rfl
@[simp] theorem Mach.setPart_parts : (m.setPart k x).parts = m.parts.put k x := rfl
@[simp] theorem Mach.setPart_dies : (m.setPart k x).dies = m.dies := rfl
@[simp] theorem Mach.setPart_gates : (m.setPart k x).gates = m.gates := rfl
@[simp] theorem Mach.setPart_keys : (m.setPart k x).keys = m.keys := rfl
@[simp] theorem Mach.setPart_slate : (m.setPart k x).slate = m.slate := rfl
@[simp] theorem Mach.setPart_retired : (m.setPart k x).retired = m.retired := rfl
@[simp] theorem Mach.setPart_meas : (m.setPart k x).meas = m.meas := rfl
@[simp] theorem Mach.setPart_staged : (m.setPart k x).staged = m.staged := rfl
@[simp] theorem Mach.setPart_stageCred : (m.setPart k x).stageCred = m.stageCred := rfl
@[simp] theorem Mach.setPart_irqPause : (m.setPart k x).irqPause = m.irqPause := rfl
@[simp] theorem Mach.setPart_irqDue : (m.setPart k x).irqDue = m.irqDue := rfl
@[simp] theorem Mach.setPart_capHeld : (m.setPart k x).capHeld = m.capHeld := rfl
@[simp] theorem Mach.setPart_capAt : (m.setPart k x).capAt = m.capAt := rfl
@[simp] theorem Mach.setPart_refillAt : (m.setPart k x).refillAt = m.refillAt := rfl
@[simp] theorem Mach.setPart_noticeSeq : (m.setPart k x).noticeSeq = m.noticeSeq := rfl
@[simp] theorem Mach.setPart_capLow : (m.setPart k x).capLow = m.capLow := rfl
@[simp] theorem Mach.setPart_capUnder : (m.setPart k x).capUnder = m.capUnder := rfl
@[simp] theorem Mach.setPart_stageFrom : (m.setPart k x).stageFrom = m.stageFrom := rfl
@[simp] theorem Mach.setPart_standbyFrom : (m.setPart k x).standbyFrom = m.standbyFrom := rfl
@[simp] theorem Mach.setPart_lineStamp : (m.setPart k x).lineStamp = m.lineStamp := rfl
@[simp] theorem Mach.setPart_fresh : (m.setPart k x).fresh = m.fresh := rfl
@[simp] theorem Mach.setPart_reply : (m.setPart k x).reply = m.reply := rfl
@[simp] theorem Mach.setPart_outbox : (m.setPart k x).outbox = m.outbox := rfl
end

/-! ### `Mach.setKey` -/

section
variable (m : Mach) (k : Nat) (x : KeySlot)
@[simp] theorem Mach.setKey_off : (m.setKey k x).off = m.off := rfl
@[simp] theorem Mach.setKey_strapDone : (m.setKey k x).strapDone = m.strapDone := rfl
@[simp] theorem Mach.setKey_runBank : (m.setKey k x).runBank = m.runBank := rfl
@[simp] theorem Mach.setKey_warmDue : (m.setKey k x).warmDue = m.warmDue := rfl
@[simp] theorem Mach.setKey_regs : (m.setKey k x).regs = m.regs := rfl
@[simp] theorem Mach.setKey_latches : (m.setKey k x).latches = m.latches := rfl
@[simp] theorem Mach.setKey_mem : (m.setKey k x).mem = m.mem := rfl
@[simp] theorem Mach.setKey_syn : (m.setKey k x).syn = m.syn := rfl
@[simp] theorem Mach.setKey_cores : (m.setKey k x).cores = m.cores := rfl
@[simp] theorem Mach.setKey_groups : (m.setKey k x).groups = m.groups := rfl
@[simp] theorem Mach.setKey_clusters : (m.setKey k x).clusters = m.clusters := rfl
@[simp] theorem Mach.setKey_launches : (m.setKey k x).launches = m.launches := rfl
@[simp] theorem Mach.setKey_nextLaunch : (m.setKey k x).nextLaunch = m.nextLaunch := rfl
@[simp] theorem Mach.setKey_reqs : (m.setKey k x).reqs = m.reqs := rfl
@[simp] theorem Mach.setKey_nextReq : (m.setKey k x).nextReq = m.nextReq := rfl
@[simp] theorem Mach.setKey_slices : (m.setKey k x).slices = m.slices := rfl
@[simp] theorem Mach.setKey_lines : (m.setKey k x).lines = m.lines := rfl
@[simp] theorem Mach.setKey_tints : (m.setKey k x).tints = m.tints := rfl
@[simp] theorem Mach.setKey_chans : (m.setKey k x).chans = m.chans := rfl
@[simp] theorem Mach.setKey_net : (m.setKey k x).net = m.net := rfl
@[simp] theorem Mach.setKey_ports : (m.setKey k x).ports = m.ports := rfl
@[simp] theorem Mach.setKey_dlinks : (m.setKey k x).dlinks = m.dlinks := rfl
@[simp] theorem Mach.setKey_neighGen : (m.setKey k x).neighGen = m.neighGen := rfl
@[simp] theorem Mach.setKey_transit : (m.setKey k x).transit = m.transit := rfl
@[simp] theorem Mach.setKey_deadNew : (m.setKey k x).deadNew = m.deadNew := rfl
@[simp] theorem Mach.setKey_route : (m.setKey k x).route = m.route := rfl
@[simp] theorem Mach.setKey_rerouted : (m.setKey k x).rerouted = m.rerouted := rfl
@[simp] theorem Mach.setKey_stagedDev : (m.setKey k x).stagedDev = m.stagedDev := rfl
@[simp] theorem Mach.setKey_queues : (m.setKey k x).queues = m.queues := rfl
@[simp] theorem Mach.setKey_queueDrr : (m.setKey k x).queueDrr = m.queueDrr := rfl
@[simp] theorem Mach.setKey_admitted : (m.setKey k x).admitted = m.admitted := rfl
@[simp] theorem Mach.setKey_semWait : (m.setKey k x).semWait = m.semWait := rfl
@[simp] theorem Mach.setKey_ranges : (m.setKey k x).ranges = m.ranges := rfl
@[simp] theorem Mach.setKey_parts : (m.setKey k x).parts = m.parts := rfl
@[simp] theorem Mach.setKey_dies : (m.setKey k x).dies = m.dies := rfl
@[simp] theorem Mach.setKey_gates : (m.setKey k x).gates = m.gates := rfl
@[simp] theorem Mach.setKey_keys : (m.setKey k x).keys = m.keys.put k x := rfl
@[simp] theorem Mach.setKey_slate : (m.setKey k x).slate = m.slate := rfl
@[simp] theorem Mach.setKey_retired : (m.setKey k x).retired = m.retired := rfl
@[simp] theorem Mach.setKey_meas : (m.setKey k x).meas = m.meas := rfl
@[simp] theorem Mach.setKey_staged : (m.setKey k x).staged = m.staged := rfl
@[simp] theorem Mach.setKey_stageCred : (m.setKey k x).stageCred = m.stageCred := rfl
@[simp] theorem Mach.setKey_irqPause : (m.setKey k x).irqPause = m.irqPause := rfl
@[simp] theorem Mach.setKey_irqDue : (m.setKey k x).irqDue = m.irqDue := rfl
@[simp] theorem Mach.setKey_capHeld : (m.setKey k x).capHeld = m.capHeld := rfl
@[simp] theorem Mach.setKey_capAt : (m.setKey k x).capAt = m.capAt := rfl
@[simp] theorem Mach.setKey_refillAt : (m.setKey k x).refillAt = m.refillAt := rfl
@[simp] theorem Mach.setKey_noticeSeq : (m.setKey k x).noticeSeq = m.noticeSeq := rfl
@[simp] theorem Mach.setKey_capLow : (m.setKey k x).capLow = m.capLow := rfl
@[simp] theorem Mach.setKey_capUnder : (m.setKey k x).capUnder = m.capUnder := rfl
@[simp] theorem Mach.setKey_stageFrom : (m.setKey k x).stageFrom = m.stageFrom := rfl
@[simp] theorem Mach.setKey_standbyFrom : (m.setKey k x).standbyFrom = m.standbyFrom := rfl
@[simp] theorem Mach.setKey_lineStamp : (m.setKey k x).lineStamp = m.lineStamp := rfl
@[simp] theorem Mach.setKey_fresh : (m.setKey k x).fresh = m.fresh := rfl
@[simp] theorem Mach.setKey_reply : (m.setKey k x).reply = m.reply := rfl
@[simp] theorem Mach.setKey_outbox : (m.setKey k x).outbox = m.outbox := rfl
end

/-! ### `Mach.emit` -/

section
variable (m : Mach) (x : OutMsg)
@[simp] theorem Mach.emit_off : (m.emit x).off = m.off := rfl
@[simp] theorem Mach.emit_strapDone : (m.emit x).strapDone = m.strapDone := rfl
@[simp] theorem Mach.emit_runBank : (m.emit x).runBank = m.runBank := rfl
@[simp] theorem Mach.emit_warmDue : (m.emit x).warmDue = m.warmDue := rfl
@[simp] theorem Mach.emit_regs : (m.emit x).regs = m.regs := rfl
@[simp] theorem Mach.emit_latches : (m.emit x).latches = m.latches := rfl
@[simp] theorem Mach.emit_mem : (m.emit x).mem = m.mem := rfl
@[simp] theorem Mach.emit_syn : (m.emit x).syn = m.syn := rfl
@[simp] theorem Mach.emit_cores : (m.emit x).cores = m.cores := rfl
@[simp] theorem Mach.emit_groups : (m.emit x).groups = m.groups := rfl
@[simp] theorem Mach.emit_clusters : (m.emit x).clusters = m.clusters := rfl
@[simp] theorem Mach.emit_launches : (m.emit x).launches = m.launches := rfl
@[simp] theorem Mach.emit_nextLaunch : (m.emit x).nextLaunch = m.nextLaunch := rfl
@[simp] theorem Mach.emit_reqs : (m.emit x).reqs = m.reqs := rfl
@[simp] theorem Mach.emit_nextReq : (m.emit x).nextReq = m.nextReq := rfl
@[simp] theorem Mach.emit_slices : (m.emit x).slices = m.slices := rfl
@[simp] theorem Mach.emit_lines : (m.emit x).lines = m.lines := rfl
@[simp] theorem Mach.emit_tints : (m.emit x).tints = m.tints := rfl
@[simp] theorem Mach.emit_chans : (m.emit x).chans = m.chans := rfl
@[simp] theorem Mach.emit_net : (m.emit x).net = m.net := rfl
@[simp] theorem Mach.emit_ports : (m.emit x).ports = m.ports := rfl
@[simp] theorem Mach.emit_dlinks : (m.emit x).dlinks = m.dlinks := rfl
@[simp] theorem Mach.emit_neighGen : (m.emit x).neighGen = m.neighGen := rfl
@[simp] theorem Mach.emit_transit : (m.emit x).transit = m.transit := rfl
@[simp] theorem Mach.emit_deadNew : (m.emit x).deadNew = m.deadNew := rfl
@[simp] theorem Mach.emit_route : (m.emit x).route = m.route := rfl
@[simp] theorem Mach.emit_rerouted : (m.emit x).rerouted = m.rerouted := rfl
@[simp] theorem Mach.emit_stagedDev : (m.emit x).stagedDev = m.stagedDev := rfl
@[simp] theorem Mach.emit_queues : (m.emit x).queues = m.queues := rfl
@[simp] theorem Mach.emit_queueDrr : (m.emit x).queueDrr = m.queueDrr := rfl
@[simp] theorem Mach.emit_admitted : (m.emit x).admitted = m.admitted := rfl
@[simp] theorem Mach.emit_semWait : (m.emit x).semWait = m.semWait := rfl
@[simp] theorem Mach.emit_ranges : (m.emit x).ranges = m.ranges := rfl
@[simp] theorem Mach.emit_parts : (m.emit x).parts = m.parts := rfl
@[simp] theorem Mach.emit_dies : (m.emit x).dies = m.dies := rfl
@[simp] theorem Mach.emit_gates : (m.emit x).gates = m.gates := rfl
@[simp] theorem Mach.emit_keys : (m.emit x).keys = m.keys := rfl
@[simp] theorem Mach.emit_slate : (m.emit x).slate = m.slate := rfl
@[simp] theorem Mach.emit_retired : (m.emit x).retired = m.retired := rfl
@[simp] theorem Mach.emit_meas : (m.emit x).meas = m.meas := rfl
@[simp] theorem Mach.emit_staged : (m.emit x).staged = m.staged := rfl
@[simp] theorem Mach.emit_stageCred : (m.emit x).stageCred = m.stageCred := rfl
@[simp] theorem Mach.emit_irqPause : (m.emit x).irqPause = m.irqPause := rfl
@[simp] theorem Mach.emit_irqDue : (m.emit x).irqDue = m.irqDue := rfl
@[simp] theorem Mach.emit_capHeld : (m.emit x).capHeld = m.capHeld := rfl
@[simp] theorem Mach.emit_capAt : (m.emit x).capAt = m.capAt := rfl
@[simp] theorem Mach.emit_refillAt : (m.emit x).refillAt = m.refillAt := rfl
@[simp] theorem Mach.emit_noticeSeq : (m.emit x).noticeSeq = m.noticeSeq := rfl
@[simp] theorem Mach.emit_capLow : (m.emit x).capLow = m.capLow := rfl
@[simp] theorem Mach.emit_capUnder : (m.emit x).capUnder = m.capUnder := rfl
@[simp] theorem Mach.emit_stageFrom : (m.emit x).stageFrom = m.stageFrom := rfl
@[simp] theorem Mach.emit_standbyFrom : (m.emit x).standbyFrom = m.standbyFrom := rfl
@[simp] theorem Mach.emit_lineStamp : (m.emit x).lineStamp = m.lineStamp := rfl
@[simp] theorem Mach.emit_fresh : (m.emit x).fresh = m.fresh := rfl
@[simp] theorem Mach.emit_reply : (m.emit x).reply = m.reply := rfl
@[simp] theorem Mach.emit_outbox : (m.emit x).outbox = m.outbox ++ [x] := rfl
end

/-! ### `Mach.answer` -/

section
variable (m : Mach) (st : Status) (d : W64)
@[simp] theorem Mach.answer_off : (m.answer st d).off = m.off := rfl
@[simp] theorem Mach.answer_strapDone : (m.answer st d).strapDone = m.strapDone := rfl
@[simp] theorem Mach.answer_runBank : (m.answer st d).runBank = m.runBank := rfl
@[simp] theorem Mach.answer_warmDue : (m.answer st d).warmDue = m.warmDue := rfl
@[simp] theorem Mach.answer_regs : (m.answer st d).regs = m.regs := rfl
@[simp] theorem Mach.answer_latches : (m.answer st d).latches = m.latches := rfl
@[simp] theorem Mach.answer_mem : (m.answer st d).mem = m.mem := rfl
@[simp] theorem Mach.answer_syn : (m.answer st d).syn = m.syn := rfl
@[simp] theorem Mach.answer_cores : (m.answer st d).cores = m.cores := rfl
@[simp] theorem Mach.answer_groups : (m.answer st d).groups = m.groups := rfl
@[simp] theorem Mach.answer_clusters : (m.answer st d).clusters = m.clusters := rfl
@[simp] theorem Mach.answer_launches : (m.answer st d).launches = m.launches := rfl
@[simp] theorem Mach.answer_nextLaunch : (m.answer st d).nextLaunch = m.nextLaunch := rfl
@[simp] theorem Mach.answer_reqs : (m.answer st d).reqs = m.reqs := rfl
@[simp] theorem Mach.answer_nextReq : (m.answer st d).nextReq = m.nextReq := rfl
@[simp] theorem Mach.answer_slices : (m.answer st d).slices = m.slices := rfl
@[simp] theorem Mach.answer_lines : (m.answer st d).lines = m.lines := rfl
@[simp] theorem Mach.answer_tints : (m.answer st d).tints = m.tints := rfl
@[simp] theorem Mach.answer_chans : (m.answer st d).chans = m.chans := rfl
@[simp] theorem Mach.answer_net : (m.answer st d).net = m.net := rfl
@[simp] theorem Mach.answer_ports : (m.answer st d).ports = m.ports := rfl
@[simp] theorem Mach.answer_dlinks : (m.answer st d).dlinks = m.dlinks := rfl
@[simp] theorem Mach.answer_neighGen : (m.answer st d).neighGen = m.neighGen := rfl
@[simp] theorem Mach.answer_transit : (m.answer st d).transit = m.transit := rfl
@[simp] theorem Mach.answer_deadNew : (m.answer st d).deadNew = m.deadNew := rfl
@[simp] theorem Mach.answer_route : (m.answer st d).route = m.route := rfl
@[simp] theorem Mach.answer_rerouted : (m.answer st d).rerouted = m.rerouted := rfl
@[simp] theorem Mach.answer_stagedDev : (m.answer st d).stagedDev = m.stagedDev := rfl
@[simp] theorem Mach.answer_queues : (m.answer st d).queues = m.queues := rfl
@[simp] theorem Mach.answer_queueDrr : (m.answer st d).queueDrr = m.queueDrr := rfl
@[simp] theorem Mach.answer_admitted : (m.answer st d).admitted = m.admitted := rfl
@[simp] theorem Mach.answer_semWait : (m.answer st d).semWait = m.semWait := rfl
@[simp] theorem Mach.answer_ranges : (m.answer st d).ranges = m.ranges := rfl
@[simp] theorem Mach.answer_parts : (m.answer st d).parts = m.parts := rfl
@[simp] theorem Mach.answer_dies : (m.answer st d).dies = m.dies := rfl
@[simp] theorem Mach.answer_gates : (m.answer st d).gates = m.gates := rfl
@[simp] theorem Mach.answer_keys : (m.answer st d).keys = m.keys := rfl
@[simp] theorem Mach.answer_slate : (m.answer st d).slate = m.slate := rfl
@[simp] theorem Mach.answer_retired : (m.answer st d).retired = m.retired := rfl
@[simp] theorem Mach.answer_meas : (m.answer st d).meas = m.meas := rfl
@[simp] theorem Mach.answer_staged : (m.answer st d).staged = m.staged := rfl
@[simp] theorem Mach.answer_stageCred : (m.answer st d).stageCred = m.stageCred := rfl
@[simp] theorem Mach.answer_irqPause : (m.answer st d).irqPause = m.irqPause := rfl
@[simp] theorem Mach.answer_irqDue : (m.answer st d).irqDue = m.irqDue := rfl
@[simp] theorem Mach.answer_capHeld : (m.answer st d).capHeld = m.capHeld := rfl
@[simp] theorem Mach.answer_capAt : (m.answer st d).capAt = m.capAt := rfl
@[simp] theorem Mach.answer_refillAt : (m.answer st d).refillAt = m.refillAt := rfl
@[simp] theorem Mach.answer_noticeSeq : (m.answer st d).noticeSeq = m.noticeSeq := rfl
@[simp] theorem Mach.answer_capLow : (m.answer st d).capLow = m.capLow := rfl
@[simp] theorem Mach.answer_capUnder : (m.answer st d).capUnder = m.capUnder := rfl
@[simp] theorem Mach.answer_stageFrom : (m.answer st d).stageFrom = m.stageFrom := rfl
@[simp] theorem Mach.answer_standbyFrom : (m.answer st d).standbyFrom = m.standbyFrom := rfl
@[simp] theorem Mach.answer_lineStamp : (m.answer st d).lineStamp = m.lineStamp := rfl
@[simp] theorem Mach.answer_fresh : (m.answer st d).fresh = m.fresh := rfl
@[simp] theorem Mach.answer_reply : (m.answer st d).reply = some ⟨st, d⟩ := rfl
@[simp] theorem Mach.answer_outbox : (m.answer st d).outbox = m.outbox := rfl
end

/-! ### Words of control space -/

/-- The word at an address after a write of one. -/
theorem Mach.rd_wr (m : Mach) (a b : Nat) (x : W32) : (m.wr a x).rd b = if a = b then x else m.rd b := by
  unfold Mach.rd
  rw [Mach.wr_regs, Tab.get_put]

@[simp] theorem Mach.rd_wr_self (m : Mach) (a : Nat) (x : W32) : (m.wr a x).rd a = x := by simp [Mach.rd_wr]

theorem Mach.rd_wr_ne (m : Mach) {a b : Nat} (x : W32) (h : a ≠ b) : (m.wr a x).rd b = m.rd b := by simp [Mach.rd_wr, h]

/-- The group of a core after another is set. -/
theorem Mach.group?_setGroup (m : Mach) (k g k' g' : Nat) (x : Group) :
    (m.setGroup k g x).group? k' g' = if k * 8 + g = k' * 8 + g' then some x else m.group? k' g' := by
  unfold Mach.group?
  rw [Mach.setGroup_groups, Tab.get?_put]

@[simp] theorem Mach.group?_setGroup_self (m : Mach) (k g : Nat) (x : Group) : (m.setGroup k g x).group? k g = some x := by
  simp [Mach.group?_setGroup]

@[simp] theorem Mach.core_setCore_self (m : Mach) (k : Nat) (x : Core) : (m.setCore k x).core k = x := by
  simp [Mach.core]

@[simp] theorem Mach.queue_setQueue_self (m : Mach) (k : Nat) (x : QueueSt) : (m.setQueue k x).queue k = x := by
  simp [Mach.queue]

@[simp] theorem Mach.part_setPart_self (m : Mach) (k : Nat) (x : PartSt) : (m.setPart k x).part k = x := by
  simp [Mach.part]

@[simp] theorem Mach.port_setPort_self (m : Mach) (k : Nat) (x : PortSt) : (m.setPort k x).port k = x := by
  simp [Mach.port]

end Sys2Proof.Machine
end

