-- ==== Sys2Proof/Laws/Issue.lean ====
section
/-! SUPPORT. What issuing an instruction does, said once: the counters of a step, and the outcome of an instruction that only
changes its group's registers. -/
namespace Sys2Proof.Machine

/-- The machine with other control words. -/
def Mach.withRegs (m : Mach) (r : Tab W32) : Mach := { m with regs := r }

/-- Two machines that differ at most in performance counters. -/
def SameButCounters (m n : Mach) : Prop := n = m.withRegs n.regs ∧ ∀ a, counterWord a = false → n.rd a = m.rd a

theorem SameButCounters.refl (m : Mach) : SameButCounters m m := ⟨rfl, fun _ _ => rfl⟩

theorem SameButCounters.trans {m n o : Mach} (h : SameButCounters m n) (k : SameButCounters n o) : SameButCounters m o := by
  refine ⟨?_, fun a ha => (k.2 a ha).trans (h.2 a ha)⟩
  have h1 := k.1
  rw [h.1] at h1
  exact h1

theorem counterWord_of {die k : Nat} (hk : k < 16) (i : Nat) (hi : i < 8) :
    counterWord (at_ die (Reg.DBG_CNT_VAL + 0x10 * k) + i) = true := by
  have h : (at_ die (Reg.DBG_CNT_VAL + 0x10 * k) + i) % dieSpan = Reg.DBG_CNT_VAL + 0x10 * k + i := by
    unfold at_ dieSpan Reg.DBG_CNT_VAL
    omega
  unfold counterWord
  rw [h]
  unfold Reg.DBG_CNT_VAL
  have h1 : 33554696 ≤ 33554696 + 16 * k + i := by omega
  have h2 : 33554696 + 16 * k + i < 33554696 + 256 := by omega
  have h3 : (33554696 + 16 * k + i - 33554696) % 16 < 8 := by omega
  rw [decide_eq_true h1, decide_eq_true h2, decide_eq_true h3]
  rfl

theorem count64_sameButCounters (m : Mach) (die k n : Nat) (hk : k < 16) :
    SameButCounters m (m.count64 (at_ die (Reg.DBG_CNT_VAL + 0x10 * k)) n) := by
  refine ⟨rfl, fun a ha => ?_⟩
  unfold Mach.count64 Mach.wr64
  have h0 := counterWord_of (die := die) hk 0 (by omega)
  have h4 := counterWord_of (die := die) hk 4 (by omega)
  rw [Nat.add_zero] at h0
  rw [Mach.rd_wr_ne, Mach.rd_wr_ne]
  · rintro rfl
    exact Bool.noConfusion (h0.symm.trans ha)
  · rintro rfl
    exact Bool.noConfusion (h4.symm.trans ha)

theorem foldl_sameButCounters (f : Mach → Nat → Mach) (l : List Nat) (m : Mach)
    (h : ∀ n k, k ∈ l → SameButCounters n (f n k)) : SameButCounters m (l.foldl f m) := by
  induction l generalizing m with
  | nil => exact .refl m
  | cons k l ih =>
    exact (h m k (by simp)).trans (ih (f m k) fun n j hj => h n j (by simp [hj]))

/-- Counting an event changes performance counters alone (R505). -/
theorem event_sameButCounters (m : Mach) (slot ev n : Nat) : SameButCounters m (m.event slot ev n) := by
  unfold Mach.event
  dsimp only
  split
  · exact .refl m
  · refine foldl_sameButCounters _ _ _ fun m' k hk => ?_
    rw [List.mem_range] at hk
    split
    · exact count64_sameButCounters _ _ _ _ hk
    · exact .refl _

/-- The core and the launch counted on by one step. -/
def Mach.stepped (m : Mach) (slot g : Nat) : Mach :=
  match (m.core slot).launch with
  | some l => (m.setCore slot ((m.core slot).stepped g)).updLaunch l fun y => { y with steps := y.steps + 1 }
  | none => m.setCore slot ((m.core slot).stepped g)

theorem stepCore_sameButCounters (m : Mach) (slot g : Nat) : SameButCounters (m.stepped slot g) (m.stepCore slot g) := by
  unfold Mach.stepCore Mach.stepped Core.stepped
  dsimp only
  generalize (m.core slot).launch = o
  cases o with
  | none =>
    dsimp only
    split
    · exact ((event_sameButCounters _ _ _ _).trans (event_sameButCounters _ _ _ _)).trans (event_sameButCounters _ _ _ _)
    · exact (event_sameButCounters _ _ _ _).trans (event_sameButCounters _ _ _ _)
  | some l =>
    dsimp only
    split
    · exact ((event_sameButCounters _ _ _ _).trans (event_sameButCounters _ _ _ _)).trans (event_sameButCounters _ _ _ _)
    · exact (event_sameButCounters _ _ _ _).trans (event_sameButCounters _ _ _ _)

/-- What a core's step does (R38, R384, R505). -/
theorem stepCore_spec (m : Mach) (slot g : Nat) :
    m.stepCore slot g = m.takeCores (m.stepCore slot g) ∧ (m.stepCore slot g).groups = m.groups ∧
    (m.stepCore slot g).core slot = (m.core slot).stepped g ∧
    (∀ k, k ≠ slot → (m.stepCore slot g).cores.get? k = m.cores.get? k) ∧
    (∀ l, ((m.stepCore slot g).launch? l).map Launch.unstepped = (m.launch? l).map Launch.unstepped) ∧
    (∀ a, counterWord a = false → (m.stepCore slot g).rd a = m.rd a) := by
  have key : m.stepped slot g = m.takeCores (m.stepped slot g) ∧ (m.stepped slot g).groups = m.groups ∧
      (m.stepped slot g).regs = m.regs ∧
      (m.stepped slot g).core slot = (m.core slot).stepped g ∧
      (∀ k, k ≠ slot → (m.stepped slot g).cores.get? k = m.cores.get? k) ∧
      (∀ l, ((m.stepped slot g).launch? l).map Launch.unstepped = (m.launch? l).map Launch.unstepped) := by
    unfold Mach.stepped
    cases (m.core slot).launch with
    | none =>
      refine ⟨rfl, rfl, rfl, by simp, ?_, fun l => rfl⟩
      intro k hk
      simp [Tab.get?_put_ne, Ne.symm hk]
    | some l =>
      refine ⟨rfl, rfl, rfl, by simp [Mach.core], ?_, ?_⟩
      · intro k hk
        simp [Tab.get?_put_ne, Ne.symm hk]
      · intro j
        simp only [Mach.launch?, Mach.updLaunch_launches, Mach.setCore_launches, Tab.get?_upd]
        split
        · cases Tab.get? m.launches j <;> rfl
        · rfl
  obtain ⟨h1, hg, hr, h2, h3, h4⟩ := key
  obtain ⟨h5, h6⟩ := stepCore_sameButCounters m slot g
  generalize m.stepCore slot g = o at h5 h6 ⊢
  generalize m.stepped slot g = n at *
  have hc : o.cores = n.cores := by rw [h5]; rfl
  have hl : o.launches = n.launches := by rw [h5]; rfl
  have hgo : o.groups = n.groups := by rw [h5]; rfl
  refine ⟨?_, by rw [hgo, hg], ?_, ?_, ?_, ?_⟩
  · have h7 : o = (m.takeCores n).withRegs o.regs := by rw [← h1]; exact h5
    rw [h7]
    rfl
  · unfold Mach.core at *
    rw [hc]
    exact h2
  · rw [hc]
    exact h3
  · unfold Mach.launch? at *
    rw [hl]
    exact h4
  · intro a ha
    rw [h6 a ha]
    unfold Mach.rd
    rw [hr]

/-- A command of a group that stands before it runs its effect. -/
theorem asFetched_before {s : State} {g : GRef} {c : Instr} {x : Group} (h : Before s g c x) (f : Mach → Mach) :
    asFetched g c f s = .next { s with m := f s.m } := by
  obtain ⟨hon, hg, hir, -⟩ := h
  unfold asFetched whenOn onMach Mach.fetchedAs Mach.powered
  cases hw : x.ir with
  | none => simp [hw] at hir
  | some w =>
    rw [hw] at hir
    have hir : groupInstr g w = some c := hir
    simp [hon, hg, hw, hir]

/-- An instruction whose checks pass and whose effect is `n`: the outcome is that effect after the core's step. -/
theorem issue_done {s : State} {g : GRef} {c : Instr} {x : Group} {chk : Option Refuse}
    {f : Mach → Group → IssRes} {n : Mach} (h : Before s g c x) (hc : chk = none)
    (hf : f (s.m.stepCore g.slot.val g.group.val) x = .done n) :
    asFetched g c (fun m => m.issue g chk f) s = .next { s with m := n } := by
  rw [asFetched_before h]
  unfold Mach.issue Mach.issueAs
  dsimp only
  rw [h.2.1]
  simp only [h.2.2.2, hc, hf, if_true]

/-- The outcome of an effect that sets the group, and of the core what `fc` gives. -/
theorem issued_of {s : State} {g : GRef} {y : Group} {fc : Core → Core} {n : Mach}
    (hg : n.groups = s.m.groups.put (g.slot.val * 8 + g.group.val) y)
    (hc : n.cores = (s.m.stepCore g.slot.val g.group.val).cores.put g.slot.val (fc ((s.m.core g.slot.val).stepped g.group.val)))
    (hl : n.launches = (s.m.stepCore g.slot.val g.group.val).launches) (hr : n.regs = (s.m.stepCore g.slot.val g.group.val).regs)
    (ho : n = s.m.takeCores n) : Issued s { s with m := n } g y fc := by
  obtain ⟨-, -, h2, h3, h4, h5⟩ := stepCore_spec s.m g.slot.val g.group.val
  refine ⟨⟨rfl, rfl, ho⟩, ?_, ?_, ?_, ?_, ?_, ?_⟩
  · unfold Mach.group?
    dsimp only
    rw [hg]
    simp
  · intro k hk
    dsimp only
    rw [hg, Tab.get?_put_ne _ _ (Ne.symm hk)]
  · unfold Mach.core at *
    dsimp only
    rw [hc]
    simp
  · intro k hk
    dsimp only
    rw [hc, Tab.get?_put_ne _ _ (Ne.symm hk)]
    exact h3 k hk
  · intro l
    unfold Mach.launch? at *
    dsimp only
    rw [hl]
    exact h4 l
  · intro a ha
    unfold Mach.rd at *
    dsimp only
    rw [hr]
    exact h5 a ha

/-- An instruction that only changes its group's registers completes: what it does, and what it leaves alone. -/
theorem issueReg_next {s : State} {g : GRef} {c : Instr} {x : Group} {chk : Option Refuse} {f : Group → Group}
    (h : Before s g c x) (hc : chk = none) :
    ∃ t, asFetched g c (fun m => m.issueReg g chk f) s = .next t ∧ Issued s t g (f x).advance := by
  refine ⟨_, issue_done h hc rfl, ?_⟩
  obtain ⟨h1, hg, h2, h3, h4, h5⟩ := stepCore_spec s.m g.slot.val g.group.val
  refine ⟨⟨rfl, rfl, ?_⟩, by simp, ?_, ?_, ?_, ?_, ?_⟩
  · dsimp only
    generalize s.m.stepCore g.slot.val g.group.val = n at *
    rw [h1]
    rfl
  · intro k hk
    dsimp only
    rw [Mach.setGroup_groups, Tab.get?_put_ne _ _ (Ne.symm hk), hg]
  · exact h2
  · exact h3
  · exact h4
  · exact h5

end Sys2Proof.Machine
end

