-- ==== Sys2Proof/Laws/Ops.lean ====
section
/-! SUPPORT. What the operations that every family shares can do: fields and bits of words of control space, the canonical form of
memory, a register write that reaches its register, and a Slate request that is heard. -/
namespace Sys2Proof.Machine

/-! ### Fields and bits of words -/

/-- The bits of a word with a field replaced. -/
theorem putBits_getLsbD (x : W32) {lo n : Nat} (v i : Nat) (hi : i < 32) :
    (putBits x lo n v).getLsbD i = if lo ≤ i ∧ i < lo + n then v.testBit (i - lo) else x.getLsbD i := by
  have e1 : ((2 ^ n - 1) * 2 ^ lo).testBit i = (decide (lo ≤ i) && decide (i - lo < n)) := by
    rw [Nat.testBit_mul_two_pow, Nat.testBit_two_pow_sub_one]
  have e2 : (v % 2 ^ n * 2 ^ lo).testBit i = (decide (lo ≤ i) && (decide (i - lo < n) && v.testBit (i - lo))) := by
    rw [Nat.testBit_mul_two_pow, Nat.testBit_mod_two_pow]
  simp only [putBits, BitVec.getLsbD_or, BitVec.getLsbD_and, BitVec.getLsbD_not, BitVec.getLsbD_ofNat, hi, e1, e2, decide_true,
    Bool.true_and]
  by_cases hlo : lo ≤ i
  · by_cases hn : i - lo < n
    · have : i < lo + n := by omega
      simp [hlo, hn, this]
    · have : ¬i < lo + n := by omega
      simp [hlo, hn, this]
  · simp [hlo]

/-- A field as bits: it is determined by them. -/
theorem bitsOf_testBit (x : W32) (lo n i : Nat) : (bitsOf x.toNat lo n).testBit i = (decide (i < n) && x.getLsbD (lo + i)) := by
  rw [bitsOf, Nat.testBit_mod_two_pow, Nat.testBit_div_two_pow, Nat.add_comm]
  rfl

/-- A field set holds what was set, as many bits as it has. -/
theorem fld_setFld (m : Mach) (a v : Nat) {lo n : Nat} (h : lo + n ≤ 32) : (m.setFld a lo n v).fld a lo n = v % 2 ^ n := by
  refine Nat.eq_of_testBit_eq fun i => ?_
  rw [Mach.fld, Mach.setFld, Mach.rd_wr_self, bitsOf_testBit, Nat.testBit_mod_two_pow]
  by_cases hi : i < n
  · rw [putBits_getLsbD _ _ _ (by omega), if_pos (by omega), Nat.add_sub_cancel_left]
  · simp [hi]

/-- Setting a field leaves a field apart from it as it was. -/
theorem fld_setFld_apart (m : Mach) (a v : Nat) {lo n lo' n' : Nat} (h' : lo' + n' ≤ 32) (d : lo' + n' ≤ lo ∨ lo + n ≤ lo') :
    (m.setFld a lo n v).fld a lo' n' = m.fld a lo' n' := by
  refine Nat.eq_of_testBit_eq fun i => ?_
  rw [Mach.fld, Mach.fld, Mach.setFld, Mach.rd_wr_self, bitsOf_testBit, bitsOf_testBit]
  by_cases hi : i < n'
  · rw [putBits_getLsbD _ _ _ (by omega), if_neg (by omega)]
  · simp [hi]

/-- Setting a field of one word leaves every other word as it was. -/
theorem rd_setFld_ne (m : Mach) {a b : Nat} (lo n v : Nat) (h : a ≠ b) : (m.setFld a lo n v).rd b = m.rd b :=
  Mach.rd_wr_ne m _ h

/-- A bit set holds what was set, and setting it leaves every other bit as it was. -/
theorem bit_setBit (m : Mach) (a i j : Nat) (b : Bool) (hj : j < 32) :
    (m.setBit a i b).bit a j = if i = j then b else m.bit a j := by
  rw [Mach.bit, Mach.setBit, Mach.setFld, Mach.rd_wr_self, putBits_getLsbD _ _ _ hj]
  by_cases h : i = j
  · subst h
    rw [if_pos (by omega), if_pos rfl, Nat.sub_self]
    cases b <;> rfl
  · rw [if_neg (by omega), if_neg h]
    rfl

/-- A bit as a field of one bit. -/
theorem fld_one (m : Mach) (a i : Nat) : m.fld a i 1 = if m.bit a i = true then 1 else 0 := by
  rw [Mach.fld, Mach.bit, bitsOf, BitVec.getLsbD, Nat.testBit_eq_decide_div_mod_eq, Nat.pow_one]
  have : (m.rd a).toNat / 2 ^ i % 2 < 2 := Nat.mod_lt _ (by decide)
  split <;> simp_all

/-- A 64-bit register set holds what was set. -/
theorem rd64_wr64 (m : Mach) (a : Nat) (x : W64) : (m.wr64 a x).rd64 a = x := by
  rw [Mach.rd64, Mach.wr64, Mach.rd_wr_self, Mach.rd_wr_ne _ _ (by omega), Mach.rd_wr_self]
  ext i hi
  simp only [BitVec.getElem_or, BitVec.getElem_setWidth, BitVec.getElem_shiftLeft, BitVec.getLsbD_setWidth]
  by_cases h : i < 32
  · simp [h, BitVec.getLsbD_eq_getElem hi]
  · have : i - 32 < 32 := by omega
    simp [h, this, BitVec.getLsbD_ushiftRight, show 32 + (i - 32) = i by omega, BitVec.getLsbD_eq_getElem hi]

/-- Setting a 64-bit register leaves one apart from it as it was. -/
theorem rd64_wr64_ne (m : Mach) {a b : Nat} (x : W64) (h : a + 4 < b ∨ b + 4 < a) : (m.wr64 a x).rd64 b = m.rd64 b := by
  rw [Mach.rd64, Mach.wr64, Mach.rd_wr_ne _ _ (by omega), Mach.rd_wr_ne _ _ (by omega), Mach.rd_wr_ne _ _ (by omega),
    Mach.rd_wr_ne _ _ (by omega), Mach.rd64]

/-! ### Stacked memory -/

/-- A word stored, and a channel filled with zeros, leave the memory in its canonical form. -/
theorem putWord_wf {m : Mach} (h : Memory.wf m.mem = true) (line w : Nat) (d : W64) (s : BitVec 16) :
    Memory.wf (m.putWord line w d s).mem = true := Memory.wf_writeL h _ _
theorem zeroFill_wf {m : Mach} (h : Memory.wf m.mem = true) (die ch : Nat) : Memory.wf (m.zeroFill die ch).mem = true :=
  Memory.wf_filter h _

/-! ### Outcomes -/

/-- What a command that acts only on a powered module can do. -/
theorem whenOn_next {f : Mach → Mach} {s t : State} (h : whenOn f s = .next t) :
    t.pending = s.pending ∧ t.kept = s.kept ∧ t.m = if s.m.off = true then s.m else f s.m := by
  cases h
  refine ⟨rfl, rfl, ?_⟩
  show (if (!s.m.off) = true then f s.m else s.m) = _
  cases s.m.off <;> rfl

/-- A command of a powered module answers a next state. -/
theorem whenOn_on {f : Mach → Mach} {s : State} (h : s.m.off = false) : whenOn f s = .next { s with m := f s.m } := by
  show Host.Outcome.next { s with m := if (!s.m.off) = true then f s.m else s.m } = _
  rw [h]
  rfl

/-- An access that reaches its register finds it, and nothing bars it (R8, R31). -/
theorem ctlLook_inl {m : Mach} {die off : Nat} {h : RegHit} (hl : m.ctlLook die off = .inl h) :
    ctlFind die off = some h ∧ m.ctlBar die h = none := by
  unfold Mach.ctlLook at hl
  cases hf : ctlFind die off with
  | none => rw [hf] at hl; cases hl
  | some k =>
    rw [hf] at hl
    dsimp only at hl
    cases hb : m.ctlBar die k with
    | some st => rw [hb] at hl; cases hl
    | none => rw [hb] at hl; cases hl; exact ⟨rfl, hb⟩

/-- A register write that reaches its register: the requester's latch of it ends, the register's own effect follows, and the
requester is answered with its status (R8). -/
theorem regWrite_reaches {m : Mach} {who : Requester} {die off : Nat} {h : RegHit} (f : Mach → Mach × Status)
    (hr : m.canReach who = true) (hc : ¬(who = .driver ∧ m.cmpWriteDue = true)) (hl : m.ctlLook die off = .inl h) :
    m.regWrite who die off f = (f (m.endLatch who die off h)).1.answer (f (m.endLatch who die off h)).2 := by
  rw [Mach.regWrite, if_neg (by simp [hr, hc]), (ctlLook_inl hl).1]
  dsimp only
  rw [(ctlLook_inl hl).2]

/-- Ending a latch changes nothing else. -/
theorem endLatch_eq (m : Mach) (who : Requester) (die off : Nat) (h : RegHit) :
    m.endLatch who die off h = { m with latches := (m.endLatch who die off h).latches } := by
  rw [Mach.endLatch]
  split <;> rfl

/-- A Slate request that has arrived whole and is accepted: its credential's number rises where it needs a role, it acts, and
its reply is sent (R489, R490). -/
theorem slateDo_heard {s : State} {h : SlateHdr} {typ : Nat} {body : List Byte} {role : Option Nat}
    {act : State → State × Status × List Byte} (hu : s.m.slateUp = true)
    (ha : ∀ r, role = some r → s.kept.accepts h typ body r = true) (hw : (s.m.collect h).2 = true) :
    slateDo h typ body role act s =
      let u : State := { s with m := (s.m.collect h).1
                                kept := if role.isNone then s.kept
                                  else { s.kept with lastSeq := s.kept.lastSeq.put h.cred.toNat h.seq } }
      .next { (act u).1 with m := (act u).1.m.emit (.slateReply (slateMessage typ h.seq (act u).2.1.code (act u).2.2)) } := by
  cases role with
  | none => simp [slateDo, State.slate, hu, hw]
  | some r => simp [slateDo, State.slate, hu, hw, ha r rfl]

/-- Collecting a datagram changes only what has been collected. -/
theorem collect_eq (m : Mach) (h : SlateHdr) : (m.collect h).1 = { m with slate := (m.collect h).1.slate } := by
  unfold Mach.collect
  dsimp only
  repeat' split
  all_goals rfl

end Sys2Proof.Machine
end

