-- ==== Sys2Proof/Laws/Words.lean ====
section
/-! SUPPORT. The fields of a word of an instruction format are the fields that were packed into it (Tables 4.2 and 4.3). -/
namespace Sys2Proof

/-- The low part of two parts put together, and the part above it. -/
theorem extract_append_low {n m k : Nat} (a : BitVec n) (b : BitVec m) (h : k ≤ m) : (a ++ b).extractLsb' 0 k = b.extractLsb' 0 k := by
  ext i hi
  simp only [BitVec.getElem_extractLsb', BitVec.getLsbD_append, Nat.zero_add]
  rw [if_pos (by omega)]
theorem extract_append_high {n m s k : Nat} (a : BitVec n) (b : BitVec m) (h : m ≤ s) :
    (a ++ b).extractLsb' s k = a.extractLsb' (s - m) k := by
  ext i hi
  simp only [BitVec.getElem_extractLsb', BitVec.getLsbD_append]
  rw [if_neg (by omega)]
  congr 1
  omega
theorem extract_append_in {n m s k : Nat} (a : BitVec n) (b : BitVec m) (h : s + k ≤ m) : (a ++ b).extractLsb' s k = b.extractLsb' s k := by
  ext i hi
  simp only [BitVec.getElem_extractLsb', BitVec.getLsbD_append]
  rw [if_pos (by omega)]
theorem extract_all {n : Nat} (a : BitVec n) : a.extractLsb' 0 n = a := by
  ext i hi
  simp

/-- The fields of a word of Format R or I. -/
theorem packIW_major (mj : BitVec 7) (f : BitVec 6) (x : IW) : wordMajor (packIW mj f x) = mj.toNat := by
  simp only [wordMajor, packIW]
  iterate 6 rw [extract_append_high _ _ (by omega)]
  rw [extract_all]
theorem packIW_func (mj : BitVec 7) (f : BitVec 6) (x : IW) : wordFunc (packIW mj f x) = f := by
  simp only [wordFunc, packIW]
  iterate 2 rw [extract_append_high _ _ (by omega)]
  rw [extract_append_in _ _ (by omega), extract_all]
theorem packIW_fields (mj : BitVec 7) (f : BitVec 6) (x : IW) : wordIW (packIW mj f x) = x := by
  obtain ⟨pred, d, a, ty, lo⟩ := x
  simp only [wordIW, packIW]
  congr 1
  · iterate 5 rw [extract_append_high _ _ (by omega)]
    rw [extract_append_in _ _ (by omega), extract_all]
  · iterate 4 rw [extract_append_high _ _ (by omega)]
    rw [extract_append_in _ _ (by omega), extract_all]
  · iterate 3 rw [extract_append_high _ _ (by omega)]
    rw [extract_append_in _ _ (by omega), extract_all]
  · rw [extract_append_high _ _ (by omega), extract_append_in _ _ (by omega), extract_all]
  · rw [extract_append_in _ _ (by omega), extract_all]
/-- The fields of a word of a branch or loop format. -/
theorem packBW_major (mj : BitVec 7) (x : BW) : wordMajor (packBW mj x) = mj.toNat := by
  simp only [wordMajor, packBW]
  iterate 3 rw [extract_append_high _ _ (by omega)]
  rw [extract_all]
theorem packBW_fields (mj : BitVec 7) (x : BW) : wordBW (packBW mj x) = x := by
  obtain ⟨pred, mid, off⟩ := x
  simp only [wordBW, packBW]
  congr 1
  · iterate 2 rw [extract_append_high _ _ (by omega)]
    rw [extract_append_in _ _ (by omega), extract_all]
  · rw [extract_append_high _ _ (by omega), extract_append_in _ _ (by omega), extract_all]
  · rw [extract_append_in _ _ (by omega), extract_all]

/-- A word that is spelled has a defined major and function. -/
theorem spell_assigned {mj : BitVec 7} {f : BitVec 6} {x : IW} {w : W64} (h : spell mj f x = some w) :
    wordUnassigned w = false ∧ w = packIW mj f x := by
  unfold spell at h
  split at h
  · next ha =>
    cases h
    exact ⟨by rw [wordUnassigned, packIW_major, packIW_func, ha]; rfl, rfl⟩
  · cases h

end Sys2Proof
end

