-- ==== Sys2Proof/Laws/PerInstr.lean ====
section
/-! SUPPORT. Statements made for each command as a term. `Spelled`: a word that a command spells names a defined instruction. -/
namespace Sys2Proof.Laws

/-- The word by which a group issues the command, if it has one, has a defined major opcode and function (R95, R96). -/
def Spelled.Statement (i : Instr) : Prop := ∀ g w, groupWord i = some (g, w) → wordUnassigned w = false

/-- A word of Format R or I that is spelled. -/
theorem Spelled.of_spell {mj : BitVec 7} {f : BitVec 6} {x : IW} {g g' : GRef} {w : W64}
    (h : (spell mj f x).map (fun w => (g, w)) = some (g', w)) : wordUnassigned w = false := by
  obtain ⟨u, hu, hw⟩ := Option.map_eq_some_iff.mp h
  cases hw
  exact (spell_assigned hu).1
/-- A word of a branch or loop format. -/
theorem Spelled.of_branch {mj : BitVec 7} {x : BW} {g g' : GRef} {w : W64} (ha : assignedMajor mj.toNat = true)
    (hf : ∀ f, assignedFunc mj.toNat f = true) (h : some (g, packBW mj x) = some (g', w)) : wordUnassigned w = false := by
  cases h
  rw [wordUnassigned, packBW_major, ha, hf]
  rfl

theorem Spelled.controlWrite (who : Requester) (die : Die) (off : Nat) (size : Nat) (data : W64) :
    Spelled.Statement (.controlWrite who die off size data) := nofun
theorem Spelled.lowHalfRead (who : Requester) (die : Die) (off : ReadAt) :
    Spelled.Statement (.lowHalfRead who die off) := nofun
theorem Spelled.homeInterleaveWrite (who : Requester) (die : Die) (v : W32) :
    Spelled.Statement (.homeInterleaveWrite who die v) := nofun
theorem Spelled.undervoltage (die : Die) :
    Spelled.Statement (.undervoltage die) := nofun
theorem Spelled.rimClockGateRequest (die : Die) (blk : RimBlock) :
    Spelled.Statement (.rimClockGateRequest die blk) := nofun
theorem Spelled.crossingDrained (die : Die) (blk : RimBlock) :
    Spelled.Statement (.crossingDrained die blk) := nofun
theorem Spelled.rimClockGateTimeout (die : Die) (blk : RimBlock) :
    Spelled.Statement (.rimClockGateTimeout die blk) := nofun
theorem Spelled.launch (q : Queue) :
    Spelled.Statement (.launch q) := nofun
theorem Spelled.slotFree (cl : Cluster) (slot : Fin 64) :
    Spelled.Statement (.slotFree cl slot) := nofun
theorem Spelled.add (g : GRef) (f : AluForm) (w : IW) :
    Spelled.Statement (.add g f w) := by intro _ _ h; unfold groupWord at h; exact Spelled.of_spell h
theorem Spelled.sub (g : GRef) (f : AluForm) (w : IW) :
    Spelled.Statement (.sub g f w) := by intro _ _ h; unfold groupWord at h; exact Spelled.of_spell h
theorem Spelled.min (g : GRef) (f : AluForm) (w : IW) :
    Spelled.Statement (.min g f w) := by intro _ _ h; unfold groupWord at h; exact Spelled.of_spell h
theorem Spelled.max (g : GRef) (f : AluForm) (w : IW) :
    Spelled.Statement (.max g f w) := by intro _ _ h; unfold groupWord at h; exact Spelled.of_spell h
theorem Spelled.abs (g : GRef) (f : AluForm) (w : IW) :
    Spelled.Statement (.abs g f w) := by intro _ _ h; unfold groupWord at h; exact Spelled.of_spell h
theorem Spelled.neg (g : GRef) (f : AluForm) (w : IW) :
    Spelled.Statement (.neg g f w) := by intro _ _ h; unfold groupWord at h; exact Spelled.of_spell h
theorem Spelled.and (g : GRef) (f : AluForm) (w : IW) :
    Spelled.Statement (.and g f w) := by intro _ _ h; unfold groupWord at h; exact Spelled.of_spell h
theorem Spelled.or (g : GRef) (f : AluForm) (w : IW) :
    Spelled.Statement (.or g f w) := by intro _ _ h; unfold groupWord at h; exact Spelled.of_spell h
theorem Spelled.xor (g : GRef) (f : AluForm) (w : IW) :
    Spelled.Statement (.xor g f w) := by intro _ _ h; unfold groupWord at h; exact Spelled.of_spell h
theorem Spelled.andn (g : GRef) (f : AluForm) (w : IW) :
    Spelled.Statement (.andn g f w) := by intro _ _ h; unfold groupWord at h; exact Spelled.of_spell h
theorem Spelled.not (g : GRef) (f : AluForm) (w : IW) :
    Spelled.Statement (.not g f w) := by intro _ _ h; unfold groupWord at h; exact Spelled.of_spell h
theorem Spelled.shl (g : GRef) (f : AluForm) (w : IW) :
    Spelled.Statement (.shl g f w) := by intro _ _ h; unfold groupWord at h; exact Spelled.of_spell h
theorem Spelled.shr (g : GRef) (f : AluForm) (w : IW) :
    Spelled.Statement (.shr g f w) := by intro _ _ h; unfold groupWord at h; exact Spelled.of_spell h
theorem Spelled.popc (g : GRef) (f : AluForm) (w : IW) :
    Spelled.Statement (.popc g f w) := by intro _ _ h; unfold groupWord at h; exact Spelled.of_spell h
theorem Spelled.clz (g : GRef) (f : AluForm) (w : IW) :
    Spelled.Statement (.clz g f w) := by intro _ _ h; unfold groupWord at h; exact Spelled.of_spell h
theorem Spelled.ctz (g : GRef) (f : AluForm) (w : IW) :
    Spelled.Statement (.ctz g f w) := by intro _ _ h; unfold groupWord at h; exact Spelled.of_spell h
theorem Spelled.mov (g : GRef) (f : AluForm) (w : IW) :
    Spelled.Statement (.mov g f w) := by intro _ _ h; unfold groupWord at h; exact Spelled.of_spell h
theorem Spelled.sel (g : GRef) (f : AluForm) (w : IW) :
    Spelled.Statement (.sel g f w) := by intro _ _ h; unfold groupWord at h; exact Spelled.of_spell h
theorem Spelled.mul (g : GRef) (f : MulForm) (w : IW) :
    Spelled.Statement (.mul g f w) := by intro _ _ h; unfold groupWord at h; exact Spelled.of_spell h
theorem Spelled.mulh (g : GRef) (f : MulForm) (w : IW) :
    Spelled.Statement (.mulh g f w) := by intro _ _ h; unfold groupWord at h; exact Spelled.of_spell h
theorem Spelled.mad (g : GRef) (f : MulForm) (w : IW) :
    Spelled.Statement (.mad g f w) := by intro _ _ h; unfold groupWord at h; exact Spelled.of_spell h
theorem Spelled.div (g : GRef) (f : MulForm) (w : IW) :
    Spelled.Statement (.div g f w) := by intro _ _ h; unfold groupWord at h; exact Spelled.of_spell h
theorem Spelled.rem (g : GRef) (f : MulForm) (w : IW) :
    Spelled.Statement (.rem g f w) := by intro _ _ h; unfold groupWord at h; exact Spelled.of_spell h
theorem Spelled.movi (g : GRef) (w : IW) :
    Spelled.Statement (.movi g w) := by intro _ _ h; unfold groupWord at h; exact Spelled.of_spell h
theorem Spelled.movhi (g : GRef) (w : IW) :
    Spelled.Statement (.movhi g w) := by intro _ _ h; unfold groupWord at h; exact Spelled.of_spell h
theorem Spelled.vmovi (g : GRef) (w : IW) :
    Spelled.Statement (.vmovi g w) := by intro _ _ h; unfold groupWord at h; exact Spelled.of_spell h
theorem Spelled.vbcast (g : GRef) (w : IW) :
    Spelled.Statement (.vbcast g w) := by intro _ _ h; unfold groupWord at h; exact Spelled.of_spell h
theorem Spelled.vlane (g : GRef) (w : IW) :
    Spelled.Statement (.vlane g w) := by intro _ _ h; unfold groupWord at h; exact Spelled.of_spell h
theorem Spelled.vlaneid (g : GRef) (w : IW) :
    Spelled.Statement (.vlaneid g w) := by intro _ _ h; unfold groupWord at h; exact Spelled.of_spell h
theorem Spelled.cmp (g : GRef) (f : CmpForm) (cond : BitVec 6) (w : IW) :
    Spelled.Statement (.cmp g f cond w) := by intro _ _ h; unfold groupWord at h; exact Spelled.of_spell h
theorem Spelled.setc (g : GRef) (cond : BitVec 6) (w : IW) :
    Spelled.Statement (.setc g cond w) := by intro _ _ h; unfold groupWord at h; exact Spelled.of_spell h
theorem Spelled.pand (g : GRef) (w : IW) :
    Spelled.Statement (.pand g w) := by intro _ _ h; unfold groupWord at h; exact Spelled.of_spell h
theorem Spelled.por (g : GRef) (w : IW) :
    Spelled.Statement (.por g w) := by intro _ _ h; unfold groupWord at h; exact Spelled.of_spell h
theorem Spelled.pxor (g : GRef) (w : IW) :
    Spelled.Statement (.pxor g w) := by intro _ _ h; unfold groupWord at h; exact Spelled.of_spell h
theorem Spelled.pandn (g : GRef) (w : IW) :
    Spelled.Statement (.pandn g w) := by intro _ _ h; unfold groupWord at h; exact Spelled.of_spell h
theorem Spelled.pnot (g : GRef) (w : IW) :
    Spelled.Statement (.pnot g w) := by intro _ _ h; unfold groupWord at h; exact Spelled.of_spell h
theorem Spelled.pmov (g : GRef) (w : IW) :
    Spelled.Statement (.pmov g w) := by intro _ _ h; unfold groupWord at h; exact Spelled.of_spell h
theorem Spelled.pset (g : GRef) (w : IW) :
    Spelled.Statement (.pset g w) := by intro _ _ h; unfold groupWord at h; exact Spelled.of_spell h
theorem Spelled.pget (g : GRef) (w : IW) :
    Spelled.Statement (.pget g w) := by intro _ _ h; unfold groupWord at h; exact Spelled.of_spell h
theorem Spelled.ppop (g : GRef) (w : IW) :
    Spelled.Statement (.ppop g w) := by intro _ _ h; unfold groupWord at h; exact Spelled.of_spell h
theorem Spelled.pfirst (g : GRef) (w : IW) :
    Spelled.Statement (.pfirst g w) := by intro _ _ h; unfold groupWord at h; exact Spelled.of_spell h
theorem Spelled.br (g : GRef) (w : BW) :
    Spelled.Statement (.br g w) := fun _ _ h => Spelled.of_branch (by decide) (fun _ => rfl) h
theorem Spelled.brInd (g : GRef) (w : BW) :
    Spelled.Statement (.brInd g w) := fun _ _ h => Spelled.of_branch (by decide) (fun _ => rfl) h
theorem Spelled.loop (g : GRef) (w : BW) :
    Spelled.Statement (.loop g w) := fun _ _ h => Spelled.of_branch (by decide) (fun _ => rfl) h
theorem Spelled.nop (g : GRef) (w : IW) :
    Spelled.Statement (.nop g w) := by intro _ _ h; unfold groupWord at h; exact Spelled.of_spell h
theorem Spelled.exit (g : GRef) (w : IW) :
    Spelled.Statement (.exit g w) := by intro _ _ h; unfold groupWord at h; exact Spelled.of_spell h
theorem Spelled.barBlock (g : GRef) (w : IW) :
    Spelled.Statement (.barBlock g w) := by intro _ _ h; unfold groupWord at h; exact Spelled.of_spell h
theorem Spelled.barCluster (g : GRef) (w : IW) :
    Spelled.Statement (.barCluster g w) := by intro _ _ h; unfold groupWord at h; exact Spelled.of_spell h
theorem Spelled.barrierComplete (b : BarRef) :
    Spelled.Statement (.barrierComplete b) := nofun
theorem Spelled.barrierTimeout (b : BarRef) :
    Spelled.Statement (.barrierTimeout b) := nofun
theorem Spelled.brk (g : GRef) (w : IW) :
    Spelled.Statement (.brk g w) := by intro _ _ h; unfold groupWord at h; exact Spelled.of_spell h
theorem Spelled.rdsr (g : GRef) (w : IW) :
    Spelled.Statement (.rdsr g w) := by intro _ _ h; unfold groupWord at h; exact Spelled.of_spell h
theorem Spelled.fetch (g : GRef) (ext : Option ExtAns) :
    Spelled.Statement (.fetch g ext) := nofun
theorem Spelled.launchHalt (l : Nat) :
    Spelled.Statement (.launchHalt l) := nofun
theorem Spelled.fadd (g : GRef) (f : FpForm) (w : IW) :
    Spelled.Statement (.fadd g f w) := by intro _ _ h; unfold groupWord at h; exact Spelled.of_spell h
theorem Spelled.fsub (g : GRef) (f : FpForm) (w : IW) :
    Spelled.Statement (.fsub g f w) := by intro _ _ h; unfold groupWord at h; exact Spelled.of_spell h
theorem Spelled.fmul (g : GRef) (f : FpForm) (w : IW) :
    Spelled.Statement (.fmul g f w) := by intro _ _ h; unfold groupWord at h; exact Spelled.of_spell h
theorem Spelled.ffma (g : GRef) (f : FpForm) (w : IW) :
    Spelled.Statement (.ffma g f w) := by intro _ _ h; unfold groupWord at h; exact Spelled.of_spell h
theorem Spelled.ffms (g : GRef) (f : FpForm) (w : IW) :
    Spelled.Statement (.ffms g f w) := by intro _ _ h; unfold groupWord at h; exact Spelled.of_spell h
theorem Spelled.fnma (g : GRef) (f : FpForm) (w : IW) :
    Spelled.Statement (.fnma g f w) := by intro _ _ h; unfold groupWord at h; exact Spelled.of_spell h
theorem Spelled.fmin (g : GRef) (f : FpForm) (w : IW) :
    Spelled.Statement (.fmin g f w) := by intro _ _ h; unfold groupWord at h; exact Spelled.of_spell h
theorem Spelled.fmax (g : GRef) (f : FpForm) (w : IW) :
    Spelled.Statement (.fmax g f w) := by intro _ _ h; unfold groupWord at h; exact Spelled.of_spell h
theorem Spelled.fabs (g : GRef) (f : FpForm) (w : IW) :
    Spelled.Statement (.fabs g f w) := by intro _ _ h; unfold groupWord at h; exact Spelled.of_spell h
theorem Spelled.fneg (g : GRef) (f : FpForm) (w : IW) :
    Spelled.Statement (.fneg g f w) := by intro _ _ h; unfold groupWord at h; exact Spelled.of_spell h
theorem Spelled.fscale (g : GRef) (f : FpForm) (w : IW) :
    Spelled.Statement (.fscale g f w) := by intro _ _ h; unfold groupWord at h; exact Spelled.of_spell h
theorem Spelled.frcp (g : GRef) (w : IW) :
    Spelled.Statement (.frcp g w) := by intro _ _ h; unfold groupWord at h; exact Spelled.of_spell h
theorem Spelled.frsqrt (g : GRef) (w : IW) :
    Spelled.Statement (.frsqrt g w) := by intro _ _ h; unfold groupWord at h; exact Spelled.of_spell h
theorem Spelled.fsqrt (g : GRef) (w : IW) :
    Spelled.Statement (.fsqrt g w) := by intro _ _ h; unfold groupWord at h; exact Spelled.of_spell h
theorem Spelled.fexp2 (g : GRef) (w : IW) :
    Spelled.Statement (.fexp2 g w) := by intro _ _ h; unfold groupWord at h; exact Spelled.of_spell h
theorem Spelled.flog2 (g : GRef) (w : IW) :
    Spelled.Statement (.flog2 g w) := by intro _ _ h; unfold groupWord at h; exact Spelled.of_spell h
theorem Spelled.fsinpi (g : GRef) (w : IW) :
    Spelled.Statement (.fsinpi g w) := by intro _ _ h; unfold groupWord at h; exact Spelled.of_spell h
theorem Spelled.fcospi (g : GRef) (w : IW) :
    Spelled.Statement (.fcospi g w) := by intro _ _ h; unfold groupWord at h; exact Spelled.of_spell h
theorem Spelled.ftanh (g : GRef) (w : IW) :
    Spelled.Statement (.ftanh g w) := by intro _ _ h; unfold groupWord at h; exact Spelled.of_spell h
theorem Spelled.fradd (g : GRef) (w : IW) :
    Spelled.Statement (.fradd g w) := by intro _ _ h; unfold groupWord at h; exact Spelled.of_spell h
theorem Spelled.frmax (g : GRef) (w : IW) :
    Spelled.Statement (.frmax g w) := by intro _ _ h; unfold groupWord at h; exact Spelled.of_spell h
theorem Spelled.frmin (g : GRef) (w : IW) :
    Spelled.Statement (.frmin g w) := by intro _ _ h; unfold groupWord at h; exact Spelled.of_spell h
theorem Spelled.iradd (g : GRef) (w : IW) :
    Spelled.Statement (.iradd g w) := by intro _ _ h; unfold groupWord at h; exact Spelled.of_spell h
theorem Spelled.irmax (g : GRef) (w : IW) :
    Spelled.Statement (.irmax g w) := by intro _ _ h; unfold groupWord at h; exact Spelled.of_spell h
theorem Spelled.irmin (g : GRef) (w : IW) :
    Spelled.Statement (.irmin g w) := by intro _ _ h; unfold groupWord at h; exact Spelled.of_spell h
theorem Spelled.cvt (g : GRef) (func : BitVec 6) (w : IW) :
    Spelled.Statement (.cvt g func w) := by intro _ _ h; unfold groupWord at h; exact Spelled.of_spell h
theorem Spelled.bscale (g : GRef) (func : BitVec 6) (w : IW) :
    Spelled.Statement (.bscale g func w) := by intro _ _ h; unfold groupWord at h; exact Spelled.of_spell h
theorem Spelled.bcvt (g : GRef) (func : BitVec 6) (w : IW) :
    Spelled.Statement (.bcvt g func w) := by intro _ _ h; unfold groupWord at h; exact Spelled.of_spell h
theorem Spelled.shfl (g : GRef) (w : IW) :
    Spelled.Statement (.shfl g w) := by intro _ _ h; unfold groupWord at h; exact Spelled.of_spell h
theorem Spelled.rot (g : GRef) (w : IW) :
    Spelled.Statement (.rot g w) := by intro _ _ h; unfold groupWord at h; exact Spelled.of_spell h
theorem Spelled.qbshuf (g : GRef) (w : IW) :
    Spelled.Statement (.qbshuf g w) := by intro _ _ h; unfold groupWord at h; exact Spelled.of_spell h
theorem Spelled.shflXor (g : GRef) (w : IW) :
    Spelled.Statement (.shflXor g w) := by intro _ _ h; unfold groupWord at h; exact Spelled.of_spell h
theorem Spelled.roti (g : GRef) (w : IW) :
    Spelled.Statement (.roti g w) := by intro _ _ h; unfold groupWord at h; exact Spelled.of_spell h
theorem Spelled.laneb (g : GRef) (w : IW) :
    Spelled.Statement (.laneb g w) := by intro _ _ h; unfold groupWord at h; exact Spelled.of_spell h
theorem Spelled.insb (g : GRef) (w : IW) :
    Spelled.Statement (.insb g w) := by intro _ _ h; unfold groupWord at h; exact Spelled.of_spell h
theorem Spelled.mma (g : GRef) (func : BitVec 6) (w : IW) :
    Spelled.Statement (.mma g func w) := by intro _ _ h; unfold groupWord at h; exact Spelled.of_spell h
theorem Spelled.mmaSp (g : GRef) (func : BitVec 6) (w : IW) :
    Spelled.Statement (.mmaSp g func w) := by intro _ _ h; unfold groupWord at h; exact Spelled.of_spell h
theorem Spelled.matrixTileWrite (slot : Slot) :
    Spelled.Statement (.matrixTileWrite slot) := nofun
theorem Spelled.tzero (g : GRef) (w : IW) :
    Spelled.Statement (.tzero g w) := by intro _ _ h; unfold groupWord at h; exact Spelled.of_spell h
theorem Spelled.tldV (g : GRef) (w : IW) :
    Spelled.Statement (.tldV g w) := by intro _ _ h; unfold groupWord at h; exact Spelled.of_spell h
theorem Spelled.tstV (g : GRef) (w : IW) :
    Spelled.Statement (.tstV g w) := by intro _ _ h; unfold groupWord at h; exact Spelled.of_spell h
theorem Spelled.tldS (g : GRef) (w : IW) :
    Spelled.Statement (.tldS g w) := by intro _ _ h; unfold groupWord at h; exact Spelled.of_spell h
theorem Spelled.tstS (g : GRef) (w : IW) :
    Spelled.Statement (.tstS g w) := by intro _ _ h; unfold groupWord at h; exact Spelled.of_spell h
theorem Spelled.ldS (g : GRef) (func : BitVec 6) (w : IW) :
    Spelled.Statement (.ldS g func w) := by intro _ _ h; unfold groupWord at h; exact Spelled.of_spell h
theorem Spelled.ldV (g : GRef) (func : BitVec 6) (w : IW) :
    Spelled.Statement (.ldV g func w) := by intro _ _ h; unfold groupWord at h; exact Spelled.of_spell h
theorem Spelled.ldG (g : GRef) (func : BitVec 6) (w : IW) :
    Spelled.Statement (.ldG g func w) := by intro _ _ h; unfold groupWord at h; exact Spelled.of_spell h
theorem Spelled.stS (g : GRef) (func : BitVec 6) (w : IW) :
    Spelled.Statement (.stS g func w) := by intro _ _ h; unfold groupWord at h; exact Spelled.of_spell h
theorem Spelled.stV (g : GRef) (func : BitVec 6) (w : IW) :
    Spelled.Statement (.stV g func w) := by intro _ _ h; unfold groupWord at h; exact Spelled.of_spell h
theorem Spelled.stG (g : GRef) (func : BitVec 6) (w : IW) :
    Spelled.Statement (.stG g func w) := by intro _ _ h; unfold groupWord at h; exact Spelled.of_spell h
theorem Spelled.pfL1 (g : GRef) (w : IW) :
    Spelled.Statement (.pfL1 g w) := by intro _ _ h; unfold groupWord at h; exact Spelled.of_spell h
theorem Spelled.pfSlice (g : GRef) (w : IW) :
    Spelled.Statement (.pfSlice g w) := by intro _ _ h; unfold groupWord at h; exact Spelled.of_spell h
theorem Spelled.atom (g : GRef) (func : BitVec 6) (w : IW) :
    Spelled.Statement (.atom g func w) := by intro _ _ h; unfold groupWord at h; exact Spelled.of_spell h
theorem Spelled.red (g : GRef) (func : BitVec 6) (w : IW) :
    Spelled.Statement (.red g func w) := by intro _ _ h; unfold groupWord at h; exact Spelled.of_spell h
theorem Spelled.ldr (g : GRef) (func : BitVec 6) (w : IW) :
    Spelled.Statement (.ldr g func w) := by intro _ _ h; unfold groupWord at h; exact Spelled.of_spell h
theorem Spelled.stc (g : GRef) (func : BitVec 6) (w : IW) :
    Spelled.Statement (.stc g func w) := by intro _ _ h; unfold groupWord at h; exact Spelled.of_spell h
theorem Spelled.fence (g : GRef) (w : IW) :
    Spelled.Statement (.fence g w) := by intro _ _ h; unfold groupWord at h; exact Spelled.of_spell h
theorem Spelled.fenceC (g : GRef) (w : IW) :
    Spelled.Statement (.fenceC g w) := by intro _ _ h; unfold groupWord at h; exact Spelled.of_spell h
theorem Spelled.acq (g : GRef) (w : IW) :
    Spelled.Statement (.acq g w) := by intro _ _ h; unfold groupWord at h; exact Spelled.of_spell h
theorem Spelled.rel (g : GRef) (w : IW) :
    Spelled.Statement (.rel g w) := by intro _ _ h; unfold groupWord at h; exact Spelled.of_spell h
theorem Spelled.fenceComplete (g : GRef) :
    Spelled.Statement (.fenceComplete g) := nofun
theorem Spelled.tmSubmit (g : GRef) (w : IW) :
    Spelled.Statement (.tmSubmit g w) := by intro _ _ h; unfold groupWord at h; exact Spelled.of_spell h
theorem Spelled.tmWait (g : GRef) (w : IW) :
    Spelled.Statement (.tmWait g w) := by intro _ _ h; unfold groupWord at h; exact Spelled.of_spell h
theorem Spelled.tmTest (g : GRef) (w : IW) :
    Spelled.Statement (.tmTest g w) := by intro _ _ h; unfold groupWord at h; exact Spelled.of_spell h
theorem Spelled.tmChunk (cl : Cluster) (ext : Option ExtAns) :
    Spelled.Statement (.tmChunk cl ext) := nofun
theorem Spelled.storeBufferSend (g : GRef) :
    Spelled.Statement (.storeBufferSend g) := nofun
theorem Spelled.loadAnswer (rid : Nat) (ext : Option ExtAns) :
    Spelled.Statement (.loadAnswer rid ext) := nofun
theorem Spelled.storeAck (rid : Nat) (ext : Option ExtAns) :
    Spelled.Statement (.storeAck rid ext) := nofun
theorem Spelled.requestTimeout (rid : Nat) :
    Spelled.Statement (.requestTimeout rid) := nofun
theorem Spelled.tintRead (rid : Nat) :
    Spelled.Statement (.tintRead rid) := nofun
theorem Spelled.plainRead (r : HomeRead) :
    Spelled.Statement (.plainRead r) := nofun
theorem Spelled.write (r : HomeWrite) :
    Spelled.Statement (.write r) := nofun
theorem Spelled.reduceStore (rid : Nat) :
    Spelled.Statement (.reduceStore rid) := nofun
theorem Spelled.atomRequest (rid : Nat) :
    Spelled.Statement (.atomRequest rid) := nofun
theorem Spelled.ldrRequest (rid : Nat) :
    Spelled.Statement (.ldrRequest rid) := nofun
theorem Spelled.stcRequest (rid : Nat) :
    Spelled.Statement (.stcRequest rid) := nofun
theorem Spelled.leaseExpiry (line : Nat) :
    Spelled.Statement (.leaseExpiry line) := nofun
theorem Spelled.memoryData (die : Die) (ch : Chan) :
    Spelled.Statement (.memoryData die ch) := nofun
theorem Spelled.channelRequest (die : Die) (ch : Chan) :
    Spelled.Statement (.channelRequest die ch) := nofun
theorem Spelled.prefetch (q : Queue) :
    Spelled.Statement (.prefetch q) := nofun
theorem Spelled.flush (q : Queue) :
    Spelled.Statement (.flush q) := nofun
theorem Spelled.invalidate (q : Queue) :
    Spelled.Statement (.invalidate q) := nofun
theorem Spelled.pin (q : Queue) :
    Spelled.Statement (.pin q) := nofun
theorem Spelled.unpin (q : Queue) :
    Spelled.Statement (.unpin q) := nofun
theorem Spelled.rangeLineAction (die : Die) (ch : Chan) :
    Spelled.Statement (.rangeLineAction die ch) := nofun
theorem Spelled.rangeReport (q : Queue) :
    Spelled.Statement (.rangeReport q) := nofun
theorem Spelled.sliceCtrlWrite (who : Requester) (die : Die) (ch : Chan) (v : W32) :
    Spelled.Statement (.sliceCtrlWrite who die ch v) := nofun
theorem Spelled.tintChangeDone (die : Die) (ch : Chan) :
    Spelled.Statement (.tintChangeDone die ch) := nofun
theorem Spelled.slicePinQuotaWrite (who : Requester) (die : Die) (ch : Chan) (p : Part) (v : W32) :
    Spelled.Statement (.slicePinQuotaWrite who die ch p v) := nofun
theorem Spelled.sliceCntClear (who : Requester) (die : Die) (ch : Chan) (v : W32) :
    Spelled.Statement (.sliceCntClear who die ch v) := nofun
theorem Spelled.rds (a : Agent) (line : Nat) :
    Spelled.Statement (.rds a line) := nofun
theorem Spelled.rdown (line : Nat) :
    Spelled.Statement (.rdown line) := nofun
theorem Spelled.upg (line : Nat) :
    Spelled.Statement (.upg line) := nofun
theorem Spelled.putf (e : Die) (line : Nat) :
    Spelled.Statement (.putf e line) := nofun
theorem Spelled.puts (line : Nat) :
    Spelled.Statement (.puts line) := nofun
theorem Spelled.pute (line : Nat) :
    Spelled.Statement (.pute line) := nofun
theorem Spelled.putm (line : Nat) (img : LineImg) :
    Spelled.Statement (.putm line img) := nofun
theorem Spelled.puto (line : Nat) (img : LineImg) :
    Spelled.Statement (.puto line img) := nofun
theorem Spelled.inv (a : Agent) (line : Nat) (written : Option LineImg) :
    Spelled.Statement (.inv a line written) := nofun
theorem Spelled.fwdrd (e : Die) (line : Nat) (r : Die) :
    Spelled.Statement (.fwdrd e line r) := nofun
theorem Spelled.snprd (line : Nat) (written : Option LineImg) :
    Spelled.Statement (.snprd line written) := nofun
theorem Spelled.invack (a : Agent) (line : Nat) :
    Spelled.Statement (.invack a line) := nofun
theorem Spelled.invdata (line : Nat) (img : LineImg) :
    Spelled.Statement (.invdata line img) := nofun
theorem Spelled.snpack (line : Nat) :
    Spelled.Statement (.snpack line) := nofun
theorem Spelled.snpdata (line : Nat) (img : LineImg) :
    Spelled.Statement (.snpdata line img) := nofun
theorem Spelled.snpdatao (line : Nat) (img : LineImg) :
    Spelled.Statement (.snpdatao line img) := nofun
theorem Spelled.fwddone (e : Die) (line : Nat) :
    Spelled.Statement (.fwddone e line) := nofun
theorem Spelled.putack (a : Agent) (line : Nat) :
    Spelled.Statement (.putack a line) := nofun
theorem Spelled.retry (a : Agent) (line : Nat) :
    Spelled.Statement (.retry a line) := nofun
theorem Spelled.credit (a : Agent) (line : Nat) :
    Spelled.Statement (.credit a line) := nofun
theorem Spelled.grante (line : Nat) :
    Spelled.Statement (.grante line) := nofun
theorem Spelled.dataf (e : Die) (line : Nat) (v : LineVal) :
    Spelled.Statement (.dataf e line v) := nofun
theorem Spelled.datas (line : Nat) (v : LineVal) :
    Spelled.Statement (.datas line v) := nofun
theorem Spelled.datae (line : Nat) (v : LineVal) :
    Spelled.Statement (.datae line v) := nofun
theorem Spelled.datapsn (a : Agent) (line : Nat) :
    Spelled.Statement (.datapsn a line) := nofun
theorem Spelled.homeAmberReqWrite (who : Requester) (die : Die) (x : WideAcc) :
    Spelled.Statement (.homeAmberReqWrite who die x) := nofun
theorem Spelled.amberTransitionDone (die : Die) (ch : Chan) :
    Spelled.Statement (.amberTransitionDone die ch) := nofun
theorem Spelled.probeTimeout (line : Nat) (a : Agent) :
    Spelled.Statement (.probeTimeout line a) := nofun
theorem Spelled.homeCntClear (who : Requester) (die : Die) (v : W32) :
    Spelled.Statement (.homeCntClear who die v) := nofun
theorem Spelled.probeLogClear (who : Requester) (die : Die) (v : W32) :
    Spelled.Statement (.probeLogClear who die v) := nofun
theorem Spelled.training (die : Die) (ch : Chan) (desc : BitVec 512) (failed : List (Fin 328)) :
    Spelled.Statement (.training die ch desc failed) := nofun
theorem Spelled.trainingComplete (die : Die) (ch : Chan) (tuned : Bool) :
    Spelled.Statement (.trainingComplete die ch tuned) := nofun
theorem Spelled.recalNow (who : Requester) (die : Die) (ch : Chan) (v : W32) :
    Spelled.Statement (.recalNow who die ch v) := nofun
theorem Spelled.recalIntervalExpiry (die : Die) (ch : Chan) :
    Spelled.Statement (.recalIntervalExpiry die ch) := nofun
theorem Spelled.recalWire (die : Die) (ch : Chan) (margin : Bool) :
    Spelled.Statement (.recalWire die ch margin) := nofun
theorem Spelled.refresh (die : Die) (ch : Chan) :
    Spelled.Statement (.refresh die ch) := nofun
theorem Spelled.offlineReq (who : Requester) (die : Die) (ch : Chan) (v : W32) :
    Spelled.Statement (.offlineReq who die ch v) := nofun
theorem Spelled.onlineReq (who : Requester) (die : Die) (ch : Chan) (v : W32) :
    Spelled.Statement (.onlineReq who die ch v) := nofun
theorem Spelled.ictRun (who : Requester) (die : Die) (ch : Chan) (v : W32) :
    Spelled.Statement (.ictRun who die ch v) := nofun
theorem Spelled.ictDone (die : Die) (ch : Chan) (failed : List (Fin 328)) :
    Spelled.Statement (.ictDone die ch failed) := nofun
theorem Spelled.go (who : Requester) (die : Die) (ch : Chan) (v : W32) :
    Spelled.Statement (.go who die ch v) := nofun
theorem Spelled.stop (who : Requester) (die : Die) (ch : Chan) (v : W32) :
    Spelled.Statement (.stop who die ch v) := nofun
theorem Spelled.scrubLine (die : Die) (ch : Chan) :
    Spelled.Statement (.scrubLine die ch) := nofun
theorem Spelled.rawRead (who : Requester) (die : Die) (ch : Chan) (v : W32) :
    Spelled.Statement (.rawRead who die ch v) := nofun
theorem Spelled.rawWrite (who : Requester) (die : Die) (ch : Chan) (v : W32) :
    Spelled.Statement (.rawWrite who die ch v) := nofun
theorem Spelled.mcCntClear (who : Requester) (die : Die) (ch : Chan) (v : W32) :
    Spelled.Statement (.mcCntClear who die ch v) := nofun
theorem Spelled.ceTableClear (who : Requester) (die : Die) (v : W32) :
    Spelled.Statement (.ceTableClear who die v) := nofun
theorem Spelled.frame (u : LinkUnit) (x : FrameIn) :
    Spelled.Statement (.frame u x) := nofun
theorem Spelled.dieLinkTrained (die : Die) (port : Port) :
    Spelled.Statement (.dieLinkTrained die port) := nofun
theorem Spelled.dieLinkFault (die : Die) (port : Port) (why : LinkFault) :
    Spelled.Statement (.dieLinkFault die port why) := nofun
theorem Spelled.failedDegraded (die : Die) (cause : Fin 8) (unit : Chan) :
    Spelled.Statement (.failedDegraded die cause unit) := nofun
theorem Spelled.portActive (fp : FPort) (failed : BitVec 16) (ident : Ident) :
    Spelled.Statement (.portActive fp failed ident) := nofun
theorem Spelled.identityFrame (fp : FPort) (ident : Ident) :
    Spelled.Statement (.identityFrame fp ident) := nofun
theorem Spelled.partnerLoss (fp : FPort) :
    Spelled.Statement (.partnerLoss fp) := nofun
theorem Spelled.quiesceNotice (fp : FPort) :
    Spelled.Statement (.quiesceNotice fp) := nofun
theorem Spelled.laneMarginLow (die : Die) (port : Port) (lane : Fin 56) (height : Byte) (width : Byte) :
    Spelled.Statement (.laneMarginLow die port lane height width) := nofun
theorem Spelled.rd (fp : FPort) (x : TMsg) :
    Spelled.Statement (.rd fp x) := nofun
theorem Spelled.wr (fp : FPort) (x : TMsg) :
    Spelled.Statement (.wr fp x) := nofun
theorem Spelled.transportRed (fp : FPort) (x : TMsg) :
    Spelled.Statement (.transportRed fp x) := nofun
theorem Spelled.transportAtom (fp : FPort) (x : TMsg) :
    Spelled.Statement (.transportAtom fp x) := nofun
theorem Spelled.rdata (fp : FPort) (x : TMsg) :
    Spelled.Statement (.rdata fp x) := nofun
theorem Spelled.ack (fp : FPort) (x : TMsg) :
    Spelled.Statement (.ack fp x) := nofun
theorem Spelled.adata (fp : FPort) (x : TMsg) :
    Spelled.Statement (.adata fp x) := nofun
theorem Spelled.transitTimeout (i : Nat) :
    Spelled.Statement (.transitTimeout i) := nofun
theorem Spelled.deadPartnerTimeout (fp : FPort) (dev : DevNo) :
    Spelled.Statement (.deadPartnerTimeout fp dev) := nofun
theorem Spelled.deadMapPropagation (dev : DevNo) :
    Spelled.Statement (.deadMapPropagation dev) := nofun
theorem Spelled.fabDeadMapWrite (who : Requester) (die : Die) (k : Fin 8192) (v : W32) :
    Spelled.Statement (.fabDeadMapWrite who die k v) := nofun
theorem Spelled.routeLoadActive :
    Spelled.Statement .routeLoadActive := nofun
theorem Spelled.luEnable (who : Requester) (u : LinkUnit) :
    Spelled.Statement (.luEnable who u) := nofun
theorem Spelled.luDisable (who : Requester) (u : LinkUnit) :
    Spelled.Statement (.luDisable who u) := nofun
theorem Spelled.luQuiesce (who : Requester) (u : LinkUnit) :
    Spelled.Statement (.luQuiesce who u) := nofun
theorem Spelled.quiesced (fp : FPort) :
    Spelled.Statement (.quiesced fp) := nofun
theorem Spelled.luResume (who : Requester) (u : LinkUnit) :
    Spelled.Statement (.luResume who u) := nofun
theorem Spelled.luRetrain (who : Requester) (u : LinkUnit) :
    Spelled.Statement (.luRetrain who u) := nofun
theorem Spelled.lrRoleWrite (who : Requester) (die : Die) (port : Port) (v : W32) :
    Spelled.Statement (.lrRoleWrite who die port v) := nofun
theorem Spelled.luCreditResWrite (who : Requester) (fp : FPort) (p : Part) (v : W32) :
    Spelled.Statement (.luCreditResWrite who fp p v) := nofun
theorem Spelled.epCntClear (who : Requester) (die : Die) (port : Port) (v : W32) :
    Spelled.Statement (.epCntClear who die port v) := nofun
theorem Spelled.vilpinTrained (rev2 : Bool) :
    Spelled.Statement (.vilpinTrained rev2) := nofun
theorem Spelled.vilpinLoss :
    Spelled.Statement .vilpinLoss := nofun
theorem Spelled.doorbell (q : Queue) (tail : W32) :
    Spelled.Statement (.doorbell q tail) := nofun
theorem Spelled.qCqHeadWrite (q : Queue) (v : W32) :
    Spelled.Statement (.qCqHeadWrite q v) := nofun
theorem Spelled.qCfgWrite (q : Queue) (v : W32) :
    Spelled.Statement (.qCfgWrite q v) := nofun
theorem Spelled.qIrqAddrWrite (q : Queue) (x : WideAcc) :
    Spelled.Statement (.qIrqAddrWrite q x) := nofun
theorem Spelled.copy (q : Queue) :
    Spelled.Statement (.copy q) := nofun
theorem Spelled.fenceDescriptor (q : Queue) :
    Spelled.Statement (.fenceDescriptor q) := nofun
theorem Spelled.powerHint (q : Queue) :
    Spelled.Statement (.powerHint q) := nofun
theorem Spelled.acquire (q : Queue) :
    Spelled.Statement (.acquire q) := nofun
theorem Spelled.release (q : Queue) :
    Spelled.Statement (.release q) := nofun
theorem Spelled.set (q : Queue) :
    Spelled.Statement (.set q) := nofun
theorem Spelled.acquireTimeout (q : Queue) :
    Spelled.Statement (.acquireTimeout q) := nofun
theorem Spelled.completionRecord (q : Queue) :
    Spelled.Statement (.completionRecord q) := nofun
theorem Spelled.partCreate (who : Requester) (p : Part) :
    Spelled.Statement (.partCreate who p) := nofun
theorem Spelled.partActivate (who : Requester) (p : Part) :
    Spelled.Statement (.partActivate who p) := nofun
theorem Spelled.partReset (who : Requester) (p : Part) :
    Spelled.Statement (.partReset who p) := nofun
theorem Spelled.partRemove (who : Requester) (p : Part) :
    Spelled.Statement (.partRemove who p) := nofun
theorem Spelled.resetStep4Timeout (p : Part) :
    Spelled.Statement (.resetStep4Timeout p) := nofun
theorem Spelled.partPreempt (who : Requester) (p : Part) (q : Fin 64) :
    Spelled.Statement (.partPreempt who p q) := nofun
theorem Spelled.saveComplete (l : Nat) :
    Spelled.Statement (.saveComplete l) := nofun
theorem Spelled.partResume (who : Requester) (p : Part) (q : Fin 64) :
    Spelled.Statement (.partResume who p q) := nofun
theorem Spelled.restoreComplete (l : Nat) :
    Spelled.Statement (.restoreComplete l) := nofun
theorem Spelled.partFreeze (who : Requester) (p : Part) :
    Spelled.Statement (.partFreeze who p) := nofun
theorem Spelled.freezeComplete (p : Part) :
    Spelled.Statement (.freezeComplete p) := nofun
theorem Spelled.partThaw (who : Requester) (p : Part) :
    Spelled.Statement (.partThaw who p) := nofun
theorem Spelled.clusterOwnerWrite (who : Requester) (cl : Cluster) (v : W32) :
    Spelled.Statement (.clusterOwnerWrite who cl v) := nofun
theorem Spelled.granuleOwnerWrite (who : Requester) (gr : Fin 3072) (v : W32) :
    Spelled.Statement (.granuleOwnerWrite who gr v) := nofun
theorem Spelled.partCfgWrite (who : Requester) (p : Part) (v : W32) :
    Spelled.Statement (.partCfgWrite who p v) := nofun
theorem Spelled.partRateWrite (who : Requester) (p : Part) (v : W32) :
    Spelled.Statement (.partRateWrite who p v) := nofun
theorem Spelled.tokenRefill :
    Spelled.Statement .tokenRefill := nofun
theorem Spelled.partTlbInv (who : Requester) (p : Part) (v : W32) :
    Spelled.Statement (.partTlbInv who p v) := nofun
theorem Spelled.partNotifyAddrWrite (who : Requester) (p : Part) (x : WideAcc) :
    Spelled.Statement (.partNotifyAddrWrite who p x) := nofun
theorem Spelled.vcoreTargetWrite (who : Requester) (die : Die) (v : W32) :
    Spelled.Statement (.vcoreTargetWrite who die v) := nofun
theorem Spelled.pwrCapWrite (who : Requester) (v : W32) :
    Spelled.Statement (.pwrCapWrite who v) := nofun
theorem Spelled.capLoop (mw : W32) (volt : BitVec 16) (inA outA inB outB : Byte) :
    Spelled.Statement (.capLoop mw volt inA outA inB outB) := nofun
theorem Spelled.hintExpiry (p : Part) :
    Spelled.Statement (.hintExpiry p) := nofun
theorem Spelled.droopTrip (die : Die) (cl : Fin 36) :
    Spelled.Statement (.droopTrip die cl) := nofun
theorem Spelled.clampRelease (die : Die) :
    Spelled.Statement (.clampRelease die) := nofun
theorem Spelled.dieLoopPeriod (die : Die) (temps : BitVec 104) :
    Spelled.Statement (.dieLoopPeriod die temps) := nofun
theorem Spelled.gate (who : Requester) (die : Die) (cl : BitVec 6) :
    Spelled.Statement (.gate who die cl) := nofun
theorem Spelled.wakeCluster (who : Requester) (die : Die) (cl : BitVec 6) :
    Spelled.Statement (.wakeCluster who die cl) := nofun
theorem Spelled.droopCfgWrite (who : Requester) (die : Die) (v : W32) :
    Spelled.Statement (.droopCfgWrite who die v) := nofun
theorem Spelled.thermCfgWrite (who : Requester) (die : Die) (v : W32) :
    Spelled.Statement (.thermCfgWrite who die v) := nofun
theorem Spelled.stewardWarmReset :
    Spelled.Statement .stewardWarmReset := nofun
theorem Spelled.clkCtrlSrcWrite (who : Requester) (die : Die) (v : W32) :
    Spelled.Statement (.clkCtrlSrcWrite who die v) := nofun
theorem Spelled.loopALockLoss (die : Die) :
    Spelled.Statement (.loopALockLoss die) := nofun
theorem Spelled.loopBLockLoss (die : Die) (n : Port) :
    Spelled.Statement (.loopBLockLoss die n) := nofun
theorem Spelled.clkEnWrite (who : Requester) (die : Die) (v : W32) :
    Spelled.Statement (.clkEnWrite who die v) := nofun
theorem Spelled.timerSnapshot (who : Requester) (v : W32) :
    Spelled.Statement (.timerSnapshot who v) := nofun
theorem Spelled.powerOnReset (strap : Byte) (credClrLow : Bool) (warmLow : Bool) :
    Spelled.Statement (.powerOnReset strap credClrLow warmLow) := nofun
theorem Spelled.pwrGoodFall :
    Spelled.Statement .pwrGoodFall := nofun
theorem Spelled.rstCmdWarmReset (who : Requester) :
    Spelled.Statement (.rstCmdWarmReset who) := nofun
theorem Spelled.warmRstN :
    Spelled.Statement .warmRstN := nofun
theorem Spelled.coreReset (who : Requester) (die : Die) (v : W32) :
    Spelled.Statement (.coreReset who die v) := nofun
theorem Spelled.coreResetDrainTimeout (die : Die) :
    Spelled.Statement (.coreResetDrainTimeout die) := nofun
theorem Spelled.standby (who : Requester) :
    Spelled.Statement (.standby who) := nofun
theorem Spelled.standbyComplete :
    Spelled.Statement .standbyComplete := nofun
theorem Spelled.wake (who : Requester) :
    Spelled.Statement (.wake who) := nofun
theorem Spelled.strapDelayExpiry :
    Spelled.Statement .strapDelayExpiry := nofun
theorem Spelled.crystalCheck (die : Die) (countA : Nat) (countB : Nat) (locks : Bool) :
    Spelled.Statement (.crystalCheck die countA countB locks) := nofun
theorem Spelled.stewardBoot :
    Spelled.Statement .stewardBoot := nofun
theorem Spelled.dieJoin (die : Die) :
    Spelled.Statement (.dieJoin die) := nofun
theorem Spelled.stageBoundExpiry :
    Spelled.Statement .stageBoundExpiry := nofun
theorem Spelled.moduleReady :
    Spelled.Statement .moduleReady := nofun
theorem Spelled.attest (h : SlateHdr) (part : Option Part) (nonce : BitVec 256) :
    Spelled.Statement (.attest h part nonce) := nofun
theorem Spelled.identity (h : SlateHdr) :
    Spelled.Statement (.identity h) := nofun
theorem Spelled.telemetry (h : SlateHdr) :
    Spelled.Statement (.telemetry h) := nofun
theorem Spelled.routeLoad (h : SlateHdr) (dev : DevNo) (members : List (BitVec 31)) (groups : List (BitVec 31)) :
    Spelled.Statement (.routeLoad h dev members groups) := nofun
theorem Spelled.deadClear (h : SlateHdr) (dev : DevNo) :
    Spelled.Statement (.deadClear h dev) := nofun
theorem Spelled.rxUpdate (h : SlateHdr) (es : List (Fin 64 × RxEntry)) :
    Spelled.Statement (.rxUpdate h es) := nofun
theorem Spelled.setAddr (h : SlateHdr) (module : BitVec 128) (manager : BitVec 128) :
    Spelled.Statement (.setAddr h module manager) := nofun
theorem Spelled.warmReset (h : SlateHdr) :
    Spelled.Statement (.warmReset h) := nofun
theorem Spelled.fwStage (h : SlateHdr) (chunk : List Byte) (last : Bool) :
    Spelled.Statement (.fwStage h chunk last) := nofun
theorem Spelled.fwActivate (h : SlateHdr) :
    Spelled.Statement (.fwActivate h) := nofun
theorem Spelled.fwConfirm (h : SlateHdr) :
    Spelled.Statement (.fwConfirm h) := nofun
theorem Spelled.keyLoad (h : SlateHdr) (body : List Byte) :
    Spelled.Statement (.keyLoad h body) := nofun
theorem Spelled.epochRetire (h : SlateHdr) (p : Part) (epoch : BitVec 16) :
    Spelled.Statement (.epochRetire h p epoch) := nofun
theorem Spelled.credSet (h : SlateHdr) (i : Fin 8) (key : BitVec 256) (roles : BitVec 6) :
    Spelled.Statement (.credSet h i key roles) := nofun
theorem Spelled.slateChunkTimeout (seq : W64) :
    Spelled.Statement (.slateChunkTimeout seq) := nofun
theorem Spelled.readBootState :
    Spelled.Statement .readBootState := nofun
theorem Spelled.readModuleIdentifier :
    Spelled.Statement .readModuleIdentifier := nofun
theorem Spelled.readHighestDieTemperature :
    Spelled.Statement .readHighestDieTemperature := nofun
theorem Spelled.readStandbyState :
    Spelled.Statement .readStandbyState := nofun
theorem Spelled.enroll (key : BitVec 256) :
    Spelled.Statement (.enroll key) := nofun
theorem Spelled.seal (who : Requester) (v : W32) :
    Spelled.Statement (.seal who v) := nofun
theorem Spelled.measExtend (who : Requester) (v : W32) :
    Spelled.Statement (.measExtend who v) := nofun
theorem Spelled.secKslotEpochWrite (who : Requester) (p : Part) (v : W32) :
    Spelled.Statement (.secKslotEpochWrite who p v) := nofun
theorem Spelled.dbgAttachArm (who : Requester) (p : Part) (v : W32) :
    Spelled.Statement (.dbgAttachArm who p v) := nofun
theorem Spelled.dbgAttachNow (who : Requester) (p : Part) (v : W32) :
    Spelled.Statement (.dbgAttachNow who p v) := nofun
theorem Spelled.dbgDetach (who : Requester) (p : Part) (v : W32) :
    Spelled.Statement (.dbgDetach who p v) := nofun
theorem Spelled.dbgHalt (who : Requester) (die : Die) :
    Spelled.Statement (.dbgHalt who die) := nofun
theorem Spelled.dbgStep (who : Requester) (die : Die) :
    Spelled.Statement (.dbgStep who die) := nofun
theorem Spelled.dbgResume (who : Requester) (die : Die) :
    Spelled.Statement (.dbgResume who die) := nofun
theorem Spelled.dbgRead (who : Requester) (die : Die) :
    Spelled.Statement (.dbgRead who die) := nofun
theorem Spelled.dbgWrite (who : Requester) (die : Die) :
    Spelled.Statement (.dbgWrite who die) := nofun
theorem Spelled.dbgEnd (who : Requester) (die : Die) :
    Spelled.Statement (.dbgEnd who die) := nofun
theorem Spelled.selfTest (who : Requester) (die : Die) (v : W32) :
    Spelled.Statement (.selfTest who die v) := nofun
theorem Spelled.selfTestEnd (die : Die) (failed : W64) :
    Spelled.Statement (.selfTestEnd die failed) := nofun
theorem Spelled.sliceTest (who : Requester) (die : Die) (v : W32) :
    Spelled.Statement (.sliceTest who die v) := nofun
theorem Spelled.sliceTestEnd (die : Die) (failed : Bool) :
    Spelled.Statement (.sliceTestEnd die failed) := nofun
theorem Spelled.dbgCntCfgWrite (who : Requester) (die : Die) (k : Fin 16) (v : W32) :
    Spelled.Statement (.dbgCntCfgWrite who die k v) := nofun
theorem Spelled.csupCoreFaultClear (who : Requester) (cl : Cluster) (x : WideAcc) :
    Spelled.Statement (.csupCoreFaultClear who cl x) := nofun
theorem Spelled.dmFltConsumedWrite (who : Requester) (die : Die) (v : W32) :
    Spelled.Statement (.dmFltConsumedWrite who die v) := nofun
theorem Spelled.fatalClear (who : Requester) (die : Die) (v : W32) :
    Spelled.Statement (.fatalClear who die v) := nofun
theorem Spelled.dmIrqAddrWrite (who : Requester) (x : WideAcc) :
    Spelled.Statement (.dmIrqAddrWrite who x) := nofun
theorem Spelled.dmIrqPauseExpiry (taken : Bool) :
    Spelled.Statement (.dmIrqPauseExpiry taken) := nofun
theorem Spelled.illegalOpcode (g : GRef) (word : W64) :
    Spelled.Statement (.illegalOpcode g word) := nofun
theorem Spelled.vcoreRampDone (die : Die) :
    Spelled.Statement (.vcoreRampDone die) := nofun

end Sys2Proof.Laws
end

