-- ==== Sys2Proof/Laws/Vec.lean ====
section
/-! SUPPORT. Lanes of a vector that a function gives, and what the three ways of writing a result do to a group. -/
namespace Sys2Proof.Machine

/-- Lane l of a vector given by a function. -/
theorem vget_vmake (f : Nat → W32) {l : Nat} (h : l < 32) : vget (vmake f) l = f l := by
  unfold vget vmake
  simp [h]

/-- Vectors are equal when their 32 lanes are. -/
theorem vmake_congr {f g : Nat → W32} (h : ∀ l, l < 32 → f l = g l) : vmake f = vmake g := by
  unfold vmake
  exact List.map_congr_left fun l hl => h l (List.mem_range.1 hl)

theorem vget_vsplat (x : W32) {l : Nat} (h : l < 32) : vget (vsplat x) l = x := vget_vmake _ h

/-- Lane l of the second operand (Table 4.2). -/
theorem vget_vOrS (x : Group) (w : IW) {l : Nat} (h : l < 32) :
    vget (x.vOrS w) l = if w.bs then (x.rs w.b).setWidth 32 else vget (x.rv w.b) l := by
  unfold Group.vOrS
  split
  · exact vget_vsplat _ h
  · rfl

/-- A vector result by lanes (R65, R100). -/
theorem vectorOut_vmake (x : Group) (w : IW) (f : Nat → W32) :
    x.vectorOut w (vmake f) =
      { x with v := x.v.put w.dn (vmake fun l => if (x.rp w.pn).getLsbD l then f l else vget (x.rv w.dn) l) } := by
  unfold Group.vectorOut Group.wv vmerge
  rw [vmake_congr]
  intro l hl
  rw [vget_vmake _ hl]

/-- A scalar result (R88, R100). -/
theorem scalarOut_eq (x : Group) (w : IW) (v : W64) :
    x.scalarOut w v = if x.rp w.pn = 0 ∨ w.dn = 0 then x else { x with s := x.s.put w.dn v } := by
  unfold Group.scalarOut Group.ws
  by_cases h : x.rp w.pn = 0 <;> by_cases k : w.dn = 0 <;> simp [h, k]

/-- A predicate result (R88, R90). -/
theorem predOut_eq (x : Group) (w : IW) (v : W32) :
    x.predOut w v = if w.dn = 0 then x
      else { x with p := x.p.put w.dn ((x.rp w.dn &&& ~~~x.rp w.pn) ||| (v &&& x.rp w.pn)) } := rfl

end Sys2Proof.Machine
end

