-- ==== Sys2Proof/Tests/Slice0.lean ====
section
/-! SUPPORT. Tests of one step each, and for every statement with hypotheses states and operands that meet them (the `wit_`
theorems), the spec's worked examples, and terms that the well-formedness checks refuse. -/

set_option Elab.async false
open Sys2Proof Sys2Proof.Machine
namespace Sys2Proof.Tests

/-! ### Small states -/

/-- The first group of core 0. -/
def tg : GRef := ⟨0, 0⟩
/-- A group that has fetched the word of a command. -/
def spells (c : Instr) (x : Group) : Group := { x with ir := (groupWord c).map (·.2) }
/-- The machine after reset with group x on core 0, in a launch. -/
def gst (x : Group) : State :=
  { State.reset with m := { groups := [(0, x)], cores := [(0, { launch := some 0, share := 1 })]
                            launches := [(0, { queue := 0, seq := 0, desc := [] })] } }
/-- A group with values in some registers, and p15 governing lanes 0 and 31. -/
def gx : Group :=
  { pc := 0x10000, s := [(3, 0x8000000080000005), (4, 0x1007C), (31, 0xFFFFFFFFFFFFFFF8)], p := [(1, 0x80000000), (3, 0xF0), (15, 0x80000001)]
    v := [(3, vmake fun l => BitVec.ofNat 32 (l * 0x1010101)), (31, vmake fun l => BitVec.ofNat 32 (0x80000000 + l))] }
/-- The group stands before the command. -/
def stands (c : Instr) (x : Group) : Bool := decide (Before (gst (spells c x)) tg c (spells c x))
/-- The entry of a list at a place. -/
def nth {α : Type} (l : List α) (n : Nat) : List α := (l.drop n).take 1
/-- Format R's low word: registers b and c, and whether b is scalar. -/
def rlo (b c : Nat) (bs : Bool := false) : W32 := BitVec.ofNat 32 (b * 2 ^ 26 + c * 2 ^ 20 + if bs then 2 ^ 19 else 0)
/-- A word with its fields d = 31, a = 31, governed by p15. -/
def iw (t : BitVec 3) (lo : W32 := 0) : IW := ⟨15, 31, 31, t, lo⟩

/-! ### Decoding: words written out from the encoding tables -/

/-- Table 4.2: ADD.U64 s10, s2, s3 of major 0x08, function 0. -/
theorem test_decode_add :
    groupInstr tg 0b0001000_0000_001010_000010_000000_010_000011_000000_0_0000000000000000000#64
      = some (.add tg .salu ⟨0, 10, 2, 2, 0x0C000000⟩) := by decide +kernel
/-- Chapter 6's example: LD.V v10, [s4 + 0x40] is 0x9205082000000040. -/
theorem test_decode_ld_v : groupInstr tg 0x9205082000000040 = some (.ldV tg 4 ⟨0, 10, 4, 0, 0x40⟩) := by decide +kernel
/-- Majors 0x00 and 0x7F are not defined (R96). -/
theorem test_decode_undefined : groupInstr tg 0 = none ∧ groupInstr tg 0xFFFFFFFFFFFFFFFF = none := by decide +kernel

/-! ### Witnesses: states that meet the hypotheses of the statements -/

theorem wit_step : ({ State.reset with pending := [.readBootState] } : State).pending = .readBootState :: [] := rfl

/-- R101: every function of the ALU majors, in its scalar and vector forms, with the immediate forms of those of two operands. -/
theorem wit_alu : ∀ k ∈ [AluForm.salu, .valu, .salui, .valui], ∀ n < 17,
    n ∈ [4, 5, 10, 13, 14, 15, 16] ∧ k ∈ [.salui, .valui] ∨ ∃ t ∈ [(1 : BitVec 3), 4], ∃ row ∈ nth (aluRows tg k (iw t)) n,
      stands row.1 gx ∧ aluCheck row.2.1 k (iw t) = none := by decide +kernel

theorem wit_mul : ∀ k ∈ [MulForm.smul, .vmul], ∀ n < 5, 2 < n ∧ k = .vmul ∨
    ∃ row ∈ nth (mulRows tg k (iw 1)) n, stands row.1 gx ∧ mulCheck row.2.1 k (iw 1) = none := by decide +kernel

theorem wit_moves :
    (∀ k ∈ [AluForm.salu, .valu], stands (.sel tg k (iw 4)) gx ∧ selCheck k (iw 4) = none) ∧
    (stands (.movi tg ⟨15, 31, 0, 5, 7⟩) gx ∧ checkI ⟨15, 31, 0, 5, 7⟩ true .s .none true = none) ∧
    (stands (.movhi tg ⟨15, 31, 0, 5, 7⟩) gx ∧ checkI ⟨15, 31, 0, 5, 7⟩ true .s .none true = none) ∧
    (stands (.vmovi tg ⟨15, 63, 0, 4, 7⟩) gx ∧ checkI ⟨15, 63, 0, 4, 7⟩ (tyVec 4) (.v 1) .none true = none) ∧
    (stands (.vbcast tg (iw 4)) gx ∧ checkR (iw 4) true (.v 1) .s .none .none = none) ∧
    (stands (.vlane tg (iw 1 31)) gx ∧ vlaneCheck (iw 1 31) = none) ∧
    (stands (.vlaneid tg ⟨15, 63, 0, 0, 0⟩) gx ∧ checkR ⟨15, 63, 0, 0, 0⟩ true (.v 1) .none .none .none = none) := by
  decide +kernel

theorem wit_cmp : (∀ k ∈ [CmpForm.scmp, .scmpi, .vcmp, .vcmpi],
      stands (.cmp tg k 5 ⟨15, 15, 31, 1, 0⟩) gx ∧ cmpCheck k 5 ⟨15, 15, 31, 1, 0⟩ = none) ∧
    stands (.setc tg 5 (iw 3)) gx ∧ checkR (iw 3) true .s .s .s .none = none := by decide +kernel

theorem wit_pred :
    (∀ n < 7, ∃ row ∈ nth (predRows tg ⟨15, 15, 15, 0, 0⟩ gx) n, stands row.1 gx ∧
      checkR ⟨15, 15, 15, 0, 0⟩ true .pd row.2.1 row.2.2.1 .none = none) ∧
    (∀ n < 3, ∃ row ∈ nth (predScalarRows tg ⟨15, 31, 15, 0, 0⟩ gx) n, stands row.1 gx ∧
      checkR ⟨15, 31, 15, 0, 0⟩ true .s .p .none .none = none) := by decide +kernel

theorem wit_fp : ∀ k ∈ [FpForm.vfp, .vfpi], ∀ n < 11, n ∈ [3, 4, 5, 8, 9] ∧ k = .vfpi ∨
    ∃ row ∈ nth (fpRows tg k (iw 6)) n, stands row.1 gx ∧ fpCheck row.2.1 k (iw 6) = none := by decide +kernel

theorem wit_vtrans : checkR (iw 6) true (.v 1) (.v 1) .none .none = none ∧
    ∀ row ∈ vtransRows tg (iw 6), stands row.1 gx := by decide +kernel

theorem wit_vred : ∀ n < 6, ∃ t ∈ [(1 : BitVec 3), 6], ∃ row ∈ nth (vredRows tg (iw t)) n,
    stands row.1 gx ∧ checkR (iw t) row.2.1 .s (.v 1) .none .none = none := by decide +kernel

theorem wit_convert :
    (stands (.cvt tg 0x23 (iw 6)) gx ∧ cvtCheck 0x23 (iw 6) = none) ∧
    (stands (.cvt tg 2 (iw 6 (rlo 3 2))) gx ∧ cvtCheck 2 (iw 6 (rlo 3 2)) = none) ∧
    (stands (.bscale tg 0 (iw 6)) gx ∧ bscaleCheck 0 (iw 6) = none) ∧
    (stands (.bcvt tg 0 (iw 6 0x80)) gx ∧ bcvtCheck 0 (iw 6 0x80) = none) := by decide +kernel

theorem wit_permute :
    (stands (.shfl tg (iw 4)) gx ∧ checkR (iw 4) true (.v 1) (.v 1) .vs .none = none) ∧
    (stands (.rot tg (iw 4 (rlo 31 0 true))) gx ∧ checkR (iw 4 (rlo 31 0 true)) true (.v 1) (.v 1) .sReq .none = none) ∧
    (stands (.qbshuf tg (iw 4)) gx ∧ checkR (iw 4) true (.v 1) (.v 1) (.v 1) .none = none) ∧
    (stands (.shflXor tg (iw 4 31)) gx ∧ permiCheck (iw 4 31) (.v 1) 5 = none) ∧
    (stands (.roti tg (iw 4 31)) gx ∧ permiCheck (iw 4 31) (.v 1) 5 = none) ∧
    (stands (.laneb tg (iw 4 31)) gx ∧ permiCheck (iw 4 31) (.v 1) 5 = none) ∧
    (stands (.insb tg (iw 4 127)) gx ∧ permiCheck (iw 4 127) .s 7 = none) := by decide +kernel

/-- A branch of a group governed by p15: its condition, link and target registers, and its offset. -/
def bw (cond link target : Nat) (off : W32) (pred : BitVec 4 := 15) : BW :=
  ⟨pred, BitVec.ofNat 21 (cond * 2 ^ 19 + link * 2 ^ 14 + target * 2 ^ 9), off⟩
/-- A word with no operands, governed by p0. -/
def iz (lo : W32 := 0) : IW := ⟨0, 0, 0, 0, lo⟩
/-- That machine with more set. -/
def also (s : State) (f : Mach → Mach) : State := { s with m := f s.m }
/-- The little-endian bytes of the fields of a descriptor, in order, each with its width. -/
def packed (fs : List (Nat × Nat)) : List Byte := fs.flatMap fun f => bytesOf f.1 f.2

theorem wit_branch :
    (∀ cond ∈ [0, 1, 2], stands (.br tg (bw cond 31 0 0xFFFFFFFF)) gx = true ∧ bwCond (bw cond 31 0 0xFFFFFFFF) ≠ 3 ∧
      (bw cond 31 0 0xFFFFFFFF).mid.toNat % 2 ^ 14 = 0) ∧
    (stands (.brInd tg (bw 0 1 31 0)) gx ∧ (bw 0 1 31 0).mid.toNat % 2 ^ 9 = 0 ∧
      (gx.rs (bwTarget (bw 0 1 31 0))).toNat % 8 = 0) ∧
    (stands (.brInd tg (bw 1 1 3 0)) gx ∧ bwCond (bw 1 1 3 0) = 1 ∧ gx.rp 15 ≠ 0xFFFFFFFF) ∧
    (stands (.loop tg (bw 0 31 0 5 0)) gx ∧ bwCond (bw 0 31 0 5 0) = 0 ∧ (bw 0 31 0 5 0).mid.toNat % 2 ^ 14 = 0 ∧
      bwLink (bw 0 31 0 5 0) ≠ 0) := by decide +kernel

/-- A debugger attached to the launch of the first core. -/
def attached (s : State) : State := also s fun m => { m with launches := m.launches.mapV fun y => { y with attached := true } }

theorem wit_system :
    (stands (.nop tg (iz)) gx ∧ checkI iz true .none .none false = none) ∧
    (stands (.rdsr tg ⟨15, 31, 0, 0, 10⟩) gx ∧ rdsrCheck ⟨15, 31, 0, 0, 10⟩ = none) ∧
    (stands (.brk tg (iz 7)) gx ∧ checkI (iz 7) true .none .none true = none ∧
      ((gst gx).m.coreLaunch 0).map (·.attached) ≠ some true) ∧
    Before (attached (gst (spells (.brk tg (iz 7)) gx))) tg (.brk tg (iz 7)) (spells (.brk tg (iz 7)) gx) ∧
    ((attached (gst gx)).m.coreLaunch 0).map (·.attached) = some true ∧ gx.rp 0 ≠ 0 ∧
    (attached (gst gx)).m.sableCluster (clusterOfSlot 0) = false := by decide +kernel

/-- A launch of clusters of one block, with grid of 3 × 1 × 1, its timeouts at 5 ticks, that holds cluster 0 with one
block-cluster in slot 0. -/
def running (s : State) : State := also s fun m =>
  { m with clusters := [(0, { launch := some 0, slots := [(0, { index := 0 })] })]
           launches := [(0, { queue := 0, seq := 0, clusters := [0], next := 1
                              desc := packed [(0, 24), (3, 2), (1, 2), (1, 2), (0, 6), (5, 4)] })] }

theorem wit_barriers : barCheck iz = none ∧ stands (.exit tg iz) gx ∧ stands (.barBlock tg iz) gx ∧
    Before (running (gst (spells (.barCluster tg iz) gx))) tg (.barCluster tg iz) (spells (.barCluster tg iz) gx) ∧
    ((running (gst gx)).m.residentOf 0).isSome = true := by decide +kernel

/-- A group that waits at a block barrier since tick 0, beside one that has exited, or, in `late`, one that is at work. -/
def waiting (late : Bool) : State := also (running (gst { gx with stat := .waitBlock })) fun m =>
  { m with groups := [(0, { gx with stat := .waitBlock }), (7, { gx with stat := if late then .ready else .exited })]
           cores := [(0, { launch := some 0, share := 1, barStart := some 0 })]
           regs := [(Reg.CLK_RIM_TIMER, 6)] }

theorem wit_barrier_ends : (waiting false).m.off = false ∧ (waiting false).m.barReady (.block 0) = true ∧
    (waiting false).m.still (dieOfSlot 0) = false ∧
    ((waiting true).m.core 0).barStart = some 0 ∧ expired ((waiting true).m.now 0) 0 ((waiting true).m.barLimit (.block 0)) = true ∧
    (waiting true).m.group? 0 7 = some { gx with stat := .ready } ∧
    (((waiting true).m.blockGroups 0).filter fun p => !(waiting true).m.arrived false p) = [(0, 7)] := by
  decide +kernel

/-- A group whose fetch of the line at its pc has been answered. -/
def fetching : State := also (gst { gx with fetchRid := some 9 }) fun m =>
  { m with reqs := [(9, { kind := .fetch, src := .group 0 0, die := 0, part := 0, tgt := .home 512, ans := some { status := .ok, img := 0x1234 } })] }
/-- A group whose word names no instruction. -/
def illegal : State := gst { gx with ir := some 0 }

theorem wit_fetch : fetching.m.off = false ∧ fetching.m.group? 0 0 = some { gx with fetchRid := some 9 } ∧
    fetching.m.coreLaunch 0 = some { queue := 0, seq := 0, desc := [] } ∧ (fetching.m.dieSt 0).halted = false ∧
    (fetching.m.core 0).reset = false ∧ gx.stat = .ready ∧ gx.ir = none ∧
    (fetching.m.req? 9).map (fun q => (q.entry, q.ans)) = some (none, some { status := .ok, img := 0x1234 }) := by decide +kernel

theorem wit_illegal : illegal.m.off = false ∧ illegal.m.group? 0 0 = some { gx with ir := some 0 } ∧ groupInstr tg 0 = none ∧
    illegal.m.mayIssue 0 0 { gx with ir := some 0 } = true ∧ (illegal.m.core 0).launch = some 0 ∧
    illegal.m.launch? 0 = some { queue := 0, seq := 0, desc := [] } ∧
    illegal.m.bit64 (aCsup (clusterOfSlot 0) Reg.CSUP_CORE_FAULT) (indexOfSlot 0) = false := by decide +kernel

/-- A cluster whose one block-cluster has ended. -/
def ended : State := running (gst { gx with stat := .exited })
/-- The launch halted by a fault, with its one block-cluster at work. -/
def halted : State := also (running (gst gx)) fun m =>
  { m with launches := m.launches.mapV fun y => { y with halted := true, faults := [.errDecode] } }

theorem wit_slot_free : ended.m.off = false ∧ (ended.m.cluster 0).launch = some 0 ∧ (ended.m.cluster 0).slots.get? 0 = some { index := 0 } ∧
    ended.m.slotEnded 0 0 = true ∧ (ended.m.launch? 0).map (·.dispatching) = some true := by decide +kernel

theorem wit_launch_halt : halted.m.off = false ∧
    (halted.m.launch? 0).map (fun y => (y.halted, y.stat, y.clusters)) = some (true, .running, [0]) ∧
    (halted.m.cluster 0).slots ≠ [] := by decide +kernel

/-- That machine with granule 0 and cluster 0 of partition 0, and in the cluster the translation of page 0x10000. -/
def mapped (s : State) : State := also s fun m => Mach.wr
  { m with clusters := [(0, { launch := some 0, tlb := [(1, { frame := 0x20000, bytes := 65536, perm := 7 })] })] }
  Reg.PART_GRANULE_OWNER 0x20
/-- The group stands before the command in that machine. -/
def maps (c : Instr) (x : Group) : Bool := decide (Before (mapped (gst (spells c x))) tg c (spells c x))

theorem wit_load_scratchpad : ∀ f ∈ [(LsForm.s, (⟨15, 31, 0, 1, 32760⟩ : IW)), (.v, ⟨15, 62, 0, 1, 32512⟩), (.g, ⟨15, 62, 0, 1, 0⟩)],
    stands (loadCmd tg f.1 5 f.2) gx = true ∧ lsCheck f.1 false 5 f.2 = none ∧ gx.lsLanes f.1 f.2 8 ≠ [] ∧
    ((gst gx).m.core 0).spadBad = [] ∧ ((gst gx).m.core 0).spadSoft = [] ∧ gx.outs = [] ∧ gx.loads = [] ∧
    ∀ l ∈ gx.lsLanes f.1 f.2 8, l.2.toNat + 8 ≤ 32768 * ((gst gx).m.core 0).share := by decide +kernel

/-- The last 8 bytes of a line of page 0x10000, through s0. -/
def ldw (t : BitVec 3) : IW := ⟨15, 31, 0, t, 0x10078⟩

theorem wit_load_home : maps (.ldS tg 5 (ldw 0)) gx ∧ lsCheck .s false 5 (ldw 0) = none ∧ gx.rp 15 ≠ 0 ∧
    Translated (mapped (gst gx)).m 0 ((mapped (gst gx)).m.corePart 0) 0x10078 1 0x20078 ∧ 0x10078 % 128 + 8 ≤ 128 ∧
    0x20078 % 128 = 0x10078 % 128 ∧ ((mapped (gst gx)).m.core 0).l1.get? (0x20078 / 128) = none := by decide +kernel

theorem wit_prefetch : checkI ⟨15, 0, 0, 0, 0x10078⟩ true .none .s true = none ∧ maps (.pfSlice tg ⟨15, 0, 0, 0, 0x10078⟩) gx ∧
    Before (also (mapped (gst (spells (.pfL1 tg ⟨15, 0, 0, 0, 0x10078⟩) gx))) fun m => m.setCore 0 { m.core 0 with share := 1 })
      tg (.pfL1 tg ⟨15, 0, 0, 0, 0x10078⟩) (spells (.pfL1 tg ⟨15, 0, 0, 0, 0x10078⟩) gx) ∧
    ((gst gx).m.core 0).units ≠ 0 := by decide +kernel

/-- Lane 31's element at 0x1007C. -/
def atw (red : Bool) : IW := ⟨1, if red then 0 else 31, 4, 0, 0⟩

theorem wit_atomic : (∀ red ∈ [false, true], maps (if red then .red tg 0 (atw red) else .atom tg 0 (atw red)) gx = true ∧
      atomCheck red 0 (atw red) = none ∧ gx.atomLanes (atw red) = [(31, 0x1007C)]) ∧ atomBytes 0 = 4 ∧ gx.outs = [] ∧ gx.held = none ∧
    Translated (mapped (gst gx)).m 0 ((mapped (gst gx)).m.corePart 0) 0x1007C 3 0x2007C := by decide +kernel

theorem wit_reserved : (maps (.ldr tg 0 (ldw 2)) gx ∧ checkI (ldw 2) true .s .s true = none) ∧
    (maps (.stc tg 0 ⟨15, 31, 4, 0, rlo 3 0⟩) gx ∧ checkR ⟨15, 31, 4, 0, rlo 3 0⟩ true .s .s .s .none = none) ∧
    Translated (mapped (gst gx)).m 0 0 0x10078 1 0x20078 ∧ Translated (mapped (gst gx)).m 0 0 0x1007C 2 0x2007C := by decide +kernel

theorem wit_fence : fenceCheck ⟨15, 0, 0, 5, 0⟩ = none ∧ gx.rp 15 ≠ 0 ∧
    stands (.fence tg ⟨15, 0, 0, 5, 0⟩) gx ∧ stands (.fenceC tg ⟨15, 0, 0, 5, 0⟩) gx ∧
    stands (.acq tg ⟨15, 0, 0, 5, 0⟩) gx ∧ stands (.rel tg ⟨15, 0, 0, 5, 0⟩) gx := by decide +kernel

theorem wit_fence_ends : ∀ st ∈ [GStat.acquireWait 2, .waitFence false 4 0, .waitFence true 5 0],
    (gst { gx with stat := st }).m.group? 0 0 = some { gx with stat := st } ∧ (gst gx).m.still 0 = false ∧ gx.loads = [] ∧
    (gst gx).m.outPending { gx with stat := st } (fun _ => true) = false ∧ gx.held = none := by decide +kernel

/-- The store of the last 8 bytes of the scratchpad. -/
def stw : IW := ⟨15, 31, 0, 1, 32760⟩

theorem wit_store : stands (.stS tg 5 stw) gx ∧ lsCheck .s true 5 stw = none ∧ gx.rp 15 ≠ 0 ∧ gx.outs = [] ∧
    (gx.rs 0 + stw.lo.signExtend 64).toNat % 128 + 8 ≤ 128 ∧
    (gx.rs 0 + stw.lo.signExtend 64).toNat + 8 ≤ 32768 * ((gst gx).m.core 0).share := by decide +kernel

theorem wit_stores : ∀ f ∈ [(LsForm.s, (⟨15, 31, 0, 1, 32760⟩ : IW)), (.v, ⟨15, 62, 0, 1, 32512⟩), (.g, ⟨15, 62, 0, 1, 0⟩)],
    stands (storeCmd tg f.1 5 f.2) gx = true ∧ lsCheck f.1 true 5 f.2 = none ∧ gx.lsLanes f.1 f.2 8 ≠ [] ∧
    (((gst gx).m.stepCore 0 0).resolve 0 0 0 1 2 8 (gx.lsLanes f.1 f.2 8)).2 matches .ok _ [] := by decide +kernel

/-- A store of group 0 to a target, for some bytes of a line. -/
def aStore (tgt : Target) : Req :=
  { kind := .store, src := .group 0 0, die := 0, part := 0, tgt := tgt, mask := 0xF0, img := 0x1234567890 }
/-- A group of core 0 whose oldest store, 9, goes to a target. -/
def storing (tgt : Target) : State := also (gst { gx with outs := [.req 9] }) fun m => { m with reqs := [(9, aStore tgt)] }

theorem wit_buffer : ∀ tgt ∈ [Target.home 0x400, .spad 0 32640], (storing tgt).m.off = false ∧ ((storing tgt).m.dieSt 0).halted = false ∧
    (storing tgt).m.group? 0 0 = some { gx with outs := [.req 9] } ∧ gx.held = none ∧ (storing tgt).m.req? 9 = some (aStore tgt) ∧
    (aStore tgt).sent = false ∧ (aStore tgt).ans = none := by decide +kernel
theorem wit_buffer_spad : (storing (.spad 0 32640)).m.arrayPath 0 0 = true ∧ ((storing (.spad 0 32640)).m.core 0).launch = some 0 ∧
    32640 < 32768 * ((storing (.spad 0 32640)).m.core 0).share ∧ Memory.wf ((storing (.spad 0 32640)).m.core 0).spad = true := by
  decide +kernel

/-- A load into s31 that is out, and a group with it. -/
def aLoad : LoadRec := { vector := false, dst := 31, width := 5, pc := 0, rids := [9], lanes := [⟨0, 0x10078, [.at 9 0x78]⟩] }
def aRequest (k : RKind) (a : Option Answer) : Req :=
  { kind := k, src := .group 0 0, die := 0, part := 0, tgt := .home 0x400, sent := true, ans := a }
/-- A group whose load or store is out since tick 0, answered or not. -/
def answered (k : RKind) (a : Option Answer) (now : W32) (x : Group) : State :=
  also (gst x) fun m => { m with reqs := [(9, aRequest k a)], regs := [(Reg.CLK_RIM_TIMER, now)] }
/-- An answer that carries a line. -/
def answer : Answer := { status := .ok, img := 0x99 }

theorem wit_answers : ∀ c ∈ [(RKind.load, some answer, (0 : W32), { gx with loads := [aLoad] }),
        (.store, some answer, 0, { gx with outs := [.req 9] }), (.load, none, 800001, { gx with loads := [aLoad] })],
      (answered c.1 c.2.1 c.2.2.1 c.2.2.2).m.off = false ∧ (answered c.1 c.2.1 c.2.2.1 c.2.2.2).m.still 0 = false ∧
      (answered c.1 c.2.1 c.2.2.1 c.2.2.2).m.req? 9 = some (aRequest c.1 c.2.1) ∧
      (answered c.1 c.2.1 c.2.2.1 c.2.2.2).m.group? 0 0 = some c.2.2.2 := by decide +kernel
theorem wit_answers_more : answer.status = .ok ∧ aLoad.rids = [9] ∧ aLoad.errs = [] ∧ gx.full = [] ∧ gx.stat = .ready ∧ gx.back = .ready ∧
    expired ((answered .load none 800001 gx).m.now 0) 0 800000 = true ∧ (aRequest .load none).near = false ∧
    (answered .load none 800001 gx).m.notesOf 0 16 0x400 = [] := by decide +kernel

/-- A powered module whose companion link is trained, whose die 0 has its rim clocks, and whose channel 16 there, the home of
line 0x400, is ONLINE; `f` sets the rest. -/
def upm (f : Mach → Mach) : State :=
  let m := f { dies := [(0, { joined := true }), (1, { joined := true })] }
  let m := (m.wr Reg.VL_STATE 2).wr (aSlice 0 16 Reg.MC_STATE) 2
  { State.reset with m := (m.wr Reg.CLK_DOMAIN_STATUS 3).wr Reg.CLK_EN 0x1FF }
/-- The word of control space set in a machine. -/
def wrs (s : State) (ws : List (Nat × W32)) : State := also s fun m => ws.foldl (fun m w => m.wr w.1 w.2) m
/-- `Reaches`, as something to be evaluated. -/
def reaches (s : State) (who : Requester) (die off : Nat) : Bool :=
  !s.m.off && s.m.canReach who && !(who == .driver && s.m.cmpWriteDue) && (s.m.ctlLook die off).isLeft
theorem reaches_of {s : State} {who : Requester} {die off : Nat} (h : reaches s who die off = true) : Reaches s who die off := by
  simp only [reaches, Bool.and_eq_true, Bool.not_eq_true', Bool.and_eq_false_iff, beq_eq_false_iff_ne] at h
  obtain ⟨⟨⟨h0, h1⟩, h2⟩, h3⟩ := h
  refine ⟨h0, h1, fun c => ?_, Sum.isLeft_iff.mp h3⟩
  rcases h2 with h2 | h2
  · exact h2 c.1
  · rw [c.2] at h2; cases h2
/-- Request 9 of group 0 of core 0 for the last word of line 0x400, at its home's door. -/
def doorReq (k : RKind) (func : Nat := 0) : Req :=
  { kind := k, src := .group 0 0, die := 0, part := 0, tgt := .home 0x400, sent := true, mask := maskRange 120 8
    img := 0x77 <<< 960, func := func, ty := 2, elts := if k = .atom ∨ k = .red then [⟨31, 120, 5, 0⟩] else [] }
/-- The module that holds line 0x400 in its way, with requests and messages. -/
def hst (h : HomeLine) (qs : Tab Req := []) (net : List CMsg := []) : State :=
  upm fun m => { m with lines := [(0x400, h)], reqs := qs, net := net }
/-- A line Clean in its way, with the given directory entry. -/
def aLine (d : DState) (sh : BitVec 17 := 0) (f : Option Nat := none) : HomeLine := { img := 0x1234 <<< 960, dir := d, sharers := sh, f := f }

theorem wit_home : (∀ d ∈ [DState.h, .s, .x, .o], HomeHolds (hst (aLine d)).m 0x400 (aLine d) d) ∧
    (∀ k ∈ [RKind.load, .fetch, .ldr, .store, .red, .atom], AtDoor (hst (aLine .h) [(9, doorReq k)]).m 0x400 9 (doorReq k) 0 0) ∧
    (hst (aLine .h)).m.off = false ∧ (hst (aLine .h)).m.logBit 0x400 = none := by decide +kernel
theorem wit_home_ldr : (hst (aLine .h) [(9, doorReq .ldr)]).m.ldrClear (doorReq .ldr) = true ∧
    wordsIn (doorReq .ldr).mask (aLine .h).psn = false ∧ (hst (aLine .h) [(9, doorReq .ldr)]).m.group? 0 0 = none ∧
    ((hst (aLine .h)).m.slice 0 16).resv.length < 64 := by decide +kernel
theorem wit_home_atom : (atomLanes 0 2 0 (doorReq .atom).elts (aLine .h).img).isSome = true := by decide +kernel
theorem wit_home_stc : (∀ f ∈ [0, 1], AtDoor (hst (aLine .h) [(9, doorReq .stc f)]).m 0x400 9 (doorReq .stc f) 0 0) ∧
    (also (hst (aLine .h)) fun m => m.setResv 0 16 0x400 { holders := [(0, 0)] }).m.stcMay 0 16 0x400 0 0 = true ∧
    (hst (aLine .h)).m.stcMay 0 16 0x400 0 0 = false ∧ wordsIn (doorReq .stc).mask (aLine .h).psn = false := by decide +kernel

/-- The module that does not hold the line. -/
def unheld (qs : Tab Req) : State := upm fun m => { m with reqs := qs }
theorem wit_reduce_unheld : AtDoor (unheld [(9, doorReq .red)]).m 0x400 9 (doorReq .red) 0 0 ∧ (doorReq .red).psnW = 0 ∧
    (unheld []).m.logBit 0x400 = none ∧ HomeQuiet (unheld []).m 0x400 ∧ (unheld []).m.hline? 0x400 = none ∧
    freeWay ((unheld []).m.setLines 0 16 ((unheld []).m.lineSet 0x400)) (14 - (unheld []).m.tintHeld 0 16) = some 0 := by decide +kernel

/-- Channel 16 with a write at the head of its queue, and with a line read for its slice, that fills its way for request 9. -/
def aQueue : ChanSt := { q := [.write 0x400 5 0, .raw 0x401 0 false] }
def writing : State := upm fun m => { m with chans := [(16, aQueue)] }
/-- A queue of an ordinary and a latency-critical read, after eight critical grants in a row, and before. -/
def reads (run : Nat) : ChanSt := { q := [.read 0x400 false 0, .read 0x401 true 0], critRun := run }
def filling : HomeLine := { st := .filling, way := some 0, pend := some (.wM (.serve (.req 9))) }
def reading : State := upm fun m =>
  { m with chans := [(16, { out := [(0x400, 0x99, 0, 0)] })], lines := [(0x400, filling)], reqs := [(9, { doorReq .load with atHome := true })] }
theorem wit_channel : writing.m.off = false ∧ writing.m.memRuns 0 = true ∧ writing.m.chanState 0 16 = cONLINE ∧
    writing.m.chan 0 16 = aQueue ∧ aQueue.rawWait = none ∧ aQueue.toOff = false ∧ aQueue.fifo = [] ∧ aQueue.held = [] ∧
    (∀ r ∈ aQueue.q.drop 1, r.part = 32 ∧ r.crit = false) ∧
    [0, 8].map (fun k => (writing.m.chPick (reads k) false).map fun r => r.2.1.crit) = [some true, some false] := by decide +kernel
theorem wit_data : reading.m.still 0 = false ∧ reading.m.memRuns 0 = true ∧ reading.m.hd 0x400 = 0 ∧ reading.m.hc 0x400 = 16 ∧
    (reading.m.chan 0 16).out = [(0x400, 0x99, 0, 0)] ∧ reading.m.hline? 0x400 = some filling ∧ filling.st = .filling ∧
    filling.way.isSome = true ∧ reading.m.roomless 0x400 = none ∧
    filling.dir = .h ∧ filling.sharers = 0 ∧ filling.waiting = [] ∧ reading.m.notesOf 0 16 0x400 = [] ∧
    reading.m.req? 9 = some { doorReq .load with atHome := true } ∧ (doorReq .load).strm = false := by decide +kernel
theorem wit_lease : ((also (hst (aLine .h)) fun m => m.setResv 0 16 0x400 { lease := some ⟨0, 0, 0⟩ }).m.resvLine 0 16 0x400).lease =
    some ⟨0, 0, 0⟩ ∧ 0 < (wrs (hst (aLine .h)) [(Reg.CLK_RIM_TIMER, 1)]).m.now 0 := by decide +kernel

/-- Die 1 with a tint of line 0x400 in a state, or none, and a read of it by one of its cores. -/
def remote (t : Option TintLine) (net : List CMsg := []) : State := upm fun m =>
  { m with tints := t.toList.map fun t => (tkey 1 0x400, t), net := net
           reqs := [(9, { doorReq .load with src := .group 2304 0, die := 1, sent := false })]
           regs := [(aSlice 1 16 Reg.SLICE_STATUS, 4)] }
theorem wit_tint : (remote none).m.off = false ∧ (remote none).m.still 1 = false ∧ (remote none).m.hd 0x400 ≠ 1 ∧
    (∀ st ∈ [TState.s, .f, .isD, .isDI, .isR], (remote (some { st := st })).m.tint? 1 0x400 = some { st := st }) ∧
    (remote none).m.tint? 1 0x400 = none ∧ ((remote none).m.tintWay 1 0x400).isSome = true ∧
    ((remote none).m.req? 9).map (fun q => (remote none).m.outFirst 9 q) = some true := by decide +kernel

/-- A message for a line between two agents. -/
def msg (code fromA toA : Nat) (die : Nat := 0) : CMsg := { code := code, fromA := fromA, toA := toA, line := 0x400, die := die }

/-- Whether a message is there to be taken, and the machine without it satisfies P. -/
def taken (s : State) (code fromA toA : Nat) (P : CMsg → Mach → Bool := fun _ _ => true) : Bool :=
  ((s.m.take code fromA toA 0x400).map fun r => P r.1 r.2) == some true

theorem wit_directory :
    taken (hst (aLine .h) [] [msg 1 15 0]) 0x01 15 0 (fun y n => decide (Takes n 0x400 (.rds 15 y.crit))) = true ∧
    HomeHolds (hst (aLine .h) [] [msg 1 15 0]).m 0x400 (aLine .h) .h ∧ (hst (aLine .h)).m.vlUp = true ∧
    (hst (aLine .h)).m.intact 0 0 = true ∧ (∀ w ∈ [false, true], (hst (aLine .h)).m.cmpRefuse 0x400 w = none) ∧
    (∀ r ∈ [HReq.cmpRds, .cmpOwn, .cmpUpg], Takes (hst (aLine .h)).m 0x400 r ∧ Takes (hst (aLine .s 0x10000)).m 0x400 r) ∧
    (hst (aLine .h)).m.net = [] ∧
    HomeHolds (hst (aLine .s 0x10000)).m 0x400 (aLine .s 0x10000) .s ∧ (aLine .s 0x10000).sharers = 0x10000 := by decide +kernel

theorem wit_evictions : HomeHolds (hst (aLine .s 0x8000 (some 15)) [] [msg 8 15 0]).m 0x400 (aLine .s 0x8000 (some 15)) .s ∧
    taken (hst (aLine .s 0x8000 (some 15)) [] [msg 8 15 0]) 0x08 15 0 = true ∧ (hst (aLine .s 0x10000)).m.net = [] ∧
    HomeHolds (hst (aLine .x 0x10000)).m 0x400 (aLine .x 0x10000) .x ∧ HomeHolds (hst (aLine .o 0x18000)).m 0x400 (aLine .o 0x18000) .o ∧
    (hst (aLine .x 0x10000)).m.vlUp = true ∧ (hst (aLine .x 0x10000)).m.intact 0 0 = true ∧
    (hst (aLine .o 0x18000)).m.logBit 0x400 = none := by decide +kernel

/-- A line that awaits answers. -/
def awaits (d : DState) (sh : BitVec 17) (p : Pend) : HomeLine := { aLine d sh with pend := some p }
/-- It awaits InvAck of dies 0 and 15 and of the companion, the companion's answer to SnpRd, or die 15's to FwdRd. -/
def dueInv : HomeLine := awaits .s 0x18001 (.wA 0x10 [(0, 0), (15, 0), (16, 0)] .grantE false)
def dueSnp : HomeLine := { awaits .x 0x10000 (.wA 0x12 [(16, 0)] (.serve (.rds 15 false)) false) with way := some 0 }
def dueFwd : HomeLine := awaits .s 0x8000 (.wF 15 0 1)
theorem wit_responses :
    (∀ a ∈ [15, 16], (hst dueInv).m.agentUp a = true ∧ taken (hst dueInv [] [msg 0x18 a 0]) 0x18 a 0 = true ∧
      dueWithout [(0, 0), (15, 0), (16, 0)] a = some ((0, 0) :: if a = 15 then [(16, 0)] else [(15, 0)]) ∧
      ((hst dueInv).m.slice 0 16).late.contains (0x400, a) = false) ∧
    taken (hst dueInv [] [msg 0x19 16 0]) 0x19 16 0 = true ∧ (hst dueInv).m.logBit 0x400 = none ∧
    (∀ c ∈ [0x1A, 0x1B, 0x1C], taken (hst dueSnp [] [msg c 16 0]) c 16 0 = true) ∧ (hst dueSnp).m.vlUp = true ∧
    dueSnp.waiting = [] ∧ dueSnp.f = none ∧ dueSnp.way.isSome = true ∧ dueSnp.st = .clean ∧ dueSnp.soft = 0 ∧ dueSnp.bad = 0 ∧
    HomeQuiet (hst dueSnp).m 0x400 ∧ taken (hst dueFwd [] [msg 0x1D 15 0]) 0x1D 15 0 = true ∧
    dueFwd.pend = some (.wF 15 0 1) ∧ dueFwd.waiting = [] ∧ HomeQuiet (hst dueFwd).m 0x400 ∧
    (also (hst dueInv [] [msg 0x18 15 0]) fun m => m.setSlice 0 16 { late := [(0x400, 15)] }).m.slice 0 16 = { late := [(0x400, 15)] } := by
  decide +kernel

theorem wit_probes :
    (∀ t ∈ [({ st := .s } : TintLine), { st := .f }, { st := .isD }, { st := .fiA }, { st := .isR }],
      (remote (some t)).m.tint? 1 0x400 = some t ∧ t.heldFwd = none) ∧
    (∀ c ∈ [0x10, 0x1E, 0x1F, 0x20], taken (remote none [{ msg c 0 1 with rds := true }]) c 0 1 (fun y _ => y.rds) = true) ∧
    (∀ c ∈ [0x12, 0x21, 0x29, 0x2A], taken (remote none [msg c 0 16]) c 0 16 = true) ∧
    (remote none).m.compat = false ∧ (remote none).m.hd 0x400 = 0 ∧
    ((remote none [msg 0x11 0 1 15]).m.takeWhere fun x =>
      x.code == 0x11 && x.fromA == 0 && x.toA == 1 && x.line == 0x400 && x.die == 15).isSome = true ∧
    (∀ c ∈ [0x28, 0x2B], ((remote none [msg c 0 1]).m.takeWhere fun x => x.code == c && x.toA == 1 && x.line == 0x400).isSome = true) := by
  decide +kernel

/-- A FwdRd that die 15 has not answered for 200,001 ticks. -/
def silent : State := also (hst dueFwd) fun m => m.wr Reg.CLK_RIM_TIMER 200001
/-- A slice that changes to or from Amber mode. -/
def toAmber (on : Bool) : State := upm fun m => { m with regs := [(if on then Reg.HOME_AMBER_ACTIVE else Reg.HOME_AMBER_REQ, 0xFFFEFFFF)] }
theorem wit_timeout : silent.m.off = false ∧ silent.m.hd 0x400 = 0 ∧
    silent.m.hline? 0x400 = some dueFwd ∧ HomeQuiet silent.m 0x400 ∧
    expired (silent.m.now 0) 0 200000 = true := by decide +kernel
theorem wit_amber : ((toAmber true).m.dieSt 0).sweep = none ∧ (toAmber true).m.amber 0 16 = true ∧ (toAmber true).m.bit64 Reg.HOME_AMBER_ACTIVE 16 = false ∧
    (toAmber true).m.sliceQueue 0 16 = 0 ∧ (toAmber false).m.amber 0 16 = false ∧
    (toAmber false).m.bit64 Reg.HOME_AMBER_ACTIVE 16 = true ∧ ((toAmber false).m.slice 0 16).notes = [] := by decide +kernel

/-- A group of a launch with one accumulator tile, whose scratchpad is its whole 32 KiB. -/
def tiled (c : Instr) : State := also (gst (spells c gx)) fun m =>
  { m with launches := [(0, { queue := 0, seq := 0, desc := packed [(0, 33), (1, 1)] })] }
def tiles (c : Instr) : Bool := decide (Before (tiled c) tg c (spells c gx))
/-- MMA of tile 0 with A in the scratchpad at s0 and B in registers, governed by p1 or, for every row and column, p0. -/
def mmaw (t : BitVec 3) (c : Nat := 0) : IW := ⟨0, 0, 0, t, rlo 0 c⟩

theorem wit_mma : (∀ c ∈ [(Instr.mma tg 0 (mmaw 1), false), (.mmaSp tg 0 (mmaw 1 3), true)], tiles c.1 = true ∧
      mmaCheck ((tiled c.1).m.coreLaunch 0) 0 c.2 (if c.2 then mmaw 1 3 else mmaw 1) = none) ∧
    mmaShape 0 = some (.e4m3, .e4m3, 64, 0) ∧ tileAny (gx.rp 0) = true ∧
    (((tiled (.mma tg 0 (mmaw 1))).m.operandImage 0 gx true 0 1024).2.isLeft ∧
      ((tiled (.mma tg 0 (mmaw 1))).m.operandImage 0 gx false 0 1024).2.isLeft) ∧
    ((tiled (.mma tg 0 (mmaw 1))).m.core 0).spadBad = [] ∧ ((tiled (.mma tg 0 (mmaw 1))).m.core 0).spadSoft = [] := by decide +kernel
theorem wit_tile : tiles (.tzero tg (mmaw 0)) ∧ tiles (.tldV tg (mmaw 0)) ∧ tiles (.tldS tg (mmaw 0)) ∧ tiles (.tstV tg (mmaw 0)) ∧
    tiles (.tstS tg (mmaw 0)) ∧ (∀ k ∈ [Opd.none, .v 8, .s], tileCheck ((tiled (.tzero tg (mmaw 0))).m.coreLaunch 0) (mmaw 0) k = none) ∧
    (gx.rs 0).toNat % 2 ^ 32 + 1024 ≤ 32768 * ((tiled (.tzero tg (mmaw 0))).m.core 0).share := by decide +kernel
/-- A core with a matrix result in flight. -/
def flying : State := also (gst gx) fun m => m.setCore 0 { m.core 0 with flight := [⟨0, [1], 64⟩, ⟨1, [2], 0⟩] }
theorem wit_flight : flying.m.off = false ∧ flying.m.still 0 = false ∧ (flying.m.core 0).flight = ⟨0, [1], 64⟩ :: [⟨1, [2], 0⟩] := by
  decide +kernel

/-- A descriptor that fills 200 bytes of the scratchpad from 0x1000 on, in the last 128 bytes of the scratchpad. -/
def tmDesc : List Byte := packed [(0, 8), (0x1000, 8), (200, 4), (1, 4), (1, 4), (1, 4), (0, 48), (4, 1), (3, 1), (0, 46)]
def aTransfer : Transfer := { slot := 0, group := 0, ticket := 6, desc := tmDesc, part := 0 }
/-- A core with that descriptor and, in its cluster's mover, transfers; its groups' s3 names the descriptor, or ticket 6. -/
def moving (c : Instr) (s3 : W64) (ts : List Transfer) : State :=
  also (gst (spells c { gx with s := [(3, s3)] })) fun m =>
    { m with cores := [(0, { launch := some 0, share := 1, spad := (List.range 128).filterMap fun k =>
               if tmDesc.getD k 0 = 0 then none else some (32640 + k, tmDesc.getD k 0) })]
             clusters := [(0, { launch := some 0, mover := ts, ticket := 7 })] }
def tmw : IW := ⟨15, 31, 3, 0, 0⟩
theorem wit_submit : tmCheck tmw = none ∧ gx.rp 15 ≠ 0 ∧
    Before (moving (.tmSubmit tg tmw) 32640 []) tg (.tmSubmit tg tmw) (spells (.tmSubmit tg tmw) { gx with s := [(3, 32640)] }) ∧
    descOk ((List.range 128).map fun k => Cells.read ((moving (.tmSubmit tg tmw) 32640 []).m.core 0).spad (32640 + k)) = true ∧
    ((moving (.tmSubmit tg tmw) 32640 []).m.core 0).spadBad = [] ∧ ((moving (.tmSubmit tg tmw) 32640 []).m.core 0).spadSoft = [] ∧
    (moving (.tmSubmit tg tmw) 32640 []).m.moverBusy 0 < 64 ∧ gx.tickets.length < 8 ∧ 32640 + 128 ≤ 32768 := by decide +kernel
theorem wit_wait_test :
    (∀ c ∈ [Instr.tmWait tg tmw, .tmTest tg tmw],
      Before (moving c 6 [{ aTransfer with status := some .ok }]) tg c (spells c { gx with s := [(3, 6)] })) ∧
    (moving (.tmWait tg tmw) 6 [{ aTransfer with status := some .ok }]).m.ownTicket 0 6 = some { aTransfer with status := some .ok } := by
  decide +kernel
theorem wit_chunk : (moving (.nop tg iz) 0 [aTransfer]).m.still 0 = false ∧ (moving (.nop tg iz) 0 [aTransfer]).m.pdState ≠ 2 ∧
    nextTransfer ((moving (.nop tg iz) 0 [aTransfer]).m.moving 0) = some aTransfer ∧ descOp tmDesc = 3 ∧ descDstSpace tmDesc = 1 ∧
    (moving (.nop tg iz) 0 [aTransfer]).m.arrayPath 0 0 = true ∧ aTransfer.wpend = none ∧ aTransfer.pend = [] ∧ aTransfer.bytes = [] ∧
    (moving (.nop tg iz) 0 [aTransfer]).m.resolveSpad 0 1 128 0 aTransfer.chunk.2.1 matches .ok [_] [] := by decide +kernel

/-- That module with more set in channel 16 of die 0, in state `st`. -/
def chst (st : W32) (c : ChanSt) (ws : List (Nat × W32) := []) : State :=
  wrs (upm fun m => { m with chans := [(16, c)] }) ((aSlice 0 16 Reg.MC_STATE, st) :: ws)
/-- Waiting at stage 5 of start-up. -/
def atStage (n : W32) : Nat × W32 := (Reg.BOOT_STATE, n)

theorem wit_training :
    ((chst 0 {} [atStage 5]).m.off = false ∧ ((chst 0 {} [atStage 5]).m.dieSt 0).joined = true ∧
      (chst 0 {} [atStage 5]).m.memRuns 0 = true ∧ (chst 0 {} [atStage 5]).m.chanState 0 16 = cOFF ∧ (chst 0 {} [atStage 5]).m.stage = 5) ∧
    ((chst 1 { measured := true, failedWires := List.range 8 }).m.chanState 0 16 = cTRAINING ∧
      (chst 1 { measured := true, failedWires := List.range 8 }).m.stage ≠ 5 ∧ Memory.wf (chst 1 {}).m.mem = true) ∧
    (reaches (chst 2 {}) .driver 0 (aSlice 0 16 Reg.MC_CTRL) ∧ (chst 2 {}).m.chanState 0 16 = cONLINE ∧
      (chst 2 {}).m.bit (aSlice 0 16 Reg.MC_STATE) 8 = false) := by decide +kernel
/-- Channel 16 in a round, its wire in hand w, with spare 7 lent to it. -/
def inRound (w : Nat) : State := chst 2 { recalWire := some w, lent := some 7 }
theorem wit_recal :
    ((chst 2 {}).m.chan 0 16 = {} ∧ (chst 2 {}).m.bit (aSlice 0 16 Reg.MC_STATE) 8 = false ∧
      (chst 2 {} [(Reg.CLK_RIM_TIMER, 7), (aSlice 0 16 Reg.MC_RECAL_INTERVAL, 6)]).m.bit (aSlice 0 16 Reg.MC_CTRL) 0 = true ∧
      (chst 2 {} [(Reg.CLK_RIM_TIMER, 7), (aSlice 0 16 Reg.MC_RECAL_INTERVAL, 6)]).m.rd (aSlice 0 16 Reg.MC_RECAL_INTERVAL) = 6 ∧
      expired ((chst 2 {} [(Reg.CLK_RIM_TIMER, 7)]).m.now 0) 0 6 = true) ∧
    (∀ w ∈ [0, 318], (inRound w).m.memRuns 0 = true ∧ (inRound w).m.chan 0 16 = { recalWire := some w, lent := some 7 } ∧
      (inRound w).m.nextWire 0 16 (w + 1) = some (w + 1)) := by decide +kernel

theorem wit_maintenance :
    (reaches (chst 2 {}) .steward 0 (aSlice 0 16 Reg.MC_CTRL) ∧ (chst 2 {}).m.anyPart = false ∧ ({} : ChanSt).sent = []) ∧
    (reaches (chst 3 {}) .steward 0 (aSlice 0 16 Reg.MC_CTRL) ∧ (chst 3 {}).m.chanState 0 16 = cOFFLINE ∧
      (chst 3 {}).m.chan 0 16 = {}) ∧
    ((chst 3 { testing := true }).m.chan 0 16).testing = true ∧
    (reaches (chst 2 {}) .driver 0 (aSlice 0 16 Reg.MC_SCRUB_CTRL) ∧
      (chst 2 {} [(aSlice 0 16 Reg.MC_SCRUB_END, 9)]).m.fld (aSlice 0 16 Reg.MC_SCRUB_END) 0 25 = 9) ∧
    (reaches (chst 2 { scrub := some (0, 9) }) .driver 0 (aSlice 0 16 Reg.MC_SCRUB_CTRL)) ∧
    ((chst 2 { scrub := some (0, 9) }).m.scrubMay 0 16 = true ∧ (chst 2 { scrub := some (0, 9) }).m.memRuns 0 = true ∧
      ((chst 2 { scrub := some (0, 9) }).m.chan 0 16).degraded = [] ∧
      (chst 2 { scrub := some (0, 9) }).m.hline? (lineAt 0 0 16 0) = none ∧
      (List.range 16).all fun w => (chst 2 {}).m.memSyn (lineAt 0 0 16 0) w == 0) ∧
    (reaches (chst 2 {}) .driver 0 (aSlice 0 16 Reg.MC_RAW_CMD) ∧ (chst 2 {}).m.rawStatus 0 16 = .ok ∧
      (chst 2 {}).m.hline? ((chst 2 {}).m.rawLine 0 16).1 = none) ∧
    reaches (chst 2 {}) .driver 0 (aSlice 0 16 Reg.MC_CNT_CLEAR) ∧ reaches (chst 2 {}) .driver 0 Reg.MEM_CE_STATUS := by decide +kernel

/-- A slice whose number of tint ways is changing to 4. -/
def changing : State := also (upm id) fun m => m.setSlice 0 16 { tintNew := some 4 }
theorem wit_slice :
    (reaches (upm id) .driver 0 (aSlice 0 16 Reg.SLICE_CTRL) ∧ (upm id).m.tintWays 0 16 ≠ 4 ∧
      (upm id).m.bit (aSlice 0 16 Reg.SLICE_STATUS) 3 = false ∧ (upm id).m.pinsOver 0 16 6 = false) ∧
    ((changing.m.slice 0 16).tintNew = some 4 ∧ changing.m.homeAbove 0 16 10 = [] ∧ changing.m.tintsBelow 0 16 10 = [] ∧
      changing.m.lines = []) ∧
    reaches (upm id) .driver 0 (aSlice 0 16 (Reg.SLICE_PIN_QUOTA + 8 * 31)) ∧
    reaches (upm id) .driver 0 (aSlice 0 16 Reg.SLICE_CNT_CLEAR) ∧
    (reaches (upm id) .driver 0 Reg.HOME_INTERLEAVE ∧ (upm id).m.anyPart = false) ∧
    reaches (upm id) .driver 0 Reg.HOME_AMBER_REQ ∧ ((upm id).m.dieSt 0).sweep = none ∧ ((upm id).m.dieSt 0).sliceTest = none ∧
    reaches (upm id) .driver 0 Reg.HOME_CNT_CLEAR ∧
    reaches (upm id) .driver 0 Reg.HOME_LOG_STATUS := by decide +kernel

/-- The module, whose partition 0 is ACTIVE and owns granule 0, with lines that their homes hold. -/
def paged (ls : Tab HomeLine) (f : Mach → Mach) : State :=
  wrs (upm fun m => f { m with lines := ls }) [(Reg.PART_GRANULE_OWNER, 0x20), (Reg.PART_STATE, 2)]
/-- A range operation that has come to address 0x20000 of a page that is walked, with permissions, or that is done. -/
def aRange (op cur perm : Nat) : RangeOp :=
  { q := 0, seq := 3, op := op, part := 0, cur := cur, stop := 0x20100, report := 0x20000, dies := 0xFFFF, page := some (.leaf 0 (2 ^ 30) perm) }
def ranging (op : Nat) (h : HomeLine) : State :=
  wrs (paged [(0x400, h)] fun m => { m with ranges := [aRange op 0x20000 7] }) [(aSlice 0 16 Reg.SLICE_PIN_QUOTA, 0xA000A)]
/-- The report of a range operation that is done, written and answered. -/
def reporting : State := paged [] fun m => { m with
  ranges := [aRange 1 0x20100 7], queues := [(0, { eng := [(engReport + 3, .ask 9)] })]
  reqs := [(9, { kind := .store, src := .queue 0 (engReport + 3), die := 0, part := 0, tgt := .home 0x400, ans := some { status := .ok } })] }

theorem wit_range : ∀ op ∈ [1, 2, 3, 4], ∀ h ∈ [({ st := .dirty, img := 7 } : HomeLine), {}],
    (ranging op h).m.reach 0 (0 + 0x20000 % 2 ^ 30) = .inl (.home 0x400) ∧ (ranging op h).m.hline? 0x400 = some h ∧
    HomeHolds (ranging op h).m 0x400 h .h ∧ (ranging op h).m.rangeNoted 0 16 0 3 = none ∧ (ranging op h).m.rangeHere 0 16 0 3 = false ∧
    Takes (ranging op h).m 0x400 (.range 0 3 0x20000) ∧ (ranging op h).m.chanBar 0 16 = none ∧ 0x20000 / 2 ^ 46 = (ranging op h).m.device ∧
    (ranging op h).m.pinRefused 0 16 0x400 0 = none := by decide +kernel
theorem wit_report : reporting.m.rangeDone (aRange 1 0x20100 7) = true ∧
    (match (reporting.m.engWriteAt 0 (engReport + 3) 0 0x20000 (reportBytes (aRange 1 0x20100 7))).2 with
     | .done .ok _ => true
     | _ => false) = true ∧
    (reporting.m.engWriteAt 0 (engReport + 3) 0 0x20000 (reportBytes (aRange 1 0x20100 7))).1.ranges = [aRange 1 0x20100 7] := by
  decide +kernel

/-- The capabilities of both ends of the link of dies 0 and 1, which are concrete, and the states of the two units. -/
def linked (st : W32) : State := wrs (upm id) [(aUnit 0 1 0 Reg.LU_CAP_LOCAL, 0x103), (aUnit 1 3 0 Reg.LU_CAP_LOCAL, 0x201),
  (aUnit 0 1 0 Reg.LU_STATE, st), (aUnit 1 3 0 Reg.LU_STATE, st), (Reg.CLK_STATUS, 0xF8), (at_ 1 Reg.CLK_STATUS, 0xF8), (at_ 1 Reg.CLK_DOMAIN_STATUS, 3)]
theorem wit_die_link : (linked 1).m.off = false ∧ (linked 1).m.lanesRun 0 1 = true ∧ (linked 1).m.lanesRun 1 3 = true ∧ outward 0 1 = false ∧ farDie 0 1 = 1 ∧ farPort 1 = 3 ∧
    (∀ st ∈ [1, 2], (linked (BitVec.ofNat 32 st)).m.luState 0 1 0 = st ∧ (linked (BitVec.ofNat 32 st)).m.luState 1 3 0 = st) ∧
    Nat.land (((linked 1).m.rd (aUnit 0 1 0 Reg.LU_CAP_LOCAL)).toNat % 256) (((linked 1).m.rd (aUnit 1 3 0 Reg.LU_CAP_LOCAL)).toNat % 256) % 2 = 1 := by
  decide +kernel

/-- Fabric port 0, of unit 0 of port 0 of die 0, in a state, with its role of a fabric unit, and more set. -/
def fabric (st : W32) (p : PortSt := {}) (ws : List (Nat × W32) := []) : State :=
  wrs (also (upm id) fun m => { m with ports := [(0, p)] }) ((aFp 0 Reg.LU_STATE, st) :: (Reg.LR_ROLE, 2) :: (Reg.CLK_STATUS, 0xF8) :: ws)
theorem fabric_idle (st : W32) (ws : List (Nat × W32)) : (fabric st {} ws).m.portsIdle := by
  have hp : ∀ (ws : List (Nat × W32)) (m : Mach), (ws.foldl (fun m w => m.wr w.1 w.2) m).ports = m.ports ∧
      (ws.foldl (fun m w => m.wr w.1 w.2) m).transit = m.transit := by
    intro ws
    induction ws with
    | nil => exact fun _ => ⟨rfl, rfl⟩
    | cons w t ih => exact fun m => ih (m.wr w.1 w.2)
  refine ⟨fun fp => ?_, (hp _ _).2⟩
  have h := (hp ((aFp 0 Reg.LU_STATE, st) :: (Reg.LR_ROLE, 2) :: (Reg.CLK_STATUS, 0xF8) :: ws)
    (also (upm id) fun m => { m with ports := [(0, {})] }).m).1
  have hq : (fabric st {} ws).m.port fp = ({} : PortSt) := by
    show Tab.get (fabric st {} ws).m.ports fp {} = {}
    rw [show (fabric st {} ws).m.ports = [(0, {})] from h]
    simp only [Tab.get, Tab.get?]
    split <;> rfl
  rw [hq]
  exact ⟨rfl, rfl, rfl⟩

theorem wit_ports : (∀ st ∈ [1, 2, 3], (fabric (BitVec.ofNat 32 st)).m.fpState 0 = st) ∧ (fabric 1).m.fpRole 0 = 2 ∧
    (fabric 2).m.fpCarries 0 = true ∧ (fabric 3).m.fpCarries 0 = true ∧ (fabric 1).m.fpLanes 0 = true ∧ ((fabric 2).m.port 0).unacked = [] ∧
    (outward 0 0 = true ∧ (15 : Fin 56).val / 16 = 0 ∧ (fabric 2).m.luState 0 0 0 = 2) ∧
    (outward 0 1 = false ∧ (linked 2).m.luState 0 1 0 = 2) := by decide +kernel

/-- Unit 0 of port 0 of die 0, and a frame without messages. -/
def unit0 : LinkUnit := ⟨0, 0, 0⟩
def frameOf (seq : Nat) (ok : Bool) (nak : Bool := false) (acked : Nat := 0) : FrameIn :=
  { seq := seq, crcOk := ok, acked := acked, nak := nak, credReq := 3, credAns := 2, fecCorr := 1, fecUncorr := 0, msgs := [] }
/-- A message to device 0 from device 5 about line 0x400, of key slot 0 and epoch 0. -/
def tmsg (t : TType) : TMsg :=
  { typ := t, dst := 0, src := 5, status := .ok, hops := 0, failed := false, urg := false, enc := false, addr := 0x20000
    entry := 0, port := 0, kslot := 0, epoch := 0, func := 0, ty := 2, words := 1, mask := 1, img := 9, entries := [], results := [7]
    tagOk := false, wellFormed := true }
/-- A port with two frames that the partner has not acknowledged, and one end of a die link whose frame has failed some times. -/
def aTx : TxMsg := { msg := tmsg .rd, rid := none, own := true, die := 0, wire := [1, 2] }
def sending : PortSt := { unacked := [aTx, aTx], txSeq := 6, rxSeq := 4 }
def failing (n : Nat) : State := also (linked 2) fun m => m.setDlink 0 1 { rxSeq := 4, fails := n }
theorem wit_frames : (fabric 2 sending).m.fpLanes 0 = true ∧ (fabric 2 sending).m.fpCarries 0 = true ∧ fportOf unit0 = some 0 ∧
    ((fabric 2 sending).m.port 0).rxSeq = (frameOf 4 true).seq ∧ sending.tx = [] ∧ sending.held = [] ∧ sending.rx = [] ∧
    sending.replays < 16 ∧ (frameOf 4 true true).nak = true ∧ (frameOf 4 false).crcOk = false ∧
    (∀ n ∈ [0, 15, 16], ((failing n).m.dlink 0 1).fails = n ∧ (failing n).m.luState 0 1 0 = 2 ∧ (failing n).m.lanesRun 0 1 = true) ∧
    (upm id).m.failedDegraded = false := by decide +kernel

/-- A machine that receives: partition 1, ACTIVE, by entry 63 of the receive table, owns granule 0. -/
def receiving (p : PortSt) (qs : Tab Req) : State := also (fabric 2 p
    [(Reg.SEC_RX + 8 * 63, 0x60), (Reg.SEC_RX + 8 * 63 + 4, 0), (Reg.PART_GRANULE_OWNER, 0x21), (aPart 1 Reg.PART_STATE, 2)])
  fun m => { m with reqs := qs }
/-- A group's load of another device's line, and the entry of the port that holds it. -/
def aRemote : Req := { kind := .load, src := .group 0 0, die := 0, part := 0, tgt := .remote 5 0x400, sent := true, entry := some (0, 0) }
theorem wit_receive : (receiving {} []).m.receive (tmsg .rd) = ((receiving {} []).m, .part 1) ∧ (tmsg .rd).dst.toNat = (receiving {} []).m.device ∧
    (receiving {} []).m.fpCarries 0 = true ∧ (receiving {} []).m.fpLanes 0 = true ∧ (receiving {} []).m.still 0 = false ∧
    ((receiving {} []).m.port 0).rx = [] ∧ (∀ t ∈ [TType.rd, .wr, .red, .atom, .rdata, .ack, .adata], rxFlits [tmsg t] ≤ 128) ∧
    (receiving {} []).m.failedDegraded = false ∧
    (tmsg .rd).addr.toNat < 128 * allLines ∧ (receiving {} []).m.granuleOwner ((tmsg .rd).addr.toNat / 2 ^ 30) = some 1 ∧
    (∀ t ∈ [TType.rd, .wr, .red, .atom], msgOk (tmsg t) = true) ∧ (receiving {} []).m.partState 1 = 2 := by decide +kernel
def sentPort : PortSt := { ents := [(0, { dev := 5, part := 0, rid := 9, start := 0 })] }
theorem wit_answer : (receiving sentPort [(9, aRemote)]).m.receive (tmsg .rdata) = ((receiving sentPort [(9, aRemote)]).m, .part 1) ∧
    ((receiving sentPort [(9, aRemote)]).m.port 0).ents.get? 0 = some { dev := 5, part := 0, rid := 9, start := 0 } ∧
    (tmsg .rdata).failed = false ∧ (receiving sentPort [(9, aRemote)]).m.req? 9 = some aRemote ∧
    ((receiving sentPort [(9, aRemote)]).m.port 0).waiting = [] ∧ aRemote.entry = some (0, 0) ∧ aRemote.ans = none := by decide +kernel

/-- Time has passed on die 0 since tick 0. -/
def late (n : W32) (s : State) : State := wrs s [(Reg.CLK_RIM_TIMER, n)]
def aTransit : Transit := { port := 0, tx := { aTx with own := false }, since := 0 }
theorem wit_transit : (late 100001 (also (fabric 2) fun m => { m with transit := [aTransit] })).m.transit[0]? = some aTransit ∧
    aTransit.tx.own = false ∧ expired ((late 100001 (fabric 2)).m.now (fpDie 0)) 0 100000 = true := by decide +kernel
theorem wit_dead : (late 400001 (receiving sentPort [(9, aRemote)])).m.deadStart 0 5 = some 0 ∧
    expired ((late 400001 (fabric 2)).m.now (fpDie 0)) 0 400000 = true ∧
    (late 400001 (receiving sentPort [(9, aRemote)])).m.dead 5 = false ∧
    (late 400001 (receiving sentPort [(9, aRemote)])).m.deadNew = [] ∧
    ((late 400001 (receiving sentPort [(9, aRemote)])).m.port 0).ents = sentPort.ents := by decide +kernel
theorem wit_dead_map : (also (upm id) fun m => { m with deadNew := [5] }).m.deadNew = [5] ∧ (upm id).m.ports = [] ∧
    reaches (upm id) .driver 0 (Reg.FAB_DEAD_MAP + 4 * 8191) = true ∧
    (wrs (upm id) [(Reg.FAB_ROUTE_STATUS, 2)]).m.bit Reg.FAB_ROUTE_STATUS 1 = true ∧ (upm id).m.stagedDev < 2 ^ 18 := by decide +kernel

theorem wit_link_requests : (∀ st ∈ [0, 1, 2, 3, 4], (fabric (BitVec.ofNat 32 st)).m.fpState 0 = st ∧
      reaches (fabric (BitVec.ofNat 32 st)) .driver 0 Reg.LU_CTRL = true) ∧
    (reaches (upm id) .driver 0 Reg.LR_ROLE ∧ isHostUnit 0 0 0 = false ∧ (upm id).m.luState 0 0 0 = 0 ∧ (upm id).m.rd Reg.LR_ROLE = 0) ∧
    (reaches (upm id) .driver 0 (Reg.LU_CREDIT_RES + 4 * 31) ∧ unitOf 0 = (0, 0, 0) ∧
      ((List.range 32).map fun i => if i = 31 then 0 else (upm id).m.fld (aFp 0 Reg.LU_CREDIT_RES + 4 * i) 0 11).foldl (· + ·) 0 = 0) ∧
    reaches (upm id) .driver 0 Reg.EP_CNT_CLEAR ∧
    (wrs (upm id) [(Reg.VL_STATE, 1)]).m.fld Reg.VL_STATE 0 3 = 1 ∧ (upm id).m.vlUp = true := by decide +kernel

/-- Queue 0, enabled with 16 slots, its rings at 0x20000 and 0x21000, and one admitted descriptor, `d`, which has been read, and
the page of whose address is walked. -/
def queued (d : List Byte) (x : QueueSt := { arrived := [⟨0, 0, false⟩] }) (ws : List (Nat × W32) := []) : State :=
  wrs (paged [] fun m => { m with queues := [(0, { x with next := some (.ok, d), eng := (engCheck, .tr (.leaf 0 (2 ^ 30) 7)) :: x.eng })] })
    ([(Reg.Q_CFG, 0x24), (Reg.Q_BASE, 0x20000), (Reg.Q_CQ_BASE, 0x21000)] ++ ws)
/-- `Heads`, as something to be evaluated, for a descriptor that has been read. -/
def heads (d : List Byte) (kind : Nat) : Bool :=
  (queued d).m.mayBegin 0 && decide (((queued d).m.queue 0).next = some (.ok, d)) && (queued d).m.queueTurn 0 && !descSerial d &&
    !headerBad d && descF d 0 1 == kind
theorem heads_of {d : List Byte} {kind : Nat} (h : heads d kind = true) : Heads (queued d) 0 kind (queued d).m d := by
  simp only [heads, Bool.and_eq_true, Bool.not_eq_true', decide_eq_true_eq, beq_iff_eq] at h
  obtain ⟨⟨⟨⟨⟨h1, h2⟩, h3⟩, h4⟩, h5⟩, h6⟩ := h
  refine ⟨rfl, h1, ?_, h3, fun c => absurd (h4.symm.trans c) (by decide), h5, h6⟩
  unfold Mach.readHead
  rw [h2]

theorem wit_doorbell : reaches (queued []) .driver 0 Reg.Q_DOORBELL ∧ (queued []).m.qEnabled 0 = true ∧
    (queued []).m.failedDegraded = false ∧ (queued []).m.pdState = 0 ∧ (queued []).m.partState 0 = 2 ∧
    (queued []).m.fld Reg.PART_RATE 0 16 = 0 ∧ (queued []).m.qSlots 0 = 16 ∧ (queued []).m.rd Reg.Q_TAIL = 0 ∧
    ((queued [] {} [(Reg.Q_TAIL, 10)]).m.rd Reg.Q_TAIL = 10 ∧ (17 - (queued [] {} [(Reg.Q_TAIL, 10)]).m.rd Reg.Q_CQ_HEAD).toNat = 17) := by
  decide +kernel
theorem wit_queue_registers : reaches (queued []) .driver 0 Reg.Q_CQ_HEAD ∧ (queued [] {} [(Reg.Q_CQ_TAIL, 3)]).m.rd Reg.Q_CQ_TAIL = 3 ∧
    reaches (upm id) .driver 0 Reg.Q_CFG ∧ (upm id).m.qEnabled 0 = false ∧ (upm id).m.rd64 Reg.Q_BASE = 0 ∧
    (upm id).m.rd64 Reg.Q_CQ_BASE = 0 ∧ (0x30 : W32).toNat % 32 = 16 ∧ (0x24 : W32).toNat % 32 = 4 ∧
    reaches (upm id) .driver 0 Reg.Q_IRQ_ADDR ∧ noticeAddr 0 = true ∧ noticeAddr 0x380000000000 = true := by decide +kernel

/-- A copy of 128 bytes; a fence; cache packets; and semaphore packets. -/
def copyD : List Byte := packed [(2, 8), (0x1000, 8), (0x2000, 8), (128, 4), (1, 4), (1, 4), (1, 4), (0, 88)]
def fenceD : List Byte := packed [(4, 8), (4, 1), (0, 119)]
def cacheD (op : Nat) : List Byte := packed [(3, 8), (0x20000, 8), (128, 8), (op, 8), (0x21000, 8), (0, 88)]
def semD (op n timeout : Nat) : List Byte := packed [(6, 8), (op, 1), (63, 3), (n, 4), (timeout, 4), (0, 108)]

theorem wit_copy : heads copyD 2 ∧ zeroIn copyD 90 128 ∧ descOk (copyDesc copyD) ∧ descSrcSpace (copyDesc copyD) = 0 ∧
    descDstSpace (copyDesc copyD) = 0 ∧ copyBad copyD = false ∧
    (wrs (queued copyD) [(Reg.PART_CLUSTER_OWNER, 0x20)]).m.moverRoom 0 = some 0 := by decide +kernel
theorem wit_fence_descriptor : heads fenceD 4 ∧ ((queued fenceD).m.queue 0).jobs = [] ∧ fenceBad fenceD = false ∧
    descF fenceD 9 1 % 4 = 0 := by decide +kernel
theorem wit_cache : ∀ op ∈ [0, 1, 2, 3, 4], heads (cacheD op) 3 = true ∧ packetBad (cacheD op) = false ∧ descF (cacheD op) 24 1 = op ∧
    (queued (cacheD op)).m.rangeOf? 0 = none ∧ ((queued (cacheD op)).m.reportOk 0 0 0x21000).2 = some true := by decide +kernel

theorem wit_semaphores : (∀ op ∈ [0, 1, 2], heads (semD op 0 0) 6 = true ∧ semBad (semD op 0 0) = false ∧ semOp (semD op 0 0) = op) ∧
    (queued (semD 0 0 0)).m.semWait.get (semOf 0 (semD 0 0 0)) [] = [] ∧
    semN (semD 0 0 0) ≤ ((queued (semD 0 0 0)).m.rd (aSemV 63)).toNat ∧ (queued (semD 0 0 0)).m.preempted 0 = false := by decide +kernel
/-- A queue whose ACQUIRE has waited since tick 0, with a bound of 5 ticks, or whose job has ended. -/
def acqJob : Job := { seq := 0, desc := semD 0 1 5, adm := ⟨0, 0, false⟩ }
def acquiring : State := queued [] { jobs := [acqJob], semFrom := some 0 } [(Reg.CLK_RIM_TIMER, 6)]
def recording : State := also (queued [] { ended := [acqJob], eng := [(engRecord, .ask 9)] }) fun m => { m with
  reqs := [(9, { kind := .store, src := .queue 0 engRecord, die := 0, part := 0, tgt := .home 0x420, ans := some { status := .ok } })] }
theorem wit_acquire_timeout : acquiring.m.waitingAcq 0 = some acqJob ∧ (acquiring.m.queue 0).semFrom = some 0 ∧
    semTimeout acqJob.desc ≠ 0 ∧ expired (acquiring.m.now 0) 0 (semTimeout acqJob.desc) = true := by decide +kernel
theorem wit_record : (recording.m.queue 0).ended = [acqJob] ∧
    (match (recording.m.engWriteAt 0 engRecord 0 (recording.m.slotAddr 0 Reg.Q_CQ_BASE 32 0) acqJob.record).2 with
     | .done .ok _ => true
     | _ => false) = true ∧
    ((recording.m.engWriteAt 0 engRecord 0 (recording.m.slotAddr 0 Reg.Q_CQ_BASE 32 0) acqJob.record).1.queue 0).ended = [acqJob] := by
  decide +kernel

def hintD : List Byte := packed [(5, 8), (2, 1), (0, 3), (100, 4), (0, 112)]
theorem wit_power_settings :
    (reaches (upm id) .driver 0 Reg.PWR_VCORE_TARGET ∧ (upm id).m.vcoreTarget 0 ≤ (upm id).m.vcoreApplied 0 ∧
      (0x5F5801F4 : W32).toNat % 1024 = 500 ∧ (800 : W32).toNat % 1024 % 5 = 0) ∧
    (∀ mv ∈ [500, 800], (wrs (upm id) [(Reg.PWR_VCORE_STATUS, BitVec.ofNat 32 (2 ^ 20 + 1024 * mv))]).m.bit Reg.PWR_VCORE_STATUS 20 = true ∧
      (wrs (upm id) [(Reg.PWR_VCORE_STATUS, BitVec.ofNat 32 (2 ^ 20 + 1024 * mv))]).m.vcoreApplied 0 = mv) ∧
    reaches (upm id) .driver 0 Reg.PWR_CAP ∧
    (reaches (upm id) .driver 0 Reg.PWR_GATE_REQ ∧ (upm id).m.clusterBusy 35 = false ∧
      (wrs (upm id) [(Reg.PWR_GATED + 4, 8)]).m.isGated 35 = true) ∧
    reaches (upm id) .driver 0 Reg.PWR_DROOP_CFG ∧ reaches (upm id) .driver 0 Reg.PWR_THERM_CFG ∧
    (reaches (upm id) .driver 0 Reg.CLK_CTRL_SRC ∧ (wrs (upm id) [(Reg.CLK_STATUS, 8)]).m.loopALocked 0 = true) ∧
    (reaches (upm id) .driver 0 Reg.CLK_EN ∧ ((0xFF : W32) ^^^ (upm id).m.rd Reg.CLK_EN) &&& 0xFF = 0) := by decide +kernel
theorem wit_hint : heads hintD 5 ∧ descF hintD 8 1 = 2 ∧ zeroIn hintD 9 12 ∧ zeroIn hintD 16 128 ∧
    ((also (upm id) fun m => m.setPart 31 { hintUntil := some 0 }).m.part 31).hintUntil = some 0 ∧ 0 < (late 1 (upm id)).m.now 0 := by decide +kernel

theorem wit_power_events : (late 10000 (upm id)).m.powerRuns 0 = true ∧ (late 10000 (upm id)).m.now 0 % 10000 = 0 ∧
    (late 10000 (upm id)).m.capAt ≠ (late 10000 (upm id)).m.now 0 ∧
    ((late 10000 (upm id)).m.dieSt 0).periodAt ≠ (late 10000 (upm id)).m.now 0 ∧ (upm id).m.powerRuns 0 = true ∧ ((upm id).m.dieSt 0).clampUntil = none ∧
    ((also (upm id) fun m => m.setDie 0 { m.dieSt 0 with clampUntil := some 0 }).m.dieSt 0).clampUntil = some 0 ∧ 0 < (late 1 (upm id)).m.now 0 ∧
    ((also (upm id) fun m => m.setDie 0 { m.dieSt 0 with up := true }).m.dieSt 0).up = true ∧
    (wrs (upm id) [(Reg.CLK_STATUS, 0xF8)]).m.loopALocked 0 = true ∧
    (∀ n ∈ [4, 5, 6, 7], (wrs (upm id) [(Reg.CLK_STATUS, 0xF8)]).m.bit Reg.CLK_STATUS n = true) ∧
    (reaches (upm id) .driver 0 Reg.CLK_SNAP_CTRL ∧ (upm id).m.bit Reg.CLK_SNAP_CTRL 1 = false) := by decide +kernel
/-- A gate request of channel 16 since tick 0, with a request in the crossing or without. -/
def gating (busy : Bool) : State := also (chst 2 { q := if busy then [.read 0x400 false 0] else [] } [(Reg.CLK_RIM_TIMER, 1001)]) fun m =>
  { m with gates := [{ die := 0, blk := .channel 16, since := 0 }] }
theorem wit_gates : (∀ b ∈ [false, true], (gating b).m.crossingBusy 0 (.channel 16) = b ∧ (gating b).m.chanState 0 16 = cONLINE ∧
      (gating b).m.gates.find? (fun g => g.die == 0 && g.blk == .channel 16) = some { die := 0, blk := .channel 16, since := 0 }) ∧
    expired ((gating true).m.now 0) 0 1000 = true := by decide +kernel

/-- A stage of start-up, with more set. -/
def staged (st : W32) (ws : List (Nat × W32) := []) : State := wrs { State.reset with m := {} } ((Reg.BOOT_STATE, st) :: ws)
theorem wit_stages : (staged 1).m.off = false ∧ (staged 1).m.stage = 1 ∧
    ((also (staged 2) fun m => { m with strapDone := true }).m.stage = 2 ∧ (staged 2).m.bit Reg.BOOT_STATE 5 = false ∧
      (staged 2).m.loopALocked 15 = false ∧ crystalOk 27500 25000 = true ∧ crystalOk 140625 156250 = true ∧ crystalOk 27501 25000 = false) ∧
    ((staged 3).m.stage = 3 ∧ (staged 3).m.bootStopped = false) ∧
    ((staged 4).m.stage = 4 ∧ (staged 4).m.bootStopped = false ∧ ((staged 4).m.dieSt 1).up = false ∧
      ((also (staged 4) fun m => m.setDie 0 { joined := true }).m.dieSt 0).joined = true) ∧
    (∀ st ∈ [4, 6], (also (staged (BitVec.ofNat 32 st)) fun m => m.wr64 Reg.CLK_RIM_TIMER 0x100000000000).m.boundPassed = true) ∧
    ((staged 6).m.stage = 6 ∧ (staged 6).m.ready = false ∧ (staged 6).m.vlUp = false ∧
      (staged 6 [(Reg.VL_STATE, 2)]).m.vlUp = true) := by decide +kernel
/-- The image sets of flash are not the model's to know: that one of them is valid is a premise. -/
theorem wit_boot (b d : Bool × List Byte) (h : (staged 3).kept.select.tryBanks false (staged 3).kept.select.bank = some b)
    (hd : (staged 4).kept.tryBanks true (staged 4).m.runBank = some d) :
    (staged 3).m.off = false ∧ (staged 3).kept.select.tryBanks false (staged 3).kept.select.bank = some (b.1, b.2) ∧
    (staged 4).kept.tryBanks true (staged 4).m.runBank = some (d.1, d.2) := ⟨rfl, h, hd⟩

theorem wit_warm : (reaches (upm id) .driver 0 Reg.RST_CMD ∧ (upm id).m.warming = false) ∧
    ((staged 4).m.stage = 4 ∧ (staged 4).m.warming = false) ∧ (also (upm id) fun m => { m with warmDue := true }).m.warmDue = true := by
  decide +kernel
/-- A reset of core 2303 of die 0, begun at tick 0. -/
def resettingCore (n : W32) : State := also (late n (upm id)) fun m => m.setDie 0 { m.dieSt 0 with coreReset := some (2303, 0) }
theorem wit_core_reset : (reaches (upm id) .driver 0 Reg.RST_CORE ∧ (0x18FF : W32).getLsbD 12 = true ∧ (0x18FF : W32).toNat % 4096 = 2303 ∧
      (upm id).m.clusterOwner (clusterOfSlot 2303) = none ∧ ((upm id).m.dieSt 0).coreReset = none ∧ ((upm id).m.core 2303).launch = none) ∧
    ((resettingCore 0).m.dieSt 0).coreReset = some (2303, 0) ∧ (resettingCore 0).m.coreDrained 2303 = true ∧
    expired ((resettingCore 10001).m.now 0) 0 10000 = true ∧ (upm id).m.warming = false := by decide +kernel

theorem wit_standby : (reaches (upm id) .driver 0 Reg.RST_CMD ∧ (upm id).m.pdState = 0 ∧ (∀ p, p < 32 → (upm id).m.partState p = pFREE) ∧
      (upm id).m.lines = [] ∧ (∀ x ∈ (upm id).m.dies, x.2.bist = none)) ∧
    ((wrs (upm id) [(Reg.PD_STATE, 1)]).m.pdState = 1 ∧ (upm id).m.standbyDrained = true ∧ (upm id).m.chans = []) ∧
    ((chst 0 {} [(Reg.PD_STATE, 2)]).m.pdState = 2 ∧ (chst 0 {} [(Reg.PD_STATE, 2)]).m.chanState 0 16 = cOFF ∧
      reaches (chst 0 {} [(Reg.PD_STATE, 2)]) .driver 0 Reg.RST_CMD ∧ (chst 0 {}).m.bit (aSlice 0 16 Reg.MC_STATE) 8 = false) := by
  decide +kernel

/-- A launch of one block-cluster of one block. -/
def launchD (e : Nat := 0x10000) : List Byte := packed [(1, 8), (e, 8), (0x20000, 8), (1, 2), (1, 2), (1, 2), (0, 98)]
/-- A queue with a launch, whose partition owns cluster 0. -/
def launching (e : Nat) : State := queued (launchD e) {  arrived := [⟨0, 0, false⟩] } [(Reg.PART_CLUSTER_OWNER, 0x20)]
theorem wit_launch : ∀ e ∈ [0x10000, 0x10004],
    ((launching e).m.mayBegin 0 = true ∧ ((launching e).m.queue 0).next = some (.ok, launchD e) ∧ (launching e).m.queueTurn 0 = true ∧
      descSerial (launchD e) = false ∧ headerBad (launchD e) = false ∧ descF (launchD e) 0 1 = 1) ∧
    ((launching e).m.anchorOf 0 0 (descF (launchD e) 16 8)).2 = some (some 0) ∧
    launchBad (launchD e) = (e != 0x10000) := by decide +kernel
/-- A cluster that a claim may take makes the choice find one. -/
theorem picks {m : Mach} {q : Nat} {anchor : Option Nat} {mine : Claim} {cl : Nat} (hc : cl < 576) (h : m.mayTake q cl mine = true) :
    ∃ c, m.pickCluster q anchor mine = some c := by
  have key : ∀ (f : Option Nat → Nat → Option Nat), (∀ b c, (f b c).isSome = true) → ∀ (l : List Nat) b,
      b.isSome = true ∨ l ≠ [] → (l.foldl f b).isSome = true := by
    intro f hf l
    induction l with
    | nil => exact fun b hb => hb.resolve_right fun h => h rfl
    | cons c t ih => exact fun b _ => ih (f b c) (.inl (hf b c))
  refine Option.isSome_iff_exists.mp (key _ (fun b c => ?_) _ none (.inr
    (List.ne_nil_of_mem (a := cl) (List.mem_filter.mpr ⟨List.mem_range.mpr hc, h⟩))))
  cases b with
  | none => rfl
  | some x => cases anchor <;> (dsimp only; split <;> rfl)
theorem wit_launch_cluster : ∃ c, (launching 0x10000).m.pickCluster 0 (some 0) ⟨.wait 0, (launching 0x10000).m.prio 0,
    (((launching 0x10000).m.queue 0).waitLaunch).getD (launching 0x10000).m.nextLaunch⟩ = some c := picks (cl := 0) (by decide) (by decide +kernel)

/-- A partition in a state, that owns cluster 0 and granule 0, with more set. -/
def parted (st : W32) (ws : List (Nat × W32) := []) : State :=
  wrs (upm id) ([(Reg.PART_STATE, st), (Reg.PART_CLUSTER_OWNER, 0x20), (Reg.PART_GRANULE_OWNER, 0x20)] ++ ws)
theorem wit_partition_registers :
    (reaches (parted 1) .driver 0 Reg.PART_CLUSTER_OWNER ∧ (parted 1).m.clusterOwner 0 = some 0 ∧ ownerOf 0x20 = some 0 ∧
      ownerOf 0x3F = some 31 ∧ ownerOf 0 = none ∧ (parted 1).m.partState 0 = pCONFIG ∧ (parted 1).m.clusterBusy 0 = false ∧
      (parted 1).m.launches = []) ∧
    (reaches (parted 1) .driver 0 (Reg.PART_GRANULE_OWNER + 4 * 3071) ∧ (parted 1).m.granuleOwner 3071 = none ∧
      reaches (parted 1) .driver 0 (Reg.PART_CLUSTER_OWNER + 4 * 575) ∧ (parted 1).m.clusterOwner 575 = none) ∧
    (reaches (parted 1) .driver 0 Reg.PART_CFG ∧ (0x401 : W32).toNat % 256 ≠ 0 ∧ (0x401 : W32).toNat / 512 % 4 ≠ 3) ∧
    (reaches (parted 2) .driver 0 Reg.PART_RATE ∧ PartOpen (parted 2) 0 ∧ reaches (parted 2) .driver 0 Reg.PART_TLB_INV ∧
      reaches (parted 2) .driver 0 Reg.PART_NOTIFY_ADDR ∧ noticeAddr 0x380000000000 = true) ∧
    ((late 100000 (parted 2)).m.now 0 % 100000 = 0 ∧
      (late 100000 (parted 2)).m.refillAt ≠ (late 100000 (parted 2)).m.now 0) := by decide +kernel

/-- A partition with a launch on cluster 0. -/
def partLaunch (y : Launch) (free : Bool := false) : State :=
  also (parted 2 [(aSched 0 Reg.SCHED_QSAVE, 0x10000)]) fun m => { m with
    launches := [(7, y)], clusters := [(0, { launch := if free then none else some 7, slots := [(0, { index := 0 })] })]
    cores := [(0, { launch := if free then none else some 7, share := 1 })]
    groups := if free then [] else [(0, gx), (1, { gx with stat := .haltFault })] }
def partJob (st : LStat) : Launch := { queue := 0, seq := 0, desc := launchD, stat := st, clusters := [0], next := 1 }
theorem wit_partition_commands :
    (reaches (parted 0) .driver 0 Reg.PART_CMD ∧ (parted 0).m.partState 0 = pFREE) ∧
    (reaches (parted 1) .driver 0 Reg.PART_CMD ∧ (parted 1).m.partState 0 = pCONFIG ∧ (parted 1).m.sable 0 = false) ∧
    (∀ st ∈ [1, 2, 5, 6], PartIdle (parted (BitVec.ofNat 32 st)) 0 ∧ (parted (BitVec.ofNat 32 st)).m.coreResetIn 0 = false ∧
      reaches (parted (BitVec.ofNat 32 st)) .driver 0 Reg.PART_CMD) ∧
    (let s := partLaunch (partJob .running)
     reaches s .driver 0 Reg.PART_CMD ∧ s.m.partState 0 = pACTIVE ∧ s.m.launch? 7 = some (partJob .running) ∧
      s.m.launches.find? (fun x => x.2.queue == 0 && x.2.stat == .running && !x.2.halted) = some (7, partJob .running) ∧
      s.m.saveAddr 0 ≠ 0 ∧ s.m.inGranules 0 (s.m.saveAddr 0) (saveBytes 1) = true ∧ s.m.hasSuspended 0 = false ∧
      s.m.debugHalted (partJob .running) = false) ∧
    (let s := partLaunch (partJob .suspended) true
     let mine := (s.m.updLaunch 7 fun y => { y with resumed := true }).bestClaim 0
     reaches s .driver 0 Reg.PART_CMD ∧
      s.m.launches.find? (fun x => x.2.queue == 0 && (x.2.stat == .suspended || x.2.stat == .restoring)) = some (7, partJob .suspended) ∧
      s.m.clusterFree 0 = true ∧ mine.map (·.who) = some (.restore 7)) ∧
    (let s := parted 2 [(Reg.PART_FREEZE_BASE, 0x10000), (Reg.PART_CFG, 0x401)]
     reaches s .driver 0 Reg.PART_CMD ∧ s.m.inGranules 0 (s.m.rd64 (aPart 0 Reg.PART_FREEZE_BASE)).toNat 65536 = true ∧
      s.m.fld (aPart 0 Reg.PART_CFG) 9 2 = 2 ∧ s.m.launches = []) ∧
    (pFREEZING = 5 ∧ pFROZEN = 6) := by decide +kernel
theorem wit_activate : (parted 1).m.ownClusters 0 ≠ [] ∧ (parted 1).m.ownGranules 0 ≠ [] :=
  ⟨List.ne_nil_of_mem (a := 0) (List.mem_filter.mpr ⟨List.mem_range.mpr (by decide), by decide +kernel⟩),
   List.ne_nil_of_mem (a := 0) (List.mem_filter.mpr ⟨List.mem_range.mpr (by decide), by decide +kernel⟩)⟩
theorem wit_thaw : reaches (also (parted 6) fun m => { m with queues := [(3, { semKept := some 9 })] }) .driver 0 Reg.PART_CMD ∧
    (also (parted 6) fun m => { m with queues := [(3, { semKept := some 9 })] }).m.partState 0 = pFROZEN := by decide +kernel

/-- A partition whose reset or removal has reached its last step. -/
def resettingPart (st n : W32) : State := also (parted st [(Reg.CLK_RIM_TIMER, n)]) fun m =>
  m.setPart 0 { m.part 0 with resetStep := 3, resetFrom := 0 }
theorem wit_partition_work :
    (∀ st ∈ [3, 4], let s := resettingPart (BitVec.ofNat 32 st) 400001
      s.m.off = false ∧ s.m.resetting 0 = true ∧ (s.m.part 0).resetStep = 3 ∧ expired (s.m.now 0) (s.m.part 0).resetFrom 400000 = true ∧
      s.m.sable 0 = false) ∧
    (parted 5).m.writesDue 0 = false ∧ (parted 5).m.lines = [] ∧ (parted 5).m.partState 0 = pFREEZING ∧ PartIdle (parted 5) 0 := by
  decide +kernel
/-- A launch that is being saved, come to rest, and one that is being restored. -/
def atRest : State := also (partLaunch { partJob .saving with byDriver := true }) fun m =>
  { m with groups := [(0, { gx with stat := .parked, back := .waitBlock })] }
def savedCl : SavedCl :=
  { cluster := 0, slots := [(0, { index := 5 })], bcDone := 0, cores := [(0, { launch := some 7, share := 1 })], mover := []
    groups := [(0, { gx with stat := .parked, back := .waitBlock }), (1, { gx with stat := .exited })] }
def restoring : State := partLaunch { partJob .restoring with saved := [savedCl], next := 9 } true
theorem wit_save_restore :
    (atRest.m.off = false ∧ atRest.m.launches = [(7, { partJob .saving with byDriver := true })] ∧
      atRest.m.restReached { partJob .saving with byDriver := true } = true) ∧
    (restoring.m.off = false ∧ restoring.m.launch? 7 = some { partJob .restoring with saved := [savedCl], next := 9 } ∧
      savedCl.slots ≠ [] ∧ ({ partJob .restoring with saved := [savedCl], next := 9 } : Launch).total ≤ 9 ∧
      (savedCl.groups.map (·.1)).Nodup) := by decide +kernel

/-- A request of credential 0, whole in one message, and a module with that credential, past stage 3, with more set. -/
def aHeader : SlateHdr := ⟨9, 0, 0, 1, 3⟩
def managed (ws : List (Nat × W32) := []) : State :=
  { wrs (upm id) ((Reg.BOOT_STATE, 0x16) :: ws) with kept := { creds := [(0, { key := 7, roles := 0x3F })], lastSeq := [(0, 8)] } }
/-- That the credential signed the request is a premise: the model leaves signatures open. -/
theorem wit_slate (typ : Nat) (body : List Byte) (h : Config.ed25519Verify 7 (slateBytes typ 9 0 0 body 0) 3 = true) (r : Nat)
    (hr : r < 6) : Heard (managed) aHeader typ body (some r) := by
  refine ⟨by decide +kernel, fun x hx => ?_, by decide +kernel⟩
  injection hx with hx
  subst hx
  show (Config.ed25519Verify 7 (slateBytes typ 9 0 0 body 0) 3 && true && (0x3F : BitVec 6).getLsbD r) = true
  rw [h, Bool.true_and, Bool.true_and]
  exact (by decide : ∀ r < 6, (0x3F : BitVec 6).getLsbD r = true) r hr
/-- A request of a credential that is not there is turned away. -/
theorem wit_slate_requests : Heard managed aHeader 0x01 (attestBody (some 31) 5) none ∧ Heard managed aHeader 0x02 [] none ∧ managed.m.resetting 31 = false ∧
    (managed [(aPart 31 Reg.PART_STATE, 2)]).m.partState 31 ≠ pFREE ∧ managed.m.bit Reg.FAB_ROUTE_STATUS 1 = false ∧
    managed.m.bit (Reg.FAB_DEAD_MAP + 4 * 8191) 31 = false ∧
    (managed [(Reg.FAB_DEAD_MAP + 4 * 8191, 0x80000000)]).m.bit (Reg.FAB_DEAD_MAP + 4 * 8191) 31 = true ∧
    managed.m.warming = false ∧ ({ managed.kept with creds := [] } : Kept).accepts aHeader 0x20 [] 2 = false := by decide +kernel
/-- Image sets and wrapped keys are open too: that a set is good and that a body wraps a key are premises. -/
theorem wit_slate_firmware (set body key : List Byte) (hs : setOk managed.kept.svnMin set = true) (hk : unwrapKey body = some key)
    (hp : partOf body 0 1 = 0) (h1 : partOf body 1 1 = 1) (he : partOf body 2 2 = 4) :
    (managed.m.update ≠ 3 ∧ managed.m.update ≠ 1 ∧ setOk managed.kept.svnMin set = true) ∧
    ((managed [(Reg.SEC_STATUS, 4)]).m.update = 1 ∧ (managed [(Reg.SEC_STATUS, 4)]).m.stageCred = aHeader.cred.toNat) ∧
    (managed [(Reg.SEC_STATUS, 8)]).m.update = 2 ∧ managed.kept.bank = managed.m.runBank ∧ managed.m.ready = true ∧
    (unwrapKey body = some key ∧ partOf body 0 1 < 32 ∧ partOf body 1 1 = 1 ∧ partOf body 2 2 ≠ 0) ∧
    (let s := managed [(Reg.PART_CFG, 0x801), (Reg.PART_STATE, 1), (Reg.SEC_KSLOT_4, 3), (Reg.SEC_KSLOT, 2)]
     s.m.sable 0 = true ∧ s.m.resetting 0 = false ∧ s.m.partState 0 = pCONFIG ∧ (s.m.key 0).memKey = none ∧
      s.m.fabState 0 = kLOADED ∧ s.m.epoch 0 = 3) ∧
    (let s := managed [(Reg.SEC_KSLOT_4, 0x30004), (Reg.SEC_KSLOT, 4)]
     s.m.fabState 0 = kROTATING ∧ s.m.prevEpoch 0 = 3) ∧
    (∃ c ∈ managed.kept.creds.put 7 { key := 9, roles := 0 }, c.2.roles.getLsbD 5 = true) :=
  ⟨⟨by decide +kernel, by decide +kernel, hs⟩, by decide +kernel, by decide +kernel, by decide +kernel, by decide +kernel,
    ⟨hk, by rw [hp]; decide, h1, by rw [he]; decide⟩, by decide +kernel, by decide +kernel,
    ⟨(0, { key := 7, roles := 0x3F }), by decide +kernel, by decide⟩⟩

theorem wit_security : (upm id).m.off = false ∧ reaches (upm id) .driver 0 Reg.SEC_SEAL ∧
    (reaches (upm id) .steward 0 Reg.SEC_MEAS_EXTEND ∧ (0xF : W32).getLsbD 3 = true ∧ 4 ≤ (0xF : W32).toNat % 8 ∧
      (upm id).m.update ≠ 1 ∧ (upm id).m.update ≠ 3) ∧
    (reaches (parted 1) .driver 0 Reg.SEC_KSLOT_4 ∧ (parted 1).m.sable 0 = false ∧ (parted 1).m.partState 0 = pCONFIG) ∧
    (upm id).kept.creds = [] := by decide +kernel

/-- Core 2303, whose partition's launch a debugger is attached to, with group 7 selected there. -/
def debugged (x : Group) (ws : List (Nat × W32) := []) (fl : List InFlight := []) : State :=
  wrs (also (upm id) fun m => { m with
    launches := [(7, { partJob .running with attached := true, clusters := [35] })]
    clusters := [(35, { launch := some 7, slots := [(0, { index := 0 })] })]
    cores := [(2303, { launch := some 7, share := 1, flight := fl })], groups := [(8 * 2303 + 7, x)] })
    ([(Reg.DBG_CORE, 0x78FF), (aAttach 0, 0x200)] ++ ws)
def stopped (back : GStat) (reason : Nat) : Group := { gx with stat := .haltDebug, back := back, reason := reason, pc := 0x10008 }
/-- `Selected`, as something to be evaluated. -/
def selects (s : State) (die : Nat) (states : List Nat) (x : Group) : Bool :=
  reaches s .driver die Reg.DBG_CMD && decide (s.m.dbgBar .driver (s.m.dbgSlot die) = none ∧
    s.m.group? (s.m.dbgSlot die) (s.m.dbgGroup die) = some x ∧ x.stat ≠ .parked ∧ x.stat ≠ .haltFault ∧
    s.m.groupState (s.m.dbgSlot die) (s.m.dbgGroup die) ∈ states)
theorem selects_of {s : State} {die : Nat} {states : List Nat} {x : Group} (h : selects s die states x = true) :
    Selected s die states x := by
  have h := Bool.and_eq_true_iff.mp h
  exact ⟨reaches_of h.1, of_decide_eq_true h.2⟩
theorem wit_debug :
    selects (debugged gx) 0 [1] gx ∧ selects (debugged { gx with stepping := true }) 0 [4] { gx with stepping := true } ∧
    (∀ r ∈ [1, 4], selects (debugged (stopped .ready r)) 0 [3, 5] (stopped .ready r)) ∧
    (∀ f ∈ [0, 1, 2, 3], ∀ i ∈ [0, 15, 31], (debugged (stopped .ready 1) [(Reg.DBG_SEL, BitVec.ofNat 32 (f + 8 * i))]).m.fld Reg.DBG_SEL 0 3 = f ∧
      (debugged (stopped .ready 1) [(Reg.DBG_SEL, BitVec.ofNat 32 (f + 8 * i))]).m.fld Reg.DBG_SEL 3 6 = i) ∧
    (debugged gx [(Reg.DBG_DATA, 0x10010)]).m.rd64 Reg.DBG_DATA = 0x10010 ∧
    ((debugged gx).m.core (2303)).launch = some 7 ∧ ((debugged gx).m.cluster 35).slots ≠ [] := by decide +kernel
theorem wit_attach : reaches (debugged gx) .driver 0 Reg.DBG_ATTACH ∧ (debugged gx).m.sable 0 = false ∧
    (debugged gx [(aAttach 0, 0)]).m.bit (aAttach 0) 9 = false ∧ (debugged gx).m.firstRunning 0 = some 7 := by decide +kernel

theorem wit_self_tests :
    (reaches (upm id) .driver 0 Reg.DBG_BIST ∧ (upm id).m.clusterOwner 35 = none ∧ (upm id).m.clusterBusy 35 = false ∧
      ((upm id).m.dieSt 0).bist = none ∧ (35 : W32).toNat % 64 = 35) ∧
    ((also (upm id) fun m => m.setDie 0 { m.dieSt 0 with bist := some 35 }).m.dieSt 0).bist = some 35 ∧ (upm id).m.stage ≠ 5 ∧
    (reaches (upm id) .driver 0 Reg.DBG_SLICE_TEST ∧ (upm id).m.bit (aSlice 0 63 Reg.SLICE_STATUS) 3 = false ∧
      ((upm id).m.dieSt 0).sliceTest = none) ∧
    ((also (upm id) fun m => m.setDie 0 { m.dieSt 0 with sliceTest := some (63, true) }).m.dieSt 0).sliceTest = some (63, true) := by
  decide +kernel
theorem wit_counters_and_logs :
    (reaches (upm id) .driver 0 (Reg.DBG_CNT_CFG + 0xF0) ∧ (0x1FFFF10B : W32).toNat % 256 ≤ 0x0B ∧ (0x1FFFF10B : W32).toNat / 256 % 4 ≠ 3) ∧
    reaches (upm id) .driver 15 (Reg.CSUP_CORE_FAULT + 35 * 0x10000) = false ∧
    reaches (upm id) .driver 0 (Reg.CSUP_CORE_FAULT + 35 * 0x10000) ∧
    (let s := wrs (upm id) [(Reg.DM_FLT_WRITTEN, 5), (Reg.DM_FLT_CONSUMED, 0xFFFFFFFF), (Reg.DM_PENDING, 1)]
     reaches s .driver 0 Reg.DM_FLT_CONSUMED ∧ s.m.rd Reg.DM_FLT_WRITTEN = 5 ∧ s.m.rd Reg.DM_FLT_CONSUMED = 0xFFFFFFFF) ∧
    reaches (upm id) .driver 0 Reg.DM_FLT_STATUS ∧ (0x200000 : W32).getLsbD 21 = true ∧ reaches (upm id) .driver 0 Reg.DM_IRQ_ADDR ∧
    noticeAddr 0x380000000000 = true ∧
    (late 10001 (also (upm id) fun m => { m with irqPause := some 0, irqDue := true })).m.irqPause = some 0 ∧
    expired ((late 10001 (upm id)).m.now 0) 0 10000 = true ∧ (wrs (upm id) [(Reg.DM_IRQ_ADDR, 8)]).m.rd64 Reg.DM_IRQ_ADDR ≠ 0 := by decide +kernel

/-- Whether a command answers a next state. -/
def goesOn (o : Host.Outcome Machine.State Machine.Fault Machine.Refusal) : Bool := match o with
  | .next _ => true
  | _ => false
/-- What a read of a word of die 0 reaches: one half of a 64-bit register (whether it is one, and the high one), or no register. -/
def halfOf (off : Nat) : Option (Bool × Bool) := match (upm id).m.readLook 0 off with
  | .inl h => some (h.row.wide, h.high)
  | .inr _ => none
/-- Cluster 0 owned by a partition in Sable mode. -/
def sableModule : State := wrs (upm id) [(Reg.PART_CLUSTER_OWNER, 0x20), (Reg.PART_CFG, 0x801), (Reg.PART_STATE, 2)]

theorem wit_control_space : (upm id).m.off = false ∧ (upm id).m.canReach .driver = true ∧ (upm id).m.cmpWriteDue = false ∧
    reaches (upm id) .driver 0 Reg.DM_IRQ_DATA ∧ reaches (upm id) .driver 0 Reg.HOME_AMBER_REQ ∧
    [Reg.DM_IRQ_DATA, Reg.HOME_AMBER_REQ, Reg.HOME_AMBER_REQ + 4].map halfOf = [some (false, false), some (true, false), some (true, true)] ∧
    [0x100000, 0x100004, 0x100010, 0x100014].map halfOf = [some (false, false), some (false, false), some (false, false), none] ∧
    (match sableModule.m.readLook 0 (Reg.CSUP_REC_8) with
     | .inl h => recHidden h && !h.high && sableModule.m.sableCluster (36 * 0 + h.i 0)
     | .inr _ => false) = true ∧
    (also (upm id) fun m => { m with latches := [(latchKey .driver 0 Reg.HOME_AMBER_REQ, 5)] }).m.latches.get?
      (latchKey .driver 0 Reg.HOME_AMBER_REQ) = some 5 := by decide +kernel

theorem wit_no_power : (also (upm id) fun m => { m with off := true }).m.off = true ∧ Instr.readBootState ≠ .pwrGoodFall ∧
    ∀ strap a b, Instr.readBootState ≠ .powerOnReset strap a b := ⟨by decide +kernel, nofun, nofun⟩

/-- A sealed module; the sealed window base is there to be written. -/
def sealedModule : State := { upm id with kept := { sealed := true, winBase := 0x40000000000 } }
theorem wit_seal : goesOn (exec .readBootState sealedModule) = true ∧ sealedModule.kept.sealed = true ∧
    (∀ h i key roles, Instr.readBootState ≠ .credSet h i key roles) ∧ (∀ key, Instr.readBootState ≠ .enroll key) ∧
    ∀ o ∈ [Reg.VL_WIN_BASE, Reg.VL_WIN_BASE + 4], reaches sealedModule .driver 0 o :=
  ⟨by decide +kernel, by decide +kernel, fun _ _ _ _ h => (by injection h), fun _ h => (by injection h), by decide +kernel⟩

theorem wit_kept_sound : managed.kept.Sound ∧ goesOn (step { managed with pending := [.readBootState] }) = true :=
  ⟨⟨by decide, by decide, .inr ⟨(0, { key := 7, roles := 0x3F }), by decide +kernel, by decide⟩⟩, by decide +kernel⟩

theorem wit_tick : (upm id).pending = [] ∧ (upm id).m.bit Reg.CLK_DOMAIN_STATUS 2 = false ∧
    (wrs (upm id) [(Reg.CLK_DOMAIN_STATUS, 7), (Reg.CLK_RIM_TIMER, 0xFFFFFFFF)]).m.bit Reg.CLK_DOMAIN_STATUS 2 = true := by decide +kernel

theorem wit_register_rows : ∀ row, RegisterRow .driver 15 63 31 2047 0xFFFFFFFF 0xFFFFFFFFFFFFFFFF row →
    goesOn (exec row.1 (upm id)) = true := by decide +kernel
theorem wit_spares : sparesTheArray (.pwrCapWrite .driver 7200) = true ∧ goesOn (exec (.pwrCapWrite .driver 7200) (upm id)) = true := by
  decide +kernel

/-! ### The specification's worked examples -/

/-- The state after a command that goes on. -/
def after (o : Host.Outcome Machine.State Machine.Fault Machine.Refusal) : Machine.State := match o with
  | .next t => t
  | _ => State.reset

/-- Chapter 4: @p3 CMP.LT.S32 p1, v4, v5, true in the even lanes, leaves p1 = 0xFF005555. -/
def cmpGroup : Group :=
  { ir := some 0x2660881114000000, p := [(1, 0xFF000000), (3, 0x0000FFFF)], v := [(5, vmake fun l => if l % 2 = 0 then 1 else 0x80000000)] }
theorem test_cmp_encoding : groupInstr tg 0x2660881114000000 = some (.cmp tg .vcmp 2 ⟨3, 1, 4, 1, rlo 5 0⟩) := by decide +kernel
theorem test_cmp : ((after (exec (.cmp tg .vcmp 2 ⟨3, 1, 4, 1, rlo 5 0⟩) (gst cmpGroup))).m.group? 0 0).map (·.p.get 1 0)
    = some 0xFF005555 := by decide +kernel

/-- Chapter 5: E4M3 0x4C is 6.0 and E2M1 0x9 is -0.5; 500.0 becomes 0x7F, or 0x7E with .SAT or under .RZ. -/
theorem test_decode_formats : (toF32 (Fmt.e4m3.decode 0x4C), toF32 (Fmt.e2m1.decode 9)) = (0x40C00000, 0xBF000000) := by decide +kernel
theorem test_convert_500 : [Fmt.e4m3.encode .rn false (f32 0x43FA0000), Fmt.e4m3.encode .rn true (f32 0x43FA0000),
    Fmt.e4m3.encode .rz false (f32 0x43FA0000), Fmt.e4m3.encode .rz true (f32 0x43FA0000)] = [0x7F, 0x7E, 0x7E, 0x7E] := by decide +kernel
/-- Chapter 5: 1 + 2^-9 to BF16 under .RS goes up when w ≥ 0xC0000000. -/
theorem test_stochastic : [Fmt.bf16.encode (.rs 0xC0000000) false (f32 0x3F804000), Fmt.bf16.encode (.rs 0xBFFFFFFF) false (f32 0x3F804000)]
    = [0x3F81, 0x3F80] := by decide +kernel
/-- Chapter 5: 448·448 - 448·448 + 2^-18 is 2^-18, whatever the order. -/
theorem test_exact_sum : mmaElem .e4m3 .e4m3 64 0 (fun k => [0x7E, 0x7E, 0x01].getD k 0) (fun k => [0x7E, 0xFE, 0x01].getD k 0) [] 0 0 0
    = 0x36800000 := by decide +kernel
/-- Chapter 5: one MXFP4 block with C = 10.0 and scales 0x80 and 0x7B gives 10.125. -/
theorem test_mxfp4 : mmaElem .e2m1 .e2m1 32 1 (fun k => [0x97, 0x05].getD k 0) (fun k => [0x63, 0x0C].getD k 0)
    (vmake fun l => if l = 0 then 0x80 else if l = 16 then 0x7B else 0x7F) 0x41200000 0 0 = 0x41220000 := by decide +kernel
/-- Chapter 5: a block whose largest magnitude is 5.0 has the scale 0x7F in MXFP4, and its 5.0 becomes 4.0 under .RN. -/
theorem test_block_scale : ((blockScale .e2m1 [f32 0x40A00000]).1, blockElem .e2m1 .rn 0x7F (f32 0x40A00000)) = (0x7F, 6) := by
  decide +kernel
/-- Chapter 6: QBSHUF with the selectors of the example transposes the bytes of a quad. -/
theorem test_transpose :
    let a := vmake fun l => if l < 4 then BitVec.ofNat 32 (0x03020100 + l * 0x10101010) else 0
    (List.range 4).map (fun l => qbshufLane a ([0x0C080400, 0x0D090501, 0x0E0A0602, 0x0F0B0703].getD l 0) l)
      = [0x30201000, 0x31211101, 0x32221202, 0x33231303] := by decide +kernel
/-- Chapter 7: 32 lanes add to one word that holds 1.0, lane 0 first, which adds 2^24; and 32 lanes compare and swap. -/
theorem test_atom_order : ((atomLanes 0 6 0 ((List.range 32).map fun l => ⟨l, 0, if l = 0 then 0x4B800000 else 0x3F800000, 0⟩)
      0x3F800000).map fun r => (r.1.headD 0, (r.1.drop 1).all (· == 0x4B800000), r.2)) = some (0x3F800000, true, 0x4B800000) := by
  decide +kernel
theorem test_atom_cas : ((atomLanes 7 4 0 ((List.range 32).map fun l => ⟨l, 0, 0, BitVec.ofNat 64 (l + 1)⟩) 0).map
    fun r => (r.1.headD 9, (r.1.drop 1).all (· == 1), r.2)) = some (0, true, 1) := by decide +kernel
/-- Chapter 9: with 8 GiB interleaved, address 0x0012_3456_7880 lies in channel 54 of die 0, index 0x91A2B3, set 0xBA9. -/
theorem test_home : (homeOf 8 (0x1234567880 / 128), setOf 0x91A2B3) = ((0, 54, 0x91A2B3), 0xBA9) := by decide +kernel
/-- Chapter 1: core 1,000 of die 9 is slot 21,736, of cluster 341, with index 32; chapter 13: queue 323's doorbell. -/
theorem test_places : (9 * 2304 + 1000, clusterOfSlot 21736, indexOfSlot 21736, slotOfIndex 341 32) = (21736, 341, 32, 21736) := by
  decide +kernel
theorem test_queue_place : aQ 323 Reg.Q_DOORBELL = 0x14150D4 := by decide +kernel
/-- Chapter 13: at `cq_head` 100 and `tail` 110, a doorbell of 120 is refused and one of 116 admits six descriptors. -/
def belled (v : W32) : Machine.State := after (exec (.doorbell 0 v) (queued [] {} [(Reg.Q_CQ_HEAD, 100), (Reg.Q_TAIL, 110)]))
theorem test_doorbell : ((belled 120).m.rd Reg.Q_TAIL, (belled 120).m.reply.map (·.status)) = (110, some .refusedQueueFull) ∧
    ((belled 116).m.rd Reg.Q_TAIL, (belled 116).m.reply.map (·.status), ((belled 116).m.queue 0).arrived.length) = (116, some .ok, 6) := by
  decide +kernel
/-- Chapter 3: a launch of 3 × 3 block-clusters and 100 in all holds 4 to a cluster. -/
theorem test_slots : (({ queue := 0, seq := 0, desc := packed [(0, 24), (100, 2), (1, 2), (1, 2), (0x22, 1)] } : Launch).perCluster,
    ({ queue := 0, seq := 0, desc := packed [(0, 24), (100, 2), (1, 2), (1, 2), (0x22, 1)] } : Launch).wanted) = (4, 25) := by
  decide +kernel

/-! ### Well-formed terms: one term that each check refuses -/

theorem test_wf_space : (Instr.controlWrite .driver 0 0x4000000 4 0).wf = false ∧ (Instr.lowHalfRead .driver 0 ⟨0x4000000, 4⟩).wf = false := by
  decide +kernel
/-- Functions that the form's opcode map leaves out. -/
theorem test_wf_forms : (Instr.add tg .salu ⟨0, 10, 2, 2, 0x0C000000⟩).wf = true ∧
    ∀ c ∈ [Instr.abs tg .salui (iz), .neg tg .valui iz, .not tg .salui iz, .popc tg .valui iz, .clz tg .salui iz, .ctz tg .valui iz,
      .mov tg .valui iz, .sel tg .salui iz, .div tg .vmul iz, .rem tg .vmul iz, .cmp tg .scmp 7 iz, .setc tg 7 iz, .ffma tg .vfpi iz,
      .ffms tg .vfpi iz, .fnma tg .vfpi iz, .fabs tg .vfpi iz, .fneg tg .vfpi iz, .cvt tg 63 iz, .bscale tg 63 iz, .bcvt tg 63 iz,
      .mma tg 63 iz, .mmaSp tg 63 iz, .atom tg 63 iz, .red tg 63 iz, .ldr tg 63 iz, .stc tg 63 iz], c.wf = false := by decide +kernel
/-- A line beyond the memory, an access across a line, an access of no byte. -/
theorem test_wf_lines : ∀ c ∈ [Instr.leaseExpiry (3072 * 2 ^ 23), .rdown (3072 * 2 ^ 23), .putm (3072 * 2 ^ 23) 0, .grante (3072 * 2 ^ 23),
    .puts (3072 * 2 ^ 23), .plainRead (.companion 127 2), .plainRead (.companion 0 0), .plainRead (.companion (3072 * 2 ^ 30) 4),
    .write (.companion (3072 * 2 ^ 23) 0 0)], c.wf = false := by decide +kernel
/-- A wire twice; a message of too many entries, a frame that acknowledges 65 frames. -/
theorem test_wf_links : ∀ c ∈ [Instr.training 0 0 0 [3, 3], .ictDone 0 0 [3, 3], .rd 0 { tmsg .rd with results := List.replicate 64 0 },
    .frame unit0 { frameOf 0 true with acked := 65 }, .frame unit0 { frameOf 0 true with msgs := List.replicate 33 (tmsg .rd) }],
    c.wf = false := by decide +kernel
/-- A datagram beyond the last, one of two where one holds the body, a route table of the wrong size, an entry twice, a body of
more than one datagram, a short key. -/
theorem test_wf_slate : aHeader.wf = true ∧ ∀ c ∈ [Instr.identity { aHeader with chunk := 1 },
    .identity { aHeader with chunks := 2 }, .routeLoad { aHeader with chunks := 5 } 0 [] [],
    .rxUpdate aHeader [(0, { valid := true, kslot := 0, partition := 0, epoch := 0 }), (0, { valid := true, kslot := 0, partition := 0, epoch := 0 })],
    .fwStage aHeader (List.replicate 1136 0) true, .keyLoad aHeader []], c.wf = false := by decide +kernel

end Sys2Proof.Tests
end

/-! PROOFS. What outlives a warm reset under every command (R12, R442, R477, R490, R493): the seal, the sealed window base, the energy
counter, the strap word and the credentials. -/
namespace Sys2Proof.Machine

/-! ### What a command leaves of the kept state -/

/-- The commands that change the credentials of a powered module (R490, R493). -/
def setsCreds : Instr → Bool
  | .credSet _ _ _ _ | .enroll _ => true
  | _ => false

theorem setsCreds_eq_false {c : Instr} (h₁ : ∀ h i key roles, c ≠ .credSet h i key roles) (h₂ : ∀ key, c ≠ .enroll key) :
    setsCreds c = false := by
  unfold setsCreds
  split
  · exact absurd rfl (h₁ _ _ _ _)
  · exact absurd rfl (h₂ _)
  · rfl

/-- What is held from one kept state to the next: a seal stays, and with it the window base; the energy counter does not fall; the strap
word stays; the credentials stay unless `free`. -/
def Kept.Holds (free : Bool) (k l : Kept) : Prop :=
  (k.sealed = true → l.sealed = true ∧ l.winBase = k.winBase) ∧ k.energy.toNat ≤ l.energy.toNat ∧ l.strap = k.strap ∧
    (free = false → l.creds = k.creds)

variable {free : Bool}

theorem Kept.Holds.refl (k : Kept) : k.Holds free k := ⟨fun h => ⟨h, rfl⟩, Nat.le_refl _, rfl, fun _ => rfl⟩

theorem Kept.Holds.of_eq {k l : Kept} (h : l = k) : k.Holds free l := by
  rw [h]
  exact .refl k

theorem Kept.Holds.trans {k l n : Kept} (h : k.Holds free l) (h' : l.Holds free n) : k.Holds free n := by
  obtain ⟨hs, he, ht, hc⟩ := h
  obtain ⟨hs', he', ht', hc'⟩ := h'
  refine ⟨fun h => ?_, he.trans he', ht'.trans ht, fun h => (hc' h).trans (hc h)⟩
  obtain ⟨hl, hw⟩ := hs h
  exact ⟨(hs' hl).1, (hs' hl).2.trans hw⟩

/-- A change of other fields alone: of the firmware banks, the sequence numbers and the addresses. -/
theorem Kept.Holds.of_fields {k l : Kept} (hs : l.sealed = k.sealed := by rfl) (hw : l.winBase = k.winBase := by rfl)
    (he : l.energy = k.energy := by rfl) (ht : l.strap = k.strap := by rfl) (hc : l.creds = k.creds := by rfl) : k.Holds free l :=
  ⟨fun h => ⟨hs.trans h, hw⟩, Nat.le_of_eq (congrArg _ he.symm), ht, fun _ => hc⟩

/-- What both branches hold is held. -/
theorem Kept.Holds.ite {α : Type} (f : α → Kept) {p : Prop} [Decidable p] {k : Kept} {a b : α} (ha : k.Holds free (f a))
    (hb : k.Holds free (f b)) : k.Holds free (f (if p then a else b)) := by
  split
  · exact ha
  · exact hb

theorem Kept.Holds.iteFst {α : Type} {p : Prop} [Decidable p] {k : Kept} {a b : State × α} (ha : k.Holds free a.1.kept)
    (hb : k.Holds free b.1.kept) : k.Holds free (if p then a else b).1.kept := .ite (fun r : State × α => r.1.kept) ha hb

/-- Sealing, and a change of an unsealed window base (R12, R477). -/
theorem Kept.Holds.seal (k : Kept) : k.Holds free { k with sealed := true } :=
  ⟨fun _ => ⟨rfl, rfl⟩, Nat.le_refl _, rfl, fun _ => rfl⟩
theorem Kept.Holds.winBase {k : Kept} (h : k.sealed = false) (w : W64) : k.Holds free { k with winBase := w } :=
  ⟨fun h' => absurd h' (by simp [h]), Nat.le_refl _, rfl, fun _ => rfl⟩

/-- A change of the credentials, with the numbers counted under them, where they are free. -/
theorem Kept.Holds.creds (k : Kept) (c : Tab Cred) (n : Tab W64) : k.Holds true { k with creds := c, lastSeq := n } :=
  ⟨fun h => ⟨h, rfl⟩, Nat.le_refl _, rfl, fun h => nomatch h⟩

/-- The energy counter saturates at its largest value instead of passing it (R442). -/
theorem addEnergy_ge (e : W64) (mw : Nat) : e.toNat ≤ (addEnergy e mw).toNat := by
  have h := e.isLt
  rw [addEnergy, BitVec.toNat_ofNat, Nat.mod_eq_of_lt (by omega)]
  omega

/-! ### Resets, start-up and firmware -/

theorem Kept.holds_warmed (k : Kept) (m : Mach) : k.Holds free (k.warmed m) := by
  have window : k.Holds free (if k.sealed then k else { k with winBase := 0 }) := by
    split
    · exact .refl k
    · next hs => exact .winBase (Bool.eq_false_iff.mpr hs) 0
  exact window.trans (.ite id (.refl _) (.ite id .of_fields .of_fields))

theorem State.holds_warm (s : State) (cause : Nat) : s.kept.Holds free (s.warm cause).kept := s.kept.holds_warmed s.m

/-- A warm reset that comes under a condition. -/
theorem State.holds_warmIf (s : State) (p : Prop) [Decidable p] (cause : Nat) :
    s.kept.Holds free (if p then s.warm cause else s).kept := by
  split
  · exact s.holds_warm cause
  · exact .refl _

theorem State.holds_warmByCmd (s : State) (who : Requester) : s.kept.Holds free (s.warmByCmd who).kept := by
  unfold State.warmByCmd
  split
  · exact s.holds_warm 1
  · exact .refl _

theorem Kept.holds_select (k : Kept) : k.Holds free k.select := by
  unfold Kept.select
  split
  · exact .refl k
  · split <;> exact .of_fields

theorem execStewardBoot_holds {s t : State} (h : execStewardBoot s = .next t) : s.kept.Holds free t.kept := by
  unfold execStewardBoot at h
  split at h
  · cases h
    exact .refl _
  · dsimp only at h
    split at h <;> cases h <;> exact s.kept.holds_select

theorem execDieJoin_kept {die : Die} {s t : State} (h : execDieJoin die s = .next t) : t.kept = s.kept := by
  unfold execDieJoin at h
  dsimp only at h
  split at h
  · cases h
    rfl
  · split at h <;> cases h <;> rfl

theorem execModuleReady_holds {s t : State} (h : execModuleReady s = .next t) : s.kept.Holds free t.kept := by
  unfold execModuleReady at h
  split at h <;> cases h <;> exact .of_fields

theorem execCapLoop_holds {mw : W32} {volt : BitVec 16} {inA outA inB outB : Byte} {s t : State}
    (h : execCapLoop mw volt inA outA inB outB s = .next t) : s.kept.Holds free t.kept := by
  unfold execCapLoop at h
  split at h <;> cases h
  · exact ⟨fun h => ⟨h, rfl⟩, addEnergy_ge _ _, rfl, fun _ => rfl⟩
  · exact .refl _

theorem execSeal_holds {who : Requester} {v : W32} {s t : State} (h : execSeal who v s = .next t) : s.kept.Holds free t.kept := by
  cases h
  split
  · unfold State.sealWrite
    split
    · exact .seal _
    · exact .refl _
  · exact .refl _

/-! ### Slate requests and credentials -/

/-- A Slate request does no more to the kept state than count its credential's number and act (R490). -/
theorem slateDo_holds {h : SlateHdr} {typ : Nat} {body : List Byte} {role : Option Nat} {act : State → State × Status × List Byte}
    {s t : State} (ht : slateDo h typ body role act s = .next t) (ha : ∀ u : State, u.kept.Holds free (act u).1.kept) :
    s.kept.Holds free t.kept := by
  cases ht
  have counted : s.kept.Holds free (if role.isNone then { s with m := (s.m.collect h).1 } else { s with
      kept := { s.kept with lastSeq := s.kept.lastSeq.put h.cred.toNat h.seq }
      m := (s.m.collect h).1 } : State).kept := .ite State.kept (.refl _) .of_fields
  exact .ite State.kept (.refl _) (.ite State.kept (.refl _) (.ite State.kept (.refl _) (counted.trans (ha _))))

theorem State.holds_fwStage (s : State) (cred : Nat) (chunk : List Byte) (last : Bool) :
    s.kept.Holds free (s.fwStage cred chunk last).1.kept := by
  have put (set : List Byte) : s.kept.Holds free (s.putBank set).kept :=
    .ite id .of_fields .of_fields
  exact .iteFst (.refl _) (.iteFst (put []) (.iteFst (put _) (put [])))

theorem State.holds_fwActivate (s : State) : s.kept.Holds free s.fwActivate.1.kept := by
  unfold State.fwActivate
  split
  · exact .refl _
  · split <;> exact .of_fields

theorem State.holds_fwConfirm (s : State) : s.kept.Holds free s.fwConfirm.1.kept := by
  unfold State.fwConfirm
  split <;> exact .of_fields

theorem State.holds_credSet (s : State) (i : Nat) (key : BitVec 256) (roles : BitVec 6) :
    s.kept.Holds true (s.credSet i key roles).1.kept :=
  .iteFst (.refl _) (.creds ..)

theorem execEnroll_holds {key : BitVec 256} {s t : State} (h : execEnroll key s = .next t) : s.kept.Holds true t.kept := by
  unfold execEnroll at h
  split at h
  · cases h
    exact .refl _
  · split at h <;> cases h
    · exact .refl _
    · exact .creds ..

/-! ### Control space -/

theorem State.holds_writeEffect (s : State) (who : Requester) (die off : Nat) (h : RegHit) (x : WideAcc) :
    s.kept.Holds free (s.writeEffect who die off h x).1.kept := by
  have window : s.kept.Holds free (if s.kept.sealed then (s, Status.errSecurity) else
      ({ s with kept := { s.kept with winBase := wideValue s.kept.winBase x &&& BitVec.ofNat 64 h.row.rwl } }, .ok)).1.kept := by
    split
    · exact .refl _
    · next hs => exact .winBase (Bool.eq_false_iff.mpr hs) _
  exact .iteFst (.ite State.kept (.refl _) (s.holds_warm 1))
    (.iteFst (.ite State.kept (.seal _) (.refl _)) (.iteFst window (.refl _)))

theorem State.holds_writeWord (s : State) (who : Requester) (die off : Nat) (full : Option W64) (v : W32) :
    s.kept.Holds free (s.writeWord who die off full v).1.kept := by
  unfold State.writeWord
  split
  · exact .refl _
  · dsimp only
    split
    · exact .refl _
    · exact State.holds_writeEffect { s with m := s.m.endLatch _ _ _ _ } _ _ _ _ _

theorem State.holds_controlWrite (s : State) (who : Requester) (die off size : Nat) (data : W64) :
    s.kept.Holds free (s.controlWrite who die off size data).1.kept := by
  have word (u : State) (o : Nat) (w : W32) := u.holds_writeWord (free := free) who die o none w
  exact .iteFst (.refl _) (.iteFst (word s off _) (.iteFst (s.holds_writeWord who die off (some data) _)
    (.iteFst (.refl _) ((word s off _).trans (word _ (off + 4) _)))))

theorem execControlWrite_holds {who : Requester} {die : Die} {off size : Nat} {data : W64} {s t : State}
    (h : execControlWrite who die off size data s = .next t) : s.kept.Holds free t.kept := by
  cases h
  split
  · exact .refl _
  · exact s.holds_controlWrite ..

theorem State.wordRead_kept (s : State) (who : Requester) (die off : Nat) (h : RegHit) :
    (s.wordRead who die off h).1.kept = s.kept := by
  unfold State.wordRead
  dsimp only
  split
  · rfl
  · split <;> rfl

theorem State.read4_kept (s : State) (who : Requester) (die off : Nat) : (s.read4 who die off).kept = s.kept := by
  unfold State.read4
  split
  · rfl
  · exact s.wordRead_kept ..

theorem State.read8_kept (s : State) (who : Requester) (die off : Nat) : (s.read8 who die off).kept = s.kept := by
  unfold State.read8
  split
  · rfl
  · rfl
  · rfl
  · split
    · rfl
    · exact (State.wordRead_kept _ ..).trans (s.wordRead_kept ..)

theorem execLowHalfRead_kept {who : Requester} {die : Die} {off : ReadAt} {s t : State}
    (h : execLowHalfRead who die off s = .next t) : t.kept = s.kept := by
  cases h
  split
  · unfold State.controlRead
    split
    · rfl
    · split
      · exact s.read4_kept ..
      · exact s.read8_kept ..
  · rfl

/-! ### Every command -/

/-- Every command but a power-on reset and a fall of PWR_GOOD holds the kept state; most act on the machine alone. -/
theorem exec_holds {c : Instr} {s t : State} (h : exec c s = .next t) (hf : c ≠ .pwrGoodFall)
    (hp : ∀ strap a b, c ≠ .powerOnReset strap a b) : s.kept.Holds (setsCreds c) t.kept := by
  -- The goal has a name because the case of SEAL is a keyword of Lean when it stands alone.
  refine ?command
  cases c
  case powerOnReset strap a b => exact absurd rfl (hp strap a b)
  case pwrGoodFall => exact absurd rfl hf
  case controlWrite => exact execControlWrite_holds h
  case lowHalfRead => exact .of_eq (execLowHalfRead_kept h)
  case capLoop => exact execCapLoop_holds h
  case command.seal => exact execSeal_holds h
  case stewardBoot => exact execStewardBoot_holds h
  case dieJoin => exact .of_eq (execDieJoin_kept h)
  case moduleReady => exact execModuleReady_holds h
  case rstCmdWarmReset who =>
    cases h
    split
    · exact s.holds_warmByCmd who
    · exact .refl _
  case warmRstN => cases h; exact s.holds_warmIf _ 3
  case stewardWarmReset => cases h; exact s.holds_warmIf _ 4
  case warmReset =>
    refine slateDo_holds h fun u => ?_
    dsimp only
    split
    · exact .refl _
    · exact u.holds_warm 2
  case attest | identity | telemetry | routeLoad | deadClear | rxUpdate | keyLoad | epochRetire =>
    exact slateDo_holds h fun u => .refl _
  case setAddr => exact slateDo_holds h fun u => .of_fields
  case fwStage => exact slateDo_holds h fun u => u.holds_fwStage ..
  case fwActivate => exact slateDo_holds h State.holds_fwActivate
  case fwConfirm => exact slateDo_holds h State.holds_fwConfirm
  case credSet => exact slateDo_holds h fun u => u.holds_credSet ..
  case enroll => exact execEnroll_holds h
  all_goals
    dsimp only [exec] at h
    exact .of_eq (whenOn_next h).2.1

/-! ### The sealed register -/

/-- Both halves of the window base are its register, in the one copy that die 0 has. -/
theorem ctlFind_winBase {o : Nat} (ho : o = Reg.VL_WIN_BASE ∨ o = Reg.VL_WIN_BASE + 4) :
    ∃ h, ctlFind 0 o = some h ∧ h.row.addr = Reg.VL_WIN_BASE := by
  have found : ∀ o ∈ [Reg.VL_WIN_BASE, Reg.VL_WIN_BASE + 4],
      ((ctlFind 0 o).any fun h => h.row.addr == Reg.VL_WIN_BASE) = true := by decide +kernel
  obtain ⟨h, hf, ha⟩ := (Option.any_eq_true _ _).mp (found o (by simpa using ho))
  exact ⟨h, hf, by simpa using ha⟩

/-- A write of the sealed window base that reaches it ends the requester's latch of it, and does nothing else (R12). -/
theorem writeWord_sealed {s : State} {who : Requester} {o : Nat} (full : Option W64) (v : W32)
    (ho : o = Reg.VL_WIN_BASE ∨ o = Reg.VL_WIN_BASE + 4) (hr : Reaches s who 0 o) (hs : s.kept.sealed = true) :
    ∃ l, s.writeWord who 0 o full v = (s.but { s.m with latches := l }, .errSecurity) := by
  obtain ⟨-, -, -, k, hk⟩ := hr
  obtain ⟨hf, hb⟩ := ctlLook_inl hk
  obtain ⟨h, hf', ha⟩ := ctlFind_winBase ho
  obtain rfl : k = h := Option.some.inj (hf.symm.trans hf')
  refine ⟨(s.m.endLatch who 0 o k).latches, ?_⟩
  unfold State.writeWord State.writeEffect
  rw [hf]
  dsimp only
  rw [hb, ha, if_neg (fun c => absurd c.1 (by decide)), if_neg (by decide), if_pos rfl, if_pos hs, ← endLatch_eq]

/-- Each of the three writes of the window base, of both halves or of one, is a single write of its register (R8). -/
theorem controlWrite_sealed {s : State} {who : Requester} {o size : Nat} (x : W64)
    (ho : (o, size) ∈ [(Reg.VL_WIN_BASE, 8), (Reg.VL_WIN_BASE, 4), (Reg.VL_WIN_BASE + 4, 4)]) (hr : Reaches s who 0 o)
    (hs : s.kept.sealed = true) : ∃ l, s.controlWrite who 0 o size x = (s.but { s.m with latches := l }, .errSecurity) := by
  simp only [List.mem_cons, Prod.mk.injEq, List.not_mem_nil, or_false] at ho
  obtain ⟨rfl, rfl⟩ | ⟨rfl, rfl⟩ | ⟨rfl, rfl⟩ := ho
  · exact writeWord_sealed (some x) (x.setWidth 32) (.inl rfl) hr hs
  · exact writeWord_sealed none _ (.inl rfl) hr hs
  · exact writeWord_sealed none _ (.inr rfl) hr hs

/-- Settles O55: it holds. Each command that reaches the kept state holds it by its own lemma, all others act on the machine alone. -/
theorem sealEnergyAndCredentialsHold : Obligations.SealEnergyAndCredentialsHold := by
  refine ⟨fun s t c h hf hp => ?_, fun s who o size x ho hr hs => ?_⟩
  · obtain ⟨hs, he, ht, hc⟩ := exec_holds h hf hp
    exact ⟨hs, he, ht, fun h₁ h₂ => hc (setsCreds_eq_false h₁ h₂)⟩
  · obtain ⟨l, hl⟩ := controlWrite_sealed x ho hr hs
    obtain ⟨hon, hreach, hdue, -⟩ := hr
    refine ⟨_, rfl, ?_⟩
    rw [if_neg (by simpa [Mach.powered, hon, hreach] using hdue)]
    dsimp only
    rw [show (0 : Die).val = 0 from rfl, hl]
    rfl

end Sys2Proof.Machine

/-! PROOFS. The multiplies, divisions, selects and moves (R101 to R103): each command is an issue of registers, so what is left is that
the value it writes is the statement's. -/
namespace Sys2Proof.Machine

/-! ### What a result does to the group, in the statements' terms -/

theorem scalarOut_eq_scalarGets (x : Group) (w : IW) (v : W64) : x.scalarOut w v = scalarGets x w v := scalarOut_eq x w v

/-- A vector result by its lanes; lanes past the 32nd do not matter. -/
theorem vectorOut_eq_lanesGet (x : Group) (w : IW) {f r : Nat → W32} (h : ∀ l, l < 32 → f l = r l) :
    x.vectorOut w (vmake f) = lanesGet x w r := by
  rw [vmake_congr h]
  exact vectorOut_vmake x w r

theorem vectorOut_vsplat (x : Group) (w : IW) (v : W32) : x.vectorOut w (vsplat v) = lanesGet x w fun _ => v :=
  vectorOut_vmake x w _

theorem vget_vOrS_eq_laneB (x : Group) (w : IW) {l : Nat} (h : l < 32) : vget (x.vOrS w) l = laneB x w l := vget_vOrS x w h

/-- A command that issues an instruction of registers whose checks pass completes, and its group becomes what the effect gives. -/
theorem exec_issueReg {s : State} {g : GRef} {c : Instr} {x y : Group} {chk : Option Refuse} {f : Group → Group}
    (he : exec c s = asFetched g c (fun m => m.issueReg g chk f) s) (h : Before s g c x) (hc : chk = none) (hy : f x = y) :
    ∃ t, exec c s = .next t ∧ Issued s t g y.advance := by
  rw [he, ← hy]
  exact issueReg_next h hc

/-! ### Products and quotients -/

theorem tyWidth_cases (t : Nat) : tyWidth t = 32 ∨ tyWidth t = 64 := by
  unfold tyWidth
  split
  · exact .inr rfl
  · exact .inl rfl

/-- A result of a type forgets what lies above the type's width. -/
theorem extend_ofI_add_two_pow (t : Nat) (z : Int) : extend t (ofI (z + 2 ^ tyWidth t)) = extend t (ofI z) := by
  unfold extend
  rcases tyWidth_cases t with h | h
  · have low : (ofI (z + 2 ^ 32)).setWidth 32 = (ofI z).setWidth 32 := by
      refine BitVec.eq_of_toNat_eq ?_
      simp only [ofI, BitVec.toNat_setWidth, BitVec.toNat_ofInt]
      omega
    rw [h, low, if_pos rfl, if_pos rfl]
  · have full : ofI (z + 2 ^ 64) = ofI z := by
      refine BitVec.eq_of_toNat_eq ?_
      simp only [ofI, BitVec.toNat_ofInt]
      omega
    rw [h, full]

/-- R102: narrowing the exact quotient gives the most negative number by −1 its own value. -/
theorem extend_quotient (t : Nat) (a b : W64) : extend t (ofI (divRem t a b).1) = extend t
    (if tyInt t b = 0 then ofI (2 ^ tyWidth t - 1) else ofI ((tyInt t a).tdiv (tyInt t b))) := by
  unfold divRem
  dsimp only
  split
  · rfl
  · split
    · next hmin =>
      obtain ⟨-, hx, hy⟩ := hmin
      have wrap : (tyInt t a).tdiv (tyInt t b) = tyInt t a + 2 ^ tyWidth t := by
        rw [hx, hy]
        rcases tyWidth_cases t with h | h <;> rw [h] <;> decide
      rw [wrap, extend_ofI_add_two_pow]
    · rfl

/-- R102: the remainder of the most negative number by −1 is 0, as the exact one is. -/
theorem remainder_eq (t : Nat) (a b : W64) :
    (divRem t a b).2 = if tyInt t b = 0 then tyInt t a else (tyInt t a).tmod (tyInt t b) := by
  unfold divRem
  dsimp only
  split
  · rfl
  · split
    · next hmin =>
      obtain ⟨-, -, hy⟩ := hmin
      rw [hy, Int.tmod_neg, Int.tmod_one]
    · exact (Int.tmod_def _ _).symm

section
variable {g : GRef} {k : MulForm} {w : IW} {row : Instr × IntOp × (W64 → W64 → W64 → W64)} (h : row ∈ mulRows g k w)
include h

/-- Each command of the MUL majors issues its function. -/
theorem exec_mulRow (s : State) : exec row.1 s = asFetched g row.1 (fun m => m.mulOp g row.2.1 k w) s := by
  simp only [mulRows, List.mem_cons, List.not_mem_nil, or_false] at h
  obtain rfl | rfl | rfl | rfl | rfl := h <;> rfl

/-- Every function of the MUL majors but DIV gives its row's value before R98 widens it. -/
theorem intOp_mulRow (a b c : W64) : intOp row.2.1 w.t a b c = row.2.2 a b c ∨ row = (.div g k w, .div, fun a b _ =>
    if tyInt w.t b = 0 then ofI (2 ^ tyWidth w.t - 1) else ofI ((tyInt w.t a).tdiv (tyInt w.t b))) := by
  simp only [mulRows, List.mem_cons, List.not_mem_nil, or_false] at h
  obtain rfl | rfl | rfl | rfl | rfl := h
  · exact .inl rfl
  · exact .inl rfl
  · exact .inl rfl
  · exact .inr rfl
  · exact .inl ((congrArg ofI (remainder_eq w.t a b)).trans (apply_ite ofI _ _ _))

/-- Widened, all of them give their row's value. -/
theorem extend_mulRow (a b c : W64) : extend w.t (intOp row.2.1 w.t a b c) = extend w.t (row.2.2 a b c) := by
  obtain he | rfl := intOp_mulRow h a b c
  · rw [he]
  · exact extend_quotient w.t a b

/-- The vector major has no DIV, so there every function gives its row's value as it is. -/
theorem intOp_mulRow_vmul (hc : mulCheck row.2.1 .vmul w = none) (a b c : W64) :
    intOp row.2.1 w.t a b c = row.2.2 a b c := by
  obtain he | rfl := intOp_mulRow h a b c
  · exact he
  · cases hc
end

/-! What a function of the MUL majors writes: as a scalar, and lane by lane. -/

theorem mulDo_smul {g : GRef} {w : IW} {row : Instr × IntOp × (W64 → W64 → W64 → W64)} (h : row ∈ mulRows g .smul w) (x : Group) :
    x.mulDo row.2.1 .smul w = scalarGets x w (extend w.t (row.2.2 (x.rs w.an) (x.rs w.b) (x.rs w.c))) := by
  rw [← extend_mulRow h]
  exact scalarOut_eq_scalarGets x w _

theorem mulDo_vmul {g : GRef} {w : IW} {row : Instr × IntOp × (W64 → W64 → W64 → W64)} (h : row ∈ mulRows g .vmul w)
    (hc : mulCheck row.2.1 .vmul w = none) (x : Group) :
    x.mulDo row.2.1 .vmul w = lanesGet x w fun l => (row.2.2 ((vget (x.rv w.an) l).setWidth 64) ((laneB x w l).setWidth 64)
      ((vget (x.rv w.c) l).setWidth 64)).setWidth 32 := by
  refine vectorOut_eq_lanesGet x w fun l hl => ?_
  rw [vget_vOrS_eq_laneB x w hl, intOp_mulRow_vmul h hc]

/-! ### SEL and the moves -/

theorem selDo_salu (x : Group) (w : IW) : x.selDo .salu w = scalarGets x w (extend w.t
    (if (if w.t = 4 then (x.rs w.c).setWidth 32 = (0 : W32) else x.rs w.c = 0) then x.rs w.b else x.rs w.an)) := by
  rw [← scalarOut_eq_scalarGets]
  unfold Group.selDo
  by_cases ht : w.t = 4 <;> simp [ht]

theorem selDo_valu (x : Group) (w : IW) : x.selDo .valu w =
    lanesGet x w fun l => if (x.rp w.c).getLsbD l then vget (x.rv w.an) l else laneB x w l :=
  vectorOut_eq_lanesGet x w fun l hl => by rw [vget_vOrS_eq_laneB x w hl]

/-- A low half kept under a new high half is the two put together. -/
theorem highHalf_or (v : W64) (lo : W32) : (v &&& (0xFFFFFFFF : W64)) ||| (lo.setWidth 64 <<< 32) = lo ++ v.setWidth 32 := by
  have low : (v &&& (0xFFFFFFFF : W64)).toNat = v.toNat % 2 ^ 32 := Nat.and_two_pow_sub_one_eq_mod _ 32
  have high : (lo.setWidth 64 <<< 32).toNat = lo.toNat <<< 32 := by
    simp only [BitVec.toNat_shiftLeft, BitVec.toNat_setWidth, Nat.shiftLeft_eq]
    omega
  refine BitVec.eq_of_toNat_eq ?_
  rw [BitVec.toNat_append, BitVec.toNat_or, low, high, Nat.or_comm, BitVec.toNat_setWidth]

/-- A VLANE that passes its checks names one of the 32 lanes. -/
theorem lt_of_vlaneCheck {w : IW} (h : vlaneCheck w = none) : w.lo.toNat < 32 := by
  unfold vlaneCheck at h
  split at h
  · cases h
  · by_contra hl
    rw [if_neg hl] at h
    cases h

/-- Settles O5: it holds. Each command issues registers alone; that its value is the stated one is a lemma on the value. -/
theorem multipliesSelectsAndMovesWriteTheirResult : Obligations.MultipliesSelectsAndMovesWriteTheirResult := by
  refine ⟨⟨fun s g k w x row hrow hb hc => ?_, fun s g k w x hb hc => ?_⟩, fun s g w x =>
    ⟨fun hb hc => ?movi, fun hb hc => ?movhi, fun hb hc => ?vmovi, fun hb hc => ?vbcast, fun hb hc => ?vlane, fun hb hc => ?vlaneid⟩⟩
  · cases k with
    | smul => exact exec_issueReg (exec_mulRow hrow s) hb hc (mulDo_smul hrow x)
    | vmul => exact exec_issueReg (exec_mulRow hrow s) hb hc (mulDo_vmul hrow hc x)
  · cases k with
    | salu => exact exec_issueReg rfl hb hc (selDo_salu x w)
    | valu => exact exec_issueReg rfl hb hc (selDo_valu x w)
    | salui => cases hc
    | valui => cases hc
  case movi => exact exec_issueReg rfl hb hc (scalarOut_eq_scalarGets x w _)
  case movhi =>
    exact exec_issueReg rfl hb hc ((scalarOut_eq_scalarGets x w _).trans (congrArg (scalarGets x w) (highHalf_or _ _)))
  case vmovi => exact exec_issueReg rfl hb hc (vectorOut_vsplat x w _)
  case vbcast => exact exec_issueReg rfl hb hc (vectorOut_vsplat x w _)
  case vlane =>
    refine exec_issueReg rfl hb hc ?_
    rw [scalarOut_eq_scalarGets, Nat.mod_eq_of_lt (lt_of_vlaneCheck hc)]
  case vlaneid => exact exec_issueReg rfl hb hc (vectorOut_eq_lanesGet x w fun _ _ => rfl)

end Sys2Proof.Machine

/-! PROOFS. The reductions across lanes (R161) and the conversions (R131, R162 to R164): a reduction and BSCALE issue registers
alone; CVT and BCVT also advance their core's generator, exactly when they draw. -/
namespace Sys2Proof.Machine

/-! ### The reductions -/

/-- A word that passes the checks of Format R has a type that its command takes. -/
theorem tyOk_of_checkR {w : IW} {ok : Bool} {d a b c : Opd} (h : checkR w ok d a b c = none) : ok = true := by
  cases ok
  · cases h
  · rfl

/-- The types of the integer reductions, .U32 and .S32, have 32 bits. -/
theorem tyWidth_of_lt_two {t : Nat} (h : t < 2) : tyWidth t = 32 := if_neg (by omega)

/-- A lane widened to an operand and narrowed again is that lane. -/
theorem setWidth_widened_lane (a : W32) : (a.setWidth 64).setWidth 32 = a := by simp

/-- R98 leaves an .F32 value, widened to an operand, as it is. -/
theorem extend_f32 (v : W32) : extend 6 (v.setWidth 64) = v.setWidth 64 := congrArg (BitVec.setWidth 64) (setWidth_widened_lane v)

/-- A lane taken as a number of its type is that lane again when it is written back. -/
theorem ofInt_tyInt_lane {t : Nat} (h : t < 2) (a : W32) : BitVec.ofInt 32 (tyInt t (a.setWidth 64)) = a := by
  unfold tyInt
  rw [if_pos (tyWidth_of_lt_two h), setWidth_widened_lane]
  split
  · exact BitVec.ofInt_toInt
  · rw [BitVec.ofInt_natCast, BitVec.ofNat_toNat, BitVec.setWidth_eq]

/-! What the integer functions of Table 6.8 give of two lanes. -/

theorem intOp_add_lane (t : Nat) (a b : W32) : (intOp .add t (a.setWidth 64) (b.setWidth 64) 0).setWidth 32 = a + b :=
  (BitVec.setWidth_add _ _ (by decide)).trans (congrArg₂ _ (setWidth_widened_lane a) (setWidth_widened_lane b))

/-- One of two lanes, chosen as operands, is the number chosen, written back. -/
theorem choose_lane {t : Nat} (h : t < 2) (q : Prop) [Decidable q] (a b : W32) :
    (if q then a.setWidth 64 else b.setWidth 64).setWidth 32 =
      BitVec.ofInt 32 (if q then tyInt t (a.setWidth 64) else tyInt t (b.setWidth 64)) := by
  split <;> rw [ofInt_tyInt_lane h, setWidth_widened_lane]

theorem intOp_max_lane {t : Nat} (h : t < 2) (a b : W32) : (intOp .max t (a.setWidth 64) (b.setWidth 64) 0).setWidth 32 =
    BitVec.ofInt 32 (max (tyInt t (a.setWidth 64)) (tyInt t (b.setWidth 64))) := by
  rw [max_def]
  exact choose_lane h _ b a

theorem intOp_min_lane {t : Nat} (h : t < 2) (a b : W32) : (intOp .min t (a.setWidth 64) (b.setWidth 64) 0).setWidth 32 =
    BitVec.ofInt 32 (min (tyInt t (a.setWidth 64)) (tyInt t (b.setWidth 64))) := by
  rw [min_def]
  exact choose_lane h _ a b

section
variable {s : State} {g : GRef} {c : Instr} {w : IW} {x : Group} {f : W32 → W32 → W32}

/-- A reduction in .F32. -/
theorem exec_redF (he : exec c s = asFetched g c (fun m => m.redF g w f) s) (hb : Before s g c x)
    (hc : checkR w (w.t == 6) .s (.v 1) .none .none = none) : ∃ t, exec c s = .next t ∧ Issued s t g
      (scalarGets x w (extend w.t ((reduceLanes f (x.rp w.pn) (x.rv w.an)).setWidth 64))).advance := by
  have ht : w.t = 6 := eq_of_beq (tyOk_of_checkR hc)
  refine exec_issueReg he hb hc ?_
  rw [ht, extend_f32]
  exact scalarOut_eq_scalarGets x w _

/-- A reduction in .U32 or .S32, whose function of two lanes is f in those types. -/
theorem exec_redI {op : IntOp} (he : exec c s = asFetched g c (fun m => m.redI g w op) s) (hb : Before s g c x)
    (hc : checkR w (w.t < 2) .s (.v 1) .none .none = none)
    (hf : w.t < 2 → ∀ a b : W32, (intOp op w.t (a.setWidth 64) (b.setWidth 64) 0).setWidth 32 = f a b) :
    ∃ t, exec c s = .next t ∧ Issued s t g
      (scalarGets x w (extend w.t ((reduceLanes f (x.rp w.pn) (x.rv w.an)).setWidth 64))).advance := by
  have hop := funext₂ (hf (of_decide_eq_true (tyOk_of_checkR hc)))
  refine exec_issueReg he hb hc ?_
  rw [← hop]
  exact scalarOut_eq_scalarGets x w _
end

/-! ### The draws of a conversion (R131) -/

/-- With an active lane, stochastic rounding draws sixteen words and its core's generator stands behind them. -/
theorem drawWords_of_draws (m : Mach) (slot : Nat) {rs : Bool} {p : W32} (h : rs = true ∧ p ≠ 0) :
    m.drawWords slot rs p = ((rngDraws 16 (m.core slot).rng).1,
      m.setCore slot { m.core slot with rng := (rngDraws 16 (m.core slot).rng).2 }) :=
  if_pos (by simpa using h)

theorem drawWords_of_not_draws (m : Mach) (slot : Nat) {rs : Bool} {p : W32} (h : ¬(rs = true ∧ p ≠ 0)) :
    m.drawWords slot rs p = ([], m) := if_neg (by simpa using h)

/-- A step of a core leaves its generator alone. -/
theorem stepCore_rng (m : Mach) (slot k : Nat) : ((m.stepCore slot k).core slot).rng = (m.core slot).rng := by
  obtain ⟨-, -, hcore, -⟩ := stepCore_spec m slot k
  rw [hcore]
  rfl

/-- An effect that sets its group and its core's generator changes nothing else. -/
theorem issued_setRng (s : State) (g : GRef) (y : Group) (v : W64) :
    let n := s.m.stepCore g.slot.val g.group.val
    Issued s { s with m := (n.setCore g.slot.val { n.core g.slot.val with rng := v }).setGroup g.slot.val g.group.val y } g y
      fun k => { k with rng := v } := by
  obtain ⟨hm, hg, hcore, -⟩ := stepCore_spec s.m g.slot.val g.group.val
  refine issued_of ?_ ?_ rfl rfl ?_
  · rw [Mach.setGroup_groups, Mach.setCore_groups, hg]
  · rw [hcore]
    rfl
  · generalize s.m.stepCore g.slot.val g.group.val = n at *
    rw [hm]
    rfl

/-- A conversion that draws under q: its group becomes y of the words drawn, and its core's generator advances under q alone. -/
theorem exec_drawing {s : State} {g : GRef} {c : Instr} {x : Group} {chk : Option Refuse} {f : Mach → Group → IssRes}
    {q : Prop} [Decidable q] {rs : Bool} {p : W32} {y : List W64 → Group}
    (he : exec c s = asFetched g c (fun m => m.issue g chk f) s) (hb : Before s g c x) (hc : chk = none)
    (hq : rs = true ∧ p ≠ 0 ↔ q)
    (hf : ∀ m, f m x = .done ((m.drawWords g.slot.val rs p).2.setGroup g.slot.val g.group.val
      (y (m.drawWords g.slot.val rs p).1).advance)) :
    ∃ t, exec c s = .next t ∧
      Issued s t g (y (if q then (rngDraws 16 (s.m.core g.slot.val).rng).1 else [])).advance
        fun k => if q then { k with rng := (rngDraws 16 (s.m.core g.slot.val).rng).2 } else k := by
  rw [he]
  have hdone := issue_done hb hc (hf _)
  by_cases h : q
  · simp only [if_pos h]
    rw [drawWords_of_draws _ _ (hq.2 h), stepCore_rng] at hdone
    exact ⟨_, hdone, issued_setRng s g _ _⟩
  · simp only [if_neg h]
    rw [drawWords_of_not_draws _ _ (mt hq.1 h)] at hdone
    obtain ⟨t, ht, hissued⟩ := issueReg_next (f := fun _ => y []) hb hc
    exact ⟨t, hdone.trans ((issue_done hb hc rfl).symm.trans ht), hissued⟩

/-! ### Formats that the checks let through -/

theorem elemFmt_of_bscaleCheck {func : Nat} {w : IW} (h : bscaleCheck func w = none) : ∃ f, elemFmt func = some f := by
  refine Option.ne_none_iff_exists'.1 fun hn => ?_
  rw [bscaleCheck, hn] at h
  cases h

theorem elemFmt_of_bcvtCheck {func : Nat} {w : IW} (h : bcvtCheck func w = none) : ∃ f, elemFmt func = some f := by
  refine Option.ne_none_iff_exists'.1 fun hn => ?_
  rw [bcvtCheck, hn] at h
  cases h

/-! ### CVT, BSCALE and BCVT -/

section
variable {s : State} {g : GRef} {func : BitVec 6} {w : IW} {x : Group}

/-- R131, R162: CVT converts lane by lane, with the lane's own random word. That `bs` gives every lane a scalar as its second source
is the model's choice (log 86). -/
theorem exec_cvt (hb : Before s g (.cvt g func w) x) (hc : cvtCheck func.toNat w = none) :
    ∃ t, exec (.cvt g func w) s = .next t ∧
      let draws := w.c % 4 = 2 ∧ x.rp w.pn ≠ 0
      let r := rngDraws 16 (s.m.core g.slot.val).rng
      Issued s t g (lanesGet x w fun l =>
          cvtLane func.toNat (w.c % 4) (w.c / 8 % 4) (w.c / 4 % 2 == 1) (rngWord (if draws then r.1 else []) l)
            (vget (x.rv w.dn) l) (vget (x.rv w.an) l) (laneB x w l)).advance
        fun c => if draws then { c with rng := r.2 } else c := by
  refine exec_drawing (rs := w.c % 4 == 2) (p := x.rp w.pn) (y := fun ds => lanesGet x w fun l =>
    cvtLane func.toNat (w.c % 4) (w.c / 8 % 4) (w.c / 4 % 2 == 1) (rngWord ds l) (vget (x.rv w.dn) l) (vget (x.rv w.an) l)
      (laneB x w l)) rfl hb hc (by rw [beq_iff_eq]) fun m => ?_
  exact congrArg (fun z : Group => IssRes.done (Mach.setGroup _ _ _ z.advance)) <| vectorOut_eq_lanesGet x w fun l hl =>
    congrArg (cvtLane _ _ _ _ _ _ _) (vget_vOrS_eq_laneB x w hl)

/-- R163: BSCALE writes the scale of the active lanes in its element format. -/
theorem exec_bscale (hb : Before s g (.bscale g func w) x) (hc : bscaleCheck func.toNat w = none) :
    ∃ t, exec (.bscale g func w) s = .next t ∧ ∃ f, elemFmt func.toNat = some f ∧
      Issued s t g (scalarGets x w (BitVec.ofNat 64 (blockScale f (laneVals (x.rp w.pn) (x.rv w.an))).1)).advance := by
  obtain ⟨f, hf⟩ := elemFmt_of_bscaleCheck hc
  obtain ⟨t, ht, hissued⟩ := exec_issueReg rfl hb hc rfl
  refine ⟨t, ht, f, hf, ?_⟩
  rw [hf] at hissued
  rwa [← scalarOut_eq_scalarGets]

/-- R131, R164: BCVT converts its block with the words drawn. That an element takes its own lane's word whatever the governing bit
is the model's choice (log 108). -/
theorem exec_bcvt (hb : Before s g (.bcvt g func w) x) (hc : bcvtCheck func.toNat w = none) :
    ∃ t, exec (.bcvt g func w) s = .next t ∧ ∃ f, elemFmt func.toNat = some f ∧
      let draws := w.lo.toNat / 64 % 4 = 2 ∧ x.rp w.pn ≠ 0
      let r := rngDraws 16 (s.m.core g.slot.val).rng
      Issued s t g (x.bcvtDo f w (if draws then r.1 else [])).advance
        fun c => if draws then { c with rng := r.2 } else c := by
  obtain ⟨f, hf⟩ := elemFmt_of_bcvtCheck hc
  obtain ⟨t, ht, hissued⟩ := exec_drawing (rs := w.lo.toNat / 64 % 4 == 2) (p := x.rp w.pn) (y := x.bcvtDo f w) rfl hb hc
    (by rw [beq_iff_eq]) fun m => by rw [hf]
  exact ⟨t, ht, f, hf, hissued⟩
end

/-- Settles O8: it holds. Each reduction is one of R161 on its function of two lanes; CVT and BCVT draw exactly as R131 says. -/
theorem reductionsAndConversionsWriteTheirResult : Obligations.ReductionsAndConversionsWriteTheirResult := by
  refine ⟨fun s g w x row hrow hb hc => ?_, fun s g func w x => ⟨exec_cvt, exec_bscale, exec_bcvt⟩⟩
  simp only [vredRows, List.mem_cons, List.not_mem_nil, or_false] at hrow
  rcases hrow with rfl | rfl | rfl | rfl | rfl | rfl
  · exact exec_redF rfl hb hc
  · exact exec_redF rfl hb hc
  · exact exec_redF rfl hb hc
  · exact exec_redI rfl hb hc fun _ => intOp_add_lane w.t
  · exact exec_redI rfl hb hc intOp_max_lane
  · exact exec_redI rfl hb hc intOp_min_lane

end Sys2Proof.Machine
